-- ==== Sys2Proof/Word.lean ====
section
/-! DEFINITION. The word types of the Apheyth H2 (R1, R3, R5, R22): the 64-bit register, the byte, the 32-bit
instruction word, and the virtual address. -/
namespace Sys2Proof

/-- A scalar register, a control register or an aligned 8-byte memory unit (R5, R108). -/
abbrev Word := BitVec 64
/-- A byte of memory (R3). -/
abbrev Byte := BitVec 8
/-- An instruction word or a micro-order (R3, R146). -/
abbrev IWord := BitVec 32
/-- A 56-bit virtual address (R22). -/
abbrev VAddr := BitVec 56

end Sys2Proof
end

