-- ==== Sys2Proof/Machine/Bits.lean ====
section
/-! DEFINITION. Bit fields of words: the layouts of the scalar formats (R136), of the engine-command form (R141) and
of the micro-order (R146), read and built; little-endian byte order (R1). -/
namespace Sys2Proof.Bits

/-- Bits [lo + len - 1 : lo] of `w` (R1). -/
def fld {n : Nat} (w : BitVec n) (lo len : Nat) : BitVec len := w.extractLsb' lo len

/-- Field [lo + len - 1 : lo] of `w` as a number. -/
def fldN {n : Nat} (w : BitVec n) (lo len : Nat) : Nat := (fld w lo len).toNat

/-- Bit `i` of `w` (R1). -/
def bit {n : Nat} (w : BitVec n) (i : Nat) : Bool := w.getLsbD i

/-- `w` with the field at `lo` of `v`'s width replaced by `v`. -/
def setFld {n m : Nat} (w : BitVec n) (lo : Nat) (v : BitVec m) : BitVec n :=
  (w &&& ~~~((BitVec.allOnes m).setWidth n <<< lo)) ||| (v.setWidth n <<< lo)

/-- A Boolean as one bit. -/
def b1 (b : Bool) : BitVec 1 := BitVec.ofBool b

/-- The major opcode, bits [31:26] of word 0 (R136). -/
def opc (w : IWord) : BitVec 6 := fld w 26 6
/-- Field d (or s, pd with its top bit), bits [25:20] (R136). -/
def rd (w : IWord) : BitVec 6 := fld w 20 6
/-- Field a, bits [19:14] (R136). -/
def ra (w : IWord) : BitVec 6 := fld w 14 6
/-- Field b, bits [13:8] (R136). -/
def rb (w : IWord) : BitVec 6 := fld w 8 6
/-- Field fn of format R, bits [7:0] (R136). -/
def fn (w : IWord) : BitVec 8 := fld w 0 8
/-- Field imm14 or off14 of formats I and M, bits [13:0] (R136). -/
def i14 (w : IWord) : BitVec 14 := fld w 0 14
/-- Field pd or p of formats P and B, bits [25:21] (R136). -/
def pd (w : IWord) : BitVec 5 := fld w 21 5
/-- Field N of formats P and B, bit 20 (R136). -/
def ng (w : IWord) : BitVec 1 := fld w 20 1
/-- Field cc of format P, bits [7:4] (R136). -/
def cc (w : IWord) : BitVec 4 := fld w 4 4
/-- Field fn of format P, bits [3:0] (R136). -/
def pfn (w : IWord) : BitVec 4 := fld w 0 4
/-- Field off20 of format B, bits [19:0] (R136). -/
def o20 (w : IWord) : BitVec 20 := fld w 0 20
/-- Field ENG of format E, bits [25:23] (R136). -/
def eng (w : IWord) : BitVec 3 := fld w 23 3
/-- Field CMD of format E, bits [22:16] (R136). -/
def cmd (w : IWord) : BitVec 7 := fld w 16 7
/-- Field SYNC of format E, bits [15:0] (R136). -/
def sync (w : IWord) : BitVec 16 := fld w 0 16
/-- Word 1 of format E: a [31:26], b [25:20], c [19:14], T [13:8], CB [7:0] (R136). -/
def ea (w : IWord) : BitVec 6 := fld w 26 6
/-- Field b of word 1 of format E (R136). -/
def eb (w : IWord) : BitVec 6 := fld w 20 6
/-- Field c of word 1 of format E (R136). -/
def ec (w : IWord) : BitVec 6 := fld w 14 6
/-- Field T of word 1 of format E (R136). -/
def et (w : IWord) : BitVec 6 := fld w 8 6
/-- Field CB of word 1 of format E (R136). -/
def ecb (w : IWord) : BitVec 8 := fld w 0 8
/-- Field SUB of format L, bits [13:10] (R136). -/
def sub4 (w : IWord) : BitVec 4 := fld w 10 4
/-- The 42-bit immediate of format L: word 0 [9:0] and word 1 (R144). -/
def i42 (w0 w1 : IWord) : BitVec 42 := fld w0 0 10 ++ w1

/-- A format R word (R136). -/
def mkR (op d a b : BitVec 6) (fn : BitVec 8) : IWord := op ++ d ++ a ++ b ++ fn
/-- A format I or M word (R136). -/
def mkI (op d a : BitVec 6) (i : BitVec 14) : IWord := op ++ d ++ a ++ i
/-- A format P word (R136). -/
def mkP (op : BitVec 6) (p : BitVec 5) (n : BitVec 1) (a b : BitVec 6) (c f : BitVec 4) : IWord :=
  op ++ p ++ n ++ a ++ b ++ c ++ f
/-- A format B word (R136). -/
def mkB (op : BitVec 6) (p : BitVec 5) (n : BitVec 1) (o : BitVec 20) : IWord := op ++ p ++ n ++ o
/-- Word 0 of format E (R136). -/
def mkE0 (op : BitVec 6) (e : BitVec 3) (c : BitVec 7) (s : BitVec 16) : IWord := op ++ e ++ c ++ s
/-- Word 1 of format E (R136). -/
def mkE1 (a b c t : BitVec 6) (cb : BitVec 8) : IWord := a ++ b ++ c ++ t ++ cb
/-- Word 0 of format L (R144). -/
def mkL0 (op d a : BitVec 6) (s : BitVec 4) (i : BitVec 42) : IWord := op ++ d ++ a ++ s ++ fld i 32 10
/-- Word 1 of format L (R144). -/
def mkL1 (i : BitVec 42) : IWord := fld i 0 32

/-- Field op of a micro-order, bits [31:25] (R146). -/
def uop (w : IWord) : BitVec 7 := fld w 25 7
/-- Field vd of a micro-order, bits [24:20] (R146). -/
def ud (w : IWord) : BitVec 5 := fld w 20 5
/-- Field va of a micro-order, bits [19:15] (R146). -/
def ua (w : IWord) : BitVec 5 := fld w 15 5
/-- Field vb of a micro-order, bits [14:10] (R146). -/
def ub (w : IWord) : BitVec 5 := fld w 10 5
/-- The mask field of a micro-order, bits [9:7] (R146). -/
def um (w : IWord) : BitVec 3 := fld w 7 3
/-- The modifier of a micro-order, bits [6:0] (R146). -/
def umod (w : IWord) : BitVec 7 := fld w 0 7
/-- A micro-order (R146). -/
def mkU (op : BitVec 7) (d a b : BitVec 5) (m : BitVec 3) (x : BitVec 7) : IWord := op ++ d ++ a ++ b ++ m ++ x
/-- The modifier FMT [6:3], RM [2:1], SAT [0] of the arithmetic and conversion classes (R146). -/
def mkMod (f : BitVec 4) (r : BitVec 2) (s : BitVec 1) : BitVec 7 := f ++ r ++ s

/-- The `n` bytes of `w`, least significant first (R1). -/
def toBytes {k : Nat} (w : BitVec k) : Nat → List Byte
  | 0 => []
  | n + 1 => w.setWidth 8 :: toBytes (w >>> 8) n

/-- The number whose bytes, least significant first, are `bs` (R1). -/
def ofBytes : List Byte → Nat
  | [] => 0
  | b :: bs => b.toNat + 256 * ofBytes bs


end Sys2Proof.Bits
end

