-- ==== Sys2Proof/Syntax.lean ====
section
/-! DEFINITION. The instruction set: one constructor of `Instr` per row of spec/opcode_table.json. Sequencer
instructions (R153 to R231), engine commands (R182, R188, R190, R223, R219, R234, R270), micro-orders (R244 to R258),
and the events of "What each step holds" (95), whose arguments are what the rule leaves to the outside world. -/
namespace Sys2Proof

/-- The engines and their numbers (R34). -/
inductive Eng where
  | seq | mxe | vxe | cpe | gxe | opp | clp
deriving DecidableEq, Repr

/-- A task context X0 to X3 of the modelled core (R32). -/
abbrev CtxId := Fin 4

/-- The operation of an atomic (R167). -/
inductive AtomOp where
  | swp | add | and | or | xor | max | min | maxu | minu | cas
deriving DecidableEq, Repr

/-- What an access does (R105). `cmp` is the comparand of a compare-and-swap. -/
inductive AccessOp where
  | read
  | write (data : Word)
  | atomic (op : AtomOp) (operand cmp : Word)
deriving DecidableEq, Repr

/-- One access of a party outside the core: physical address, log2 of the size in bytes, operation (R122 to R126). -/
structure OutReq where
  pa    : BitVec 52
  lsize : Fin 4
  op    : AccessOp
deriving DecidableEq, Repr

/-- A party that writes control registers or makes accesses (R105, R320). `core` is a compute-core agent of the
given world. -/
inductive Agent where
  | mgmt | console
  | sys (n : Fin 16)
  | host
  | peer (l : Fin 12)
  | rootPort (i : Fin 4)
  | core (secure : Bool)
deriving DecidableEq, Repr

/-- Whose access is performed (R107): a pending access of a context by its number, or one of a system core or of the
management core. -/
inductive Performer where
  | ctx (x : CtxId) (id : Nat)
  | sys (n : Fin 16) (r : OutReq)
  | mgmt (r : OutReq)
deriving DecidableEq, Repr

/-- A change Mbailan makes to the construction map (R329, R423, R427). -/
inductive MapChange where
  | core (c : BitVec 9)
  | vault (k : BitVec 7)
  | bank (k : BitVec 7) (b : Fin 16)
  | l2Ways (c : Fin 16) (ways : BitVec 16)
  | hbm (g : Fin 8)
  | link (l : Fin 12)
  | spe (n : Fin 4)
  | elevator (k : BitVec 7)
deriving DecidableEq, Repr

/-- What patrol scrubbing finds at a word (R408): an error in its memory, corrected or not; an error in the L2 line that holds it,
corrected or not; a parity error in the line's tag, with its way. The last two say whether the line is dirty. -/
inductive EccErr where
  | corrected
  | uncorrectable
  | l2Corrected
  | l2Data (dirty : Bool)
  | l2Tag (way : Fin 16) (dirty : Bool)
deriving DecidableEq, Repr

/-- A request whose response is lost (R424): a scalar access by its number, a fetch, a unit of an engine, or a store that has been
performed. -/
inductive Request where
  | access (id : Nat)
  | fetch
  | unit (e : Eng)
  | store
deriving DecidableEq, Repr

/-- A block whose world bit may change (R318). -/
inductive WorldBlock where
  | core (p : BitVec 9)
  | hub (n : Fin 16)
  | spe (n : Fin 4)
deriving DecidableEq, Repr

/-- One row of the opcode table. Field names are those of the table; every field has the width of its encoding. -/
inductive Instr where
  -- sequencer instructions, one word (R136)
  | rdstr (d : BitVec 6)
  | add (d a b : BitVec 6)
  | sub (d a b : BitVec 6)
  | and (d a b : BitVec 6)
  | or (d a b : BitVec 6)
  | xor (d a b : BitVec 6)
  | andn (d a b : BitVec 6)
  | sll (d a b : BitVec 6)
  | srl (d a b : BitVec 6)
  | sra (d a b : BitVec 6)
  | ror (d a b : BitVec 6)
  | min (d a b : BitVec 6)
  | max (d a b : BitVec 6)
  | minu (d a b : BitVec 6)
  | maxu (d a b : BitVec 6)
  | addw (d a b : BitVec 6)
  | subw (d a b : BitVec 6)
  | adds (d a b : BitVec 6)
  | subs (d a b : BitVec 6)
  | mul (d a b : BitVec 6)
  | mulh (d a b : BitVec 6)
  | mulhu (d a b : BitVec 6)
  | mulhsu (d a b : BitVec 6)
  | div (d a b : BitVec 6)
  | divu (d a b : BitVec 6)
  | rem (d a b : BitVec 6)
  | remu (d a b : BitVec 6)
  | clz (d a : BitVec 6)
  | ctz (d a : BitVec 6)
  | popc (d a : BitVec 6)
  | sextb (d a : BitVec 6)
  | sexth (d a : BitVec 6)
  | sextw (d a : BitVec 6)
  | zextw (d a : BitVec 6)
  | bswap (d a : BitVec 6)
  | pand (d a b : BitVec 5)
  | por (d a b : BitVec 5)
  | pxor (d a b : BitVec 5)
  | pandn (d a b : BitVec 5)
  | ptos (d : BitVec 6) (a : BitVec 5)
  | stop (d : BitVec 5) (a : BitVec 6)
  | prd (d : BitVec 6)
  | pwr (a : BitVec 6)
  | sel (d a b : BitVec 6) (p : BitVec 5)
  | addi (d a : BitVec 6) (i : BitVec 14)
  | andi (d a : BitVec 6) (i : BitVec 14)
  | ori (d a : BitVec 6) (i : BitVec 14)
  | xori (d a : BitVec 6) (i : BitVec 14)
  | slli (d a i : BitVec 6)
  | srli (d a i : BitVec 6)
  | srai (d a i : BitVec 6)
  | muli (d a : BitVec 6) (i : BitVec 14)
  | cmp (p : BitVec 5) (n : BitVec 1) (a b : BitVec 6) (c f : BitVec 4)
  | cmpi (p : BitVec 5) (n : BitVec 1) (a i : BitVec 6) (c f : BitVec 4)
  | cmpw (p : BitVec 5) (n : BitVec 1) (a b : BitVec 6) (c f : BitVec 4)
  | cmpwi (p : BitVec 5) (n : BitVec 1) (a i : BitVec 6) (c f : BitVec 4)
  | br (p : BitVec 5) (n : BitVec 1) (o : BitVec 20)
  | call (p : BitVec 5) (n : BitVec 1) (o : BitVec 20)
  | jmp (a : BitVec 6)
  | jalr (d a : BitVec 6)
  | loop (l : BitVec 1) (a : BitVec 6) (i : BitVec 14)
  | ldd (d b : BitVec 6) (o : BitVec 14)
  | std (s b : BitVec 6) (o : BitVec 14)
  | ldw (d b : BitVec 6) (o : BitVec 14)
  | stw (s b : BitVec 6) (o : BitVec 14)
  | vldb (d a b : BitVec 6)
  | vldh (d a b : BitVec 6)
  | vldw (d a b : BitVec 6)
  | vldd (d a b : BitVec 6)
  | vstb (s a b : BitVec 6)
  | vsth (s a b : BitVec 6)
  | vstw (s a b : BitVec 6)
  | vstd (s a b : BitVec 6)
  | aswp (d a b : BitVec 6) (w : BitVec 1)
  | aadd (d a b : BitVec 6) (w : BitVec 1)
  | aand (d a b : BitVec 6) (w : BitVec 1)
  | aor (d a b : BitVec 6) (w : BitVec 1)
  | axor (d a b : BitVec 6) (w : BitVec 1)
  | amax (d a b : BitVec 6) (w : BitVec 1)
  | amin (d a b : BitVec 6) (w : BitVec 1)
  | amaxu (d a b : BitVec 6) (w : BitVec 1)
  | aminu (d a b : BitVec 6) (w : BitVec 1)
  | acas (d a b : BitVec 6) (w : BitVec 1)
  | ldbx (d a b : BitVec 6)
  | ldbux (d a b : BitVec 6)
  | ldhx (d a b : BitVec 6)
  | ldhux (d a b : BitVec 6)
  | ldwx (d a b : BitVec 6)
  | ldwux (d a b : BitVec 6)
  | stbx (s a b : BitVec 6)
  | sthx (s a b : BitVec 6)
  | stwx (s a b : BitVec 6)
  | mark (s : BitVec 6)
  | tkwait (e : BitVec 6)
  | tksend (e : BitVec 6)
  | tkcnt (d a b : BitVec 6)
  | scpost (a b : BitVec 6)
  | scwait (a b : BitVec 6)
  | sctest (p : BitVec 5) (a b : BitVec 6)
  | clink (a b : BitVec 6)
  | ckick (a : BitVec 6)
  | wmwait (a c : BitVec 6)
  | wmdis (c : BitVec 6)
  | wset (d a : BitVec 6)
  | wdis (a : BitVec 6)
  | wstat (d a : BitVec 6)
  | claim (d : BitVec 6)
  | claimp (d : BitVec 6)
  | rels (a : BitVec 6)
  | slotst (d a : BitVec 6)
  | abank (d : BitVec 6)
  | afree (a : BitVec 6)
  | aband (a b : BitVec 6)
  | arelb (a : BitVec 6)
  | abst (d a : BitVec 6)
  | lend (b : BitVec 6)
  | retBank (b : BitVec 6)
  | cbld (a b : BitVec 6)
  | tagget (d t : BitVec 6)
  | tagset (t b : BitVec 6)
  | tscget (d t : BitVec 6)
  | tscset (t b : BitVec 6)
  | estim (a : BitVec 6)
  | ackmap (d : BitVec 6)
  | crr (d a : BitVec 6)
  | crw (a b : BitVec 6)
  | trap (c : BitVec 6)
  | icinv (a : BitVec 6)
  | tlbi (a b : BitVec 6)
  | tlbia (b : BitVec 6)
  | drd (d a : BitVec 6)
  | dwr (a b : BitVec 6)
  | scango (a b : BitVec 6)
  | scanab (a : BitVec 6)
  | scanst (d a : BitVec 6)
  | act (a : BitVec 6)
  | pre (a : BitVec 6)
  | ref (a : BitVec 6)
  -- long forms (R156)
  | li (d : BitVec 6) (imm : BitVec 42)
  | addli (d a : BitVec 6) (imm : BitVec 42)
  | liu (d a : BitVec 6) (imm : BitVec 22)
  -- engine commands, format E (R141): SYNC, operands a b c, token register t, cycle-bound code
  | cpy (sync : BitVec 16) (a b c t : BitVec 6) (cb : BitVec 8)
  | cpy2d (sync : BitVec 16) (a b c t : BitVec 6) (cb : BitVec 8)
  | cps (sync : BitVec 16) (a b c t : BitVec 6) (cb : BitVec 8)
  | adrain (sync : BitVec 16) (a b c t : BitVec 6) (cb : BitVec 8)
  | fill (sync : BitVec 16) (a b c t : BitVec 6) (cb : BitVec 8)
  | cmc (sync : BitVec 16) (a b c t : BitVec 6) (cb : BitVec 8)
  | cpost (sync : BitVec 16) (a b c t : BitVec 6) (cb : BitVec 8)
  | cwait (sync : BitVec 16) (a b c t : BitVec 6) (cb : BitVec 8)
  | gexp (sync : BitVec 16) (a b c t : BitVec 6) (cb : BitVec 8)
  | gexpv (sync : BitVec 16) (a b c t : BitVec 6) (cb : BitVec 8)
  | gath (sync : BitVec 16) (a b c t : BitVec 6) (cb : BitVec 8)
  | gscat (sync : BitVec 16) (a b c t : BitVec 6) (cb : BitVec 8)
  | lsend (sync : BitVec 16) (a b c t : BitVec 6) (cb : BitVec 8)
  | colar (sync : BitVec 16) (a b c t : BitVec 6) (cb : BitVec 8)
  | colrs (sync : BitVec 16) (a b c t : BitVec 6) (cb : BitVec 8)
  | colag (sync : BitVec 16) (a b c t : BitVec 6) (cb : BitVec 8)
  | mgo (sync : BitVec 16) (a t : BitVec 6) (cb : BitVec 8)
  | aread (sync : BitVec 16) (a b c t : BitVec 6) (cb : BitVec 8)
  | vrun (sync : BitVec 16) (a b c t : BitVec 6) (cb : BitVec 8)
  | vstop (sync : BitVec 16) (a b c t : BitVec 6) (cb : BitVec 8)
  | vbase (sync : BitVec 16) (a b c t : BitVec 6) (cb : BitVec 8)
  | vwait (sync : BitVec 16) (a b c t : BitVec 6) (cb : BitVec 8)
  | vtld (sync : BitVec 16) (a b c t : BitVec 6) (cb : BitVec 8)
  | oshot (sync : BitVec 16) (a b c t : BitVec 6) (cb : BitVec 8)
  | omask (sync : BitVec 16) (a b c t : BitVec 6) (cb : BitVec 8)
  | ocal (sync : BitVec 16) (a b c t : BitVec 6) (cb : BitVec 8)
  -- micro-orders (R146): only a table run executes them
  | vmov (d a : BitVec 5) (m : BitVec 3)
  | vspl (d : BitVec 5) (m : BitVec 3) (f : BitVec 4)
  | vzero (d : BitVec 5) (m : BitVec 3) (f : BitVec 4)
  | vidx (d : BitVec 5) (m : BitVec 3) (r : BitVec 2) (s : BitVec 1)
  | vsel (d a b : BitVec 5) (m : BitVec 3)
  | vadd (d a b : BitVec 5) (m : BitVec 3) (f : BitVec 4) (r : BitVec 2) (s : BitVec 1)
  | vsub (d a b : BitVec 5) (m : BitVec 3) (f : BitVec 4) (r : BitVec 2) (s : BitVec 1)
  | vmul (d a b : BitVec 5) (m : BitVec 3) (f : BitVec 4) (r : BitVec 2) (s : BitVec 1)
  | vdiv (d a b : BitVec 5) (m : BitVec 3) (f : BitVec 4) (r : BitVec 2) (s : BitVec 1)
  | vfma (d a b : BitVec 5) (m : BitVec 3) (f : BitVec 4) (r : BitVec 2) (s : BitVec 1)
  | vfnma (d a b : BitVec 5) (m : BitVec 3) (f : BitVec 4) (r : BitVec 2) (s : BitVec 1)
  | vmin (d a b : BitVec 5) (m : BitVec 3) (f : BitVec 4) (s : BitVec 1)
  | vmax (d a b : BitVec 5) (m : BitVec 3) (f : BitVec 4) (s : BitVec 1)
  | vabs (d a : BitVec 5) (m : BitVec 3) (f : BitVec 4)
  | vneg (d a : BitVec 5) (m : BitVec 3) (f : BitVec 4)
  | vsqrt (d a : BitVec 5) (m : BitVec 3) (f : BitVec 4) (r : BitVec 2) (s : BitVec 1)
  | vrsq (d a : BitVec 5) (m : BitVec 3) (f : BitVec 4) (r : BitVec 2) (s : BitVec 1)
  | vrcp (d a : BitVec 5) (m : BitVec 3) (f : BitVec 4) (r : BitVec 2) (s : BitVec 1)
  | vexp2 (d a : BitVec 5) (m : BitVec 3) (f : BitVec 4) (r : BitVec 2) (s : BitVec 1)
  | vlog2 (d a : BitVec 5) (m : BitVec 3) (f : BitVec 4) (r : BitVec 2) (s : BitVec 1)
  | vrint (d a : BitVec 5) (m : BitVec 3) (f : BitVec 4) (r : BitVec 2)
  | vfloor (d a : BitVec 5) (m : BitVec 3) (f : BitVec 4)
  | vrelu (d a : BitVec 5) (m : BitVec 3) (f : BitVec 4)
  | vcmpeq (d : BitVec 3) (a b : BitVec 5) (m : BitVec 3) (f : BitVec 4)
  | vcmplt (d : BitVec 3) (a b : BitVec 5) (m : BitVec 3) (f : BitVec 4)
  | vcmple (d : BitVec 3) (a b : BitVec 5) (m : BitVec 3) (f : BitVec 4)
  | viadd (d a b : BitVec 5) (m : BitVec 3) (f : BitVec 4) (s : BitVec 1)
  | visub (d a b : BitVec 5) (m : BitVec 3) (f : BitVec 4) (s : BitVec 1)
  | vimul (d a b : BitVec 5) (m : BitVec 3) (f : BitVec 4) (s : BitVec 1)
  | vimin (d a b : BitVec 5) (m : BitVec 3) (f : BitVec 4)
  | vimax (d a b : BitVec 5) (m : BitVec 3) (f : BitVec 4)
  | viand (d a b : BitVec 5) (m : BitVec 3) (f : BitVec 4)
  | vior (d a b : BitVec 5) (m : BitVec 3) (f : BitVec 4)
  | vixor (d a b : BitVec 5) (m : BitVec 3) (f : BitVec 4)
  | visll (d a b : BitVec 5) (m : BitVec 3) (f : BitVec 4)
  | visrl (d a b : BitVec 5) (m : BitVec 3) (f : BitVec 4)
  | visra (d a b : BitVec 5) (m : BitVec 3) (f : BitVec 4)
  | vidot (d a b : BitVec 5) (m : BitVec 3) (f : BitVec 4) (s : BitVec 1)
  | vicmpeq (d : BitVec 3) (a b : BitVec 5) (m : BitVec 3) (f : BitVec 4)
  | vicmplt (d : BitVec 3) (a b : BitVec 5) (m : BitVec 3) (f : BitVec 4)
  | vcadd (d a b : BitVec 5) (m : BitVec 3) (f : BitVec 4) (r : BitVec 2) (s : BitVec 1)
  | vcsub (d a b : BitVec 5) (m : BitVec 3) (f : BitVec 4) (r : BitVec 2) (s : BitVec 1)
  | vcmul (d a b : BitVec 5) (m : BitVec 3) (f : BitVec 4) (r : BitVec 2) (s : BitVec 1)
  | vcmulj (d a b : BitVec 5) (m : BitVec 3) (f : BitVec 4) (r : BitVec 2) (s : BitVec 1)
  | vcfma (d a b : BitVec 5) (m : BitVec 3) (f : BitVec 4) (r : BitVec 2) (s : BitVec 1)
  | vconj (d a : BitVec 5) (m : BitVec 3) (f : BitVec 4)
  | vcabs2 (d a : BitVec 5) (m : BitVec 3) (f : BitVec 4) (r : BitVec 2) (s : BitVec 1)
  | vcrot (d a : BitVec 5) (k : BitVec 2) (m : BitVec 3) (f : BitVec 4)
  | vcvt (d a : BitVec 5) (p : BitVec 4) (m : BitVec 3) (f : BitVec 4) (r : BitVec 2) (s : BitVec 1)
  | vqnt (d a : BitVec 5) (p : BitVec 4) (m : BitVec 3) (f : BitVec 4) (r : BitVec 2)
  | vcvtcb (d a : BitVec 5) (p : BitVec 2) (c m : BitVec 3) (r : BitVec 2) (s : BitVec 1)
  | vcpk (d a b : BitVec 5) (m : BitVec 3) (f : BitVec 4)
  | vcre (d a : BitVec 5) (m : BitVec 3) (f : BitVec 4) (r : BitVec 2) (s : BitVec 1)
  | vcim (d a : BitVec 5) (m : BitVec 3) (f : BitVec 4) (r : BitVec 2) (s : BitVec 1)
  | vrsum (d a : BitVec 5) (m : BitVec 3) (f : BitVec 4) (s : BitVec 1)
  | vrmax (d a : BitVec 5) (m : BitVec 3) (f : BitVec 4) (s : BitVec 1)
  | vrmin (d a : BitVec 5) (m : BitVec 3) (f : BitVec 4) (s : BitVec 1)
  | vramax (d a : BitVec 5) (m : BitVec 3) (f : BitVec 4) (s : BitVec 1)
  | vrdot (d a b : BitVec 5) (m : BitVec 3) (f : BitVec 4) (s : BitVec 1)
  | vperm (d a b : BitVec 5) (m : BitVec 3)
  | vrot (d a : BitVec 5) (m : BitVec 3) (k : BitVec 6)
  | vzipl (d a b : BitVec 5) (m : BitVec 3)
  | vziph (d a b : BitVec 5) (m : BitVec 3)
  | vuzpe (d a b : BitVec 5) (m : BitVec 3)
  | vuzpo (d a b : BitVec 5) (m : BitVec 3)
  | vbcst (d a : BitVec 5) (m : BitVec 3) (k : BitVec 6)
  | mand (d a b m : BitVec 3)
  | mor (d a b m : BitVec 3)
  | mxor (d a b m : BitVec 3)
  | mandn (d a b m : BitVec 3)
  | mnot (d a m : BitVec 3)
  | mfirst (d m : BitVec 3) (n : BitVec 7)
  | vmpop (d : BitVec 5) (a m : BitVec 3)
  | mfromv (d : BitVec 3) (a : BitVec 5) (m : BitVec 3)
  | vld (d : BitVec 5) (i : BitVec 1) (c : BitVec 2) (o : BitVec 12) (m : BitVec 3)
  | vst (s : BitVec 5) (i : BitVec 1) (c : BitVec 2) (o : BitVec 12) (m : BitVec 3)
  | vldg (d : BitVec 5) (c : BitVec 2) (x : BitVec 5) (m : BitVec 3)
  -- micro-orders of the table itself and of its bases, side data and ring
  | vsct (s : BitVec 5) (c : BitVec 2) (x : BitVec 5) (m : BitVec 3)
  | vldbs (d : BitVec 5) (i : BitVec 1) (c : BitVec 2) (o : BitVec 12)
  | vstbs (s : BitVec 5) (i : BitVec 1) (c : BitVec 2) (o : BitVec 12) (m : BitVec 3)
  | vtwid (d a l : BitVec 5) (m : BitVec 3) (f : BitVec 4) (v : BitVec 1)
  | vdefer (p a b : BitVec 5) (m : BitVec 3) (n : BitVec 2)
  | vloop (l : BitVec 1) (f : BitVec 8) (c : BitVec 10)
  | vend (m : BitVec 3)
  -- the drain form of VRUN and the ring form of VBASE: the words of VRUN and VBASE, told apart by an operand (R236, R237)
  | vrunDrain (sync : BitVec 16) (a b c t : BitVec 6) (cb : BitVec 8)
  | vbaseDq (sync : BitVec 16) (a b c t : BitVec 6) (cb : BitVec 8)
  -- instructions and micro-orders without operands
  | nop
  | cbar
  | halt
  | yield
  | hbeat
  | tret
  | icinva
  | tlbiall
  | vnop
  -- events: asynchronous steps of the part (95)
  | entryStart (x : CtxId) (e : Eng)
  | entryCompletion (x : CtxId) (e : Eng)
  | heldLinkRun (x : CtxId)
  | forcedPointStart (x : CtxId) (e : Eng)
  | loadLanding (x : CtxId) (id : Nat)
  | accessPerformAtHome (who : Performer)
  | contractWriteRelease (k : Nat)
  | requestRetry (x : CtxId) (req : Request)
  | endpointRequest (ro : Bool) (r : OutReq)
  | peerRequest (l : Fin 12) (r : OutReq)
  | flitReceive (l : Fin 12) (retries : Nat)
  | linkDown (l : Fin 12)
  | launchAccept
  | launchCompletion (lid : BitVec 16)
  | counterAccessReport (task : Nat)
  | untrackedCounterPoll (task : Nat)
  | taskPlacement
  | quantumExpiry (x : CtxId)
  | stageReassignment (lid : BitVec 16)
  | saveComplete (x : CtxId)
  | powerWindow (milliwatt : Nat)
  | gatingStart
  | gatingCommit
  | wakeMessage
  | wakingDone
  | watchFire (tbl : Nat) (idx : Nat)
  | budgetPeriodEnd (tbl : Nat) (idx : Nat)
  | waggleMessage
  | consumerTakePacket (n : Fin 18) (i : Fin 16)
  | hubCopy (n : Fin 16)
  | hubFill (n : Fin 16)
  | hubCopy2d (n : Fin 16)
  | hubPacketDone (n : Fin 16)
  | submit
  | shotPacket (n : Fin 4)
  | shotEnd (n : Fin 4)
  | maskPacket (n : Fin 4)
  | maskWritten (n : Fin 4)
  | calPacket (n : Fin 4)
  | calWritten (n : Fin 4)
  | measurementStart (n : Fin 4)
  | measurementEnd (n : Fin 4) (profile : List Byte)
  | calAgeExpiry (n : Fin 4)
  | calTemperatureMove (n : Fin 4) (t : BitVec 16)
  | engineStop (x : CtxId) (e : Eng)
  | trapEntry (x : CtxId)
  | boundExpiry (x : CtxId) (e : Eng)
  | deadlockDetection (x : CtxId)
  | hangWatchdogExpiry (x : CtxId)
  | refreshIntervalExpiry (b : Fin 4)
  | ackDeadlineExpiry (x : CtxId)
  | mapChange (c : MapChange)
  | elevatorRetirement (k : BitVec 7)
  | timingRepeat (x : CtxId) (e : Eng) (persists : Bool)
  | timingWindow
  | patrolScrub (pa : BitVec 52) (err : EccErr)
  | powerOn
  | bootCoreDecision (c : BitVec 9) (doneA doneB : BitVec 52)
  | extcmdWrite (who : Agent) (v : Word)
  | attreqWrite (who : Agent) (v : Word)
  | ownWrite (who : Agent) (v : Word)
  | hofferWrite (who : Agent) (v : Word)
  | hostirqWrite (who : Agent) (v : Word)
  | qcbWrite (who : Agent) (n : Fin 18) (i : Fin 16) (v : Word)
  | blkwWrite (who : Agent) (off : BitVec 28) (v : Word)
  | blockWorldTakeEffect (b : WorldBlock)
  | qbaseWrite (x : CtxId) (e : Eng) (v : Word)
  | tvecWrite (x : CtxId) (v : Word)
  | ndmanWrite (x : CtxId) (v : Word)
  | wmDisarmWrite (x : CtxId) (c : Fin 8)
  | registerWrite (who : Agent) (off : BitVec 28) (v : Word)
  | stopreqGo (who : Agent) (lid : BitVec 16)
  | stopreqResume (who : Agent)
  | hctlClr (who : Agent)
  | triggerEvent (sc : Fin 16) (ev : BitVec 3) (val : BitVec 16)
  | patchGo (who : Agent)
  | patchDone
  | scanDrainEnd (c : BitVec 9)
  | scanRunEnd (c : BitVec 9) (sig : Word)
  | rootPortDeviceRequest (i : Fin 4) (va : VAddr) (lsize : Fin 4) (op : AccessOp)
  | linkTrained (l : Fin 12)
  | coreStopWithoutSave (c : BitVec 9)
  | hbmStackFailure (g : Fin 8)
  | cbarRendezvous (lid : BitVec 16)
  | bankFreeingDone (bank : BitVec 5)
  | collChunkReceive (x : CtxId) (chunk : List Byte)
  | collAbortFlit (x : CtxId) (l : Fin 12)
deriving DecidableEq, Repr

end Sys2Proof
end

