-- ==== Sys2Proof/WellFormed.lean ====
section
/-! DEFINITION. Which field values an instruction may hold (R373 for sequencer instructions, R383 for micro-orders).
An instruction whose fields break these rules encodes no instruction: the decoder refuses it and the step raises
ILLEGAL. Misuses that have causes of their own (SYNC, MISUSE, TAGCHK, LIMIT) are no concern of this file. -/
namespace Sys2Proof

/-- Cycle-bound codes with e of 13 to 15 are reserved (R142, R373). -/
def cbOk (cb : BitVec 8) : Bool := cb.toNat / 16 ≤ 12
/-- Compare conditions 0xC to 0xF and combination codes 0x4 to 0xF are unused (R137, R373). -/
def cmpOk (c f : BitVec 4) : Bool := c.toNat ≤ 0xB && f.toNat ≤ 3
/-- Rounding mode 0b11 is reserved (R70, R383). -/
def rmOk (r : BitVec 2) : Bool := r != 3
/-- Formats of the real class (R245). -/
def realFmt (f : BitVec 4) : Bool := [4, 1, 2, 3, 5, 6].contains f.toNat
/-- Formats of the rows marked † (R245). -/
def wideFmt (f : BitVec 4) : Bool := [4, 1, 2, 3].contains f.toNat
/-- Formats of the floating-point compares (R246). -/
def cmpFmt (f : BitVec 4) : Bool := [1, 4].contains f.toNat
/-- Formats of the integer class (R247). -/
def intFmt (f : BitVec 4) : Bool := [8, 11].contains f.toNat
/-- INT32 only (R244, R247). -/
def int32Fmt (f : BitVec 4) : Bool := f == 11
/-- Formats of the complex class (R248). -/
def cplxFmt (f : BitVec 4) : Bool := [13, 14].contains f.toNat
/-- Any format code of R60 or R62 (R146). -/
def anyFmt (f : BitVec 4) : Bool := f != 0 && f != 15
/-- Target formats of VCVT (R249). -/
def cvtFmt (f : BitVec 4) : Bool := anyFmt f && f != 10
/-- Target formats of VQNT (R250). -/
def qntFmt (f : BitVec 4) : Bool := [5, 6, 7, 8, 9].contains f.toNat
/-- Formats of VCPK (R251). -/
def cpkFmt (f : BitVec 4) : Bool := [12, 13, 14].contains f.toNat
/-- Formats of VCRE and VCIM (R251). -/
def partFmt (f : BitVec 4) : Bool := [8, 2, 1].contains f.toNat
/-- Formats of the reductions (R252). -/
def redFmt (f : BitVec 4) : Bool := [1, 4, 11].contains f.toNat

/-- The fields of `i` hold legal values (R373, R383). -/
def Instr.wf : Instr → Bool
  | .cmp _ _ _ _ c f | .cmpi _ _ _ _ c f | .cmpw _ _ _ _ c f | .cmpwi _ _ _ _ c f => cmpOk c f
  | .loop _ _ i => decide (1 ≤ i.toNat ∧ i.toNat ≤ 8191)
  | .mark s => decide (s.toNat ≤ 5)
  | .wmwait _ c | .wmdis c => decide (c.toNat ≤ 7)
  | .lend b | .retBank b => decide (4 ≤ b.toNat ∧ b.toNat ≤ 7)
  | .cpy _ _ _ _ _ cb | .cpy2d _ _ _ _ _ cb | .cps _ _ _ _ _ cb | .adrain _ _ _ _ _ cb
  | .fill _ _ _ _ _ cb | .cmc _ _ _ _ _ cb | .cpost _ _ _ _ _ cb | .cwait _ _ _ _ _ cb
  | .gexp _ _ _ _ _ cb | .gexpv _ _ _ _ _ cb | .gath _ _ _ _ _ cb | .gscat _ _ _ _ _ cb
  | .lsend _ _ _ _ _ cb | .colar _ _ _ _ _ cb | .colrs _ _ _ _ _ cb | .colag _ _ _ _ _ cb
  | .mgo _ _ _ cb | .aread _ _ _ _ _ cb | .vrun _ _ _ _ _ cb | .vrunDrain _ _ _ _ _ cb
  | .vstop _ _ _ _ _ cb | .vbase _ _ _ _ _ cb | .vbaseDq _ _ _ _ _ cb | .vwait _ _ _ _ _ cb
  | .vtld _ _ _ _ _ cb | .oshot _ _ _ _ _ cb | .omask _ _ _ _ _ cb | .ocal _ _ _ _ _ cb => cbOk cb
  | .vspl _ _ f | .vzero _ _ f => anyFmt f
  | .vidx _ _ r _ => rmOk r
  | .vadd _ _ _ _ f r _ | .vsub _ _ _ _ f r _ | .vmul _ _ _ _ f r _ | .vfma _ _ _ _ f r _
  | .vfnma _ _ _ _ f r _ => realFmt f && rmOk r
  | .vdiv _ _ _ _ f r _ => wideFmt f && rmOk r
  | .vmin _ _ _ _ f _ | .vmax _ _ _ _ f _ => realFmt f
  | .vabs _ _ _ f | .vneg _ _ _ f | .vfloor _ _ _ f | .vrelu _ _ _ f => realFmt f
  | .vrint _ _ _ f r => realFmt f && rmOk r
  | .vsqrt _ _ _ f r _ | .vrsq _ _ _ f r _ | .vrcp _ _ _ f r _ | .vexp2 _ _ _ f r _
  | .vlog2 _ _ _ f r _ => wideFmt f && rmOk r
  | .vcmpeq _ _ _ _ f | .vcmplt _ _ _ _ f | .vcmple _ _ _ _ f => cmpFmt f
  | .viadd _ _ _ _ f _ | .visub _ _ _ _ f _ | .vimul _ _ _ _ f _ => intFmt f
  | .vimin _ _ _ _ f | .vimax _ _ _ _ f | .viand _ _ _ _ f | .vior _ _ _ _ f | .vixor _ _ _ _ f
  | .visll _ _ _ _ f | .visrl _ _ _ _ f | .visra _ _ _ _ f => intFmt f
  | .vidot _ _ _ _ f _ => int32Fmt f
  | .vicmpeq _ _ _ _ f | .vicmplt _ _ _ _ f => int32Fmt f
  | .vcadd _ _ _ _ f r _ | .vcsub _ _ _ _ f r _ | .vcmul _ _ _ _ f r _ | .vcmulj _ _ _ _ f r _
  | .vcfma _ _ _ _ f r _ => cplxFmt f && rmOk r
  | .vcabs2 _ _ _ f r _ => cplxFmt f && rmOk r
  | .vconj _ _ _ f | .vcrot _ _ _ _ f => cplxFmt f
  | .vcvt _ _ _ _ f r _ => cvtFmt f && rmOk r
  | .vqnt _ _ _ _ f r => qntFmt f && rmOk r
  | .vcvtcb _ _ _ _ _ r _ => rmOk r
  | .vcpk _ _ _ _ f => cpkFmt f
  | .vcre _ _ _ f r _ | .vcim _ _ _ f r _ => partFmt f && rmOk r
  | .vrsum _ _ _ f _ | .vrmax _ _ _ f _ | .vrmin _ _ _ f _ | .vramax _ _ _ f _ => redFmt f
  | .vrdot _ _ _ _ f _ => redFmt f
  | .mfirst _ _ n => decide (n.toNat ≤ 64)
  | .vtwid _ _ l _ f _ => cplxFmt f && decide (1 ≤ l.toNat ∧ l.toNat ≤ 16)
  | _ => true

end Sys2Proof
end

