-- ==== Sys2Proof/Decode.lean ====
section
/-! DEFINITION. Decoding of sequencer instructions (R136 to R144) and of micro-orders (R146, R147), total on any
words, rejecting by name; and the encoder written from the same encoding tables. -/
namespace Sys2Proof

open Bits

/-- Why a word encodes no instruction (R140, R373, R378, R383). -/
inductive Reject where
  | majorOpcode | unusedFn | unusedCmd | unusedSub | unusedOp | fixedField | engineField | reservedValue | truncated
deriving DecidableEq, Repr

/-- `i` when the fields a table fixes at zero are zero (R140). -/
def fixed (c : Prop) [Decidable c] (i : Instr) : Except Reject Instr := if c then .ok i else .error .fixedField

/-- Major opcode 0x00 (R153). -/
def dec00 (w : IWord) : Except Reject Instr :=
  match (fn w).toNat with
  | 0x00 => fixed (rd w = 0 ∧ ra w = 0 ∧ rb w = 0) (.nop)
  | 0x01 => fixed (ra w = 0 ∧ rb w = 0) (.rdstr (rd w))
  | _ => .error .unusedFn

/-- Major opcode 0x01 (R153, R154). -/
def dec01 (w : IWord) : Except Reject Instr :=
  match (fn w).toNat with
  | 0x00 => .ok (.add (rd w) (ra w) (rb w))
  | 0x01 => .ok (.sub (rd w) (ra w) (rb w))
  | 0x02 => .ok (.and (rd w) (ra w) (rb w))
  | 0x03 => .ok (.or (rd w) (ra w) (rb w))
  | 0x04 => .ok (.xor (rd w) (ra w) (rb w))
  | 0x05 => .ok (.andn (rd w) (ra w) (rb w))
  | 0x06 => .ok (.sll (rd w) (ra w) (rb w))
  | 0x07 => .ok (.srl (rd w) (ra w) (rb w))
  | 0x08 => .ok (.sra (rd w) (ra w) (rb w))
  | 0x09 => .ok (.ror (rd w) (ra w) (rb w))
  | 0x0A => .ok (.min (rd w) (ra w) (rb w))
  | 0x0B => .ok (.max (rd w) (ra w) (rb w))
  | 0x0C => .ok (.minu (rd w) (ra w) (rb w))
  | 0x0D => .ok (.maxu (rd w) (ra w) (rb w))
  | 0x0E => .ok (.addw (rd w) (ra w) (rb w))
  | 0x0F => .ok (.subw (rd w) (ra w) (rb w))
  | 0x10 => .ok (.adds (rd w) (ra w) (rb w))
  | 0x11 => .ok (.subs (rd w) (ra w) (rb w))
  | _ => .error .unusedFn

/-- Major opcode 0x02 (R153, R154). -/
def dec02 (w : IWord) : Except Reject Instr :=
  match (fn w).toNat with
  | 0x00 => .ok (.mul (rd w) (ra w) (rb w))
  | 0x01 => .ok (.mulh (rd w) (ra w) (rb w))
  | 0x02 => .ok (.mulhu (rd w) (ra w) (rb w))
  | 0x03 => .ok (.mulhsu (rd w) (ra w) (rb w))
  | 0x04 => .ok (.div (rd w) (ra w) (rb w))
  | 0x05 => .ok (.divu (rd w) (ra w) (rb w))
  | 0x06 => .ok (.rem (rd w) (ra w) (rb w))
  | 0x07 => .ok (.remu (rd w) (ra w) (rb w))
  | _ => .error .unusedFn

/-- Major opcode 0x03 (R153). -/
def dec03 (w : IWord) : Except Reject Instr :=
  match (fn w).toNat with
  | 0x00 => fixed (rb w = 0) (.clz (rd w) (ra w))
  | 0x01 => fixed (rb w = 0) (.ctz (rd w) (ra w))
  | 0x02 => fixed (rb w = 0) (.popc (rd w) (ra w))
  | 0x03 => fixed (rb w = 0) (.sextb (rd w) (ra w))
  | 0x04 => fixed (rb w = 0) (.sexth (rd w) (ra w))
  | 0x05 => fixed (rb w = 0) (.sextw (rd w) (ra w))
  | 0x06 => fixed (rb w = 0) (.zextw (rd w) (ra w))
  | 0x07 => fixed (rb w = 0) (.bswap (rd w) (ra w))
  | _ => .error .unusedFn

/-- Major opcode 0x04 (R158). -/
def dec04 (w : IWord) : Except Reject Instr :=
  match (fn w).toNat with
  | 0x00 => fixed (bit (rd w) 5 = false ∧ bit (ra w) 5 = false ∧ bit (rb w) 5 = false) (.pand (fld (rd w) 0 5) (fld (ra w) 0 5) (fld (rb w) 0 5))
  | 0x01 => fixed (bit (rd w) 5 = false ∧ bit (ra w) 5 = false ∧ bit (rb w) 5 = false) (.por (fld (rd w) 0 5) (fld (ra w) 0 5) (fld (rb w) 0 5))
  | 0x02 => fixed (bit (rd w) 5 = false ∧ bit (ra w) 5 = false ∧ bit (rb w) 5 = false) (.pxor (fld (rd w) 0 5) (fld (ra w) 0 5) (fld (rb w) 0 5))
  | 0x03 => fixed (bit (rd w) 5 = false ∧ bit (ra w) 5 = false ∧ bit (rb w) 5 = false) (.pandn (fld (rd w) 0 5) (fld (ra w) 0 5) (fld (rb w) 0 5))
  | 0x08 => fixed (bit (ra w) 5 = false ∧ rb w = 0) (.ptos (rd w) (fld (ra w) 0 5))
  | 0x09 => fixed (bit (rd w) 5 = false ∧ rb w = 0) (.stop (fld (rd w) 0 5) (ra w))
  | 0x0A => fixed (ra w = 0 ∧ rb w = 0) (.prd (rd w))
  | 0x0B => fixed (rd w = 0 ∧ rb w = 0) (.pwr (ra w))
  | _ => if fld (fn w) 5 3 = 7 then .ok (.sel (rd w) (ra w) (rb w) (fld (fn w) 0 5)) else .error .unusedFn

/-- Major opcode 0x16 (R159). -/
def dec16 (w : IWord) : Except Reject Instr :=
  match (fn w).toNat with
  | 0x00 => fixed (rd w = 0 ∧ rb w = 0) (.jmp (ra w))
  | 0x01 => fixed (rb w = 0) (.jalr (rd w) (ra w))
  | _ => .error .unusedFn

/-- Major opcode 0x1C (R166). -/
def dec1C (w : IWord) : Except Reject Instr :=
  match (fn w).toNat with
  | 0x00 => .ok (.vldb (rd w) (ra w) (rb w))
  | 0x01 => .ok (.vldh (rd w) (ra w) (rb w))
  | 0x02 => .ok (.vldw (rd w) (ra w) (rb w))
  | 0x03 => .ok (.vldd (rd w) (ra w) (rb w))
  | 0x08 => .ok (.vstb (rd w) (ra w) (rb w))
  | 0x09 => .ok (.vsth (rd w) (ra w) (rb w))
  | 0x0A => .ok (.vstw (rd w) (ra w) (rb w))
  | 0x0B => .ok (.vstd (rd w) (ra w) (rb w))
  | _ => .error .unusedFn

/-- Major opcode 0x1D (R167). -/
def dec1D (w : IWord) : Except Reject Instr :=
  match (fld (fn w) 0 7).toNat with
  | 0x00 => .ok (.aswp (rd w) (ra w) (rb w) (fld w 7 1))
  | 0x01 => .ok (.aadd (rd w) (ra w) (rb w) (fld w 7 1))
  | 0x02 => .ok (.aand (rd w) (ra w) (rb w) (fld w 7 1))
  | 0x03 => .ok (.aor (rd w) (ra w) (rb w) (fld w 7 1))
  | 0x04 => .ok (.axor (rd w) (ra w) (rb w) (fld w 7 1))
  | 0x05 => .ok (.amax (rd w) (ra w) (rb w) (fld w 7 1))
  | 0x06 => .ok (.amin (rd w) (ra w) (rb w) (fld w 7 1))
  | 0x07 => .ok (.amaxu (rd w) (ra w) (rb w) (fld w 7 1))
  | 0x08 => .ok (.aminu (rd w) (ra w) (rb w) (fld w 7 1))
  | 0x09 => .ok (.acas (rd w) (ra w) (rb w) (fld w 7 1))
  | _ => .error .unusedFn

/-- Major opcode 0x1E (R164). -/
def dec1E (w : IWord) : Except Reject Instr :=
  match (fn w).toNat with
  | 0x00 => .ok (.ldbx (rd w) (ra w) (rb w))
  | 0x01 => .ok (.ldbux (rd w) (ra w) (rb w))
  | 0x02 => .ok (.ldhx (rd w) (ra w) (rb w))
  | 0x03 => .ok (.ldhux (rd w) (ra w) (rb w))
  | 0x04 => .ok (.ldwx (rd w) (ra w) (rb w))
  | 0x05 => .ok (.ldwux (rd w) (ra w) (rb w))
  | 0x08 => .ok (.stbx (rd w) (ra w) (rb w))
  | 0x09 => .ok (.sthx (rd w) (ra w) (rb w))
  | 0x0A => .ok (.stwx (rd w) (ra w) (rb w))
  | _ => .error .unusedFn

/-- Major opcode 0x1F (R114, R121). -/
def dec1F (w : IWord) : Except Reject Instr :=
  match (fn w).toNat with
  | 0x00 => fixed (rd w = 0 ∧ ra w = 0) (.mark (rb w))
  | 0x01 => fixed (rd w = 0 ∧ ra w = 0 ∧ rb w = 0) (.cbar)
  | _ => .error .unusedFn

/-- Major opcode 0x28 (R195). -/
def dec28 (w : IWord) : Except Reject Instr :=
  match (fn w).toNat with
  | 0x00 => fixed (rd w = 0 ∧ ra w = 0) (.tkwait (rb w))
  | 0x01 => fixed (rd w = 0 ∧ ra w = 0) (.tksend (rb w))
  | 0x02 => .ok (.tkcnt (rd w) (ra w) (rb w))
  | _ => .error .unusedFn

/-- Major opcode 0x29 (R197, R198, R200). -/
def dec29 (w : IWord) : Except Reject Instr :=
  match (fn w).toNat with
  | 0x00 => fixed (rd w = 0) (.scpost (ra w) (rb w))
  | 0x01 => fixed (rd w = 0) (.scwait (ra w) (rb w))
  | 0x02 => fixed (bit (rd w) 5 = false) (.sctest (fld (rd w) 0 5) (ra w) (rb w))
  | 0x03 => fixed (rd w = 0) (.clink (ra w) (rb w))
  | 0x04 => fixed (rd w = 0 ∧ rb w = 0) (.ckick (ra w))
  | _ => .error .unusedFn

/-- Major opcode 0x2A (R204). -/
def dec2A (w : IWord) : Except Reject Instr :=
  match (fn w).toNat with
  | 0x00 => fixed (rd w = 0) (.wmwait (ra w) (rb w))
  | 0x01 => fixed (rd w = 0 ∧ ra w = 0) (.wmdis (rb w))
  | _ => .error .unusedFn

/-- Major opcode 0x2B (R300, R309, R310). -/
def dec2B (w : IWord) : Except Reject Instr :=
  match (fn w).toNat with
  | 0x00 => fixed (rb w = 0) (.wset (rd w) (ra w))
  | 0x01 => fixed (rd w = 0 ∧ rb w = 0) (.wdis (ra w))
  | 0x02 => fixed (rb w = 0) (.wstat (rd w) (ra w))
  | _ => .error .unusedFn

/-- Major opcode 0x2C (R211, R212, R213, R214). -/
def dec2C (w : IWord) : Except Reject Instr :=
  match (fn w).toNat with
  | 0x00 => fixed (ra w = 0 ∧ rb w = 0) (.claim (rd w))
  | 0x01 => fixed (ra w = 0 ∧ rb w = 0) (.claimp (rd w))
  | 0x02 => fixed (rd w = 0 ∧ rb w = 0) (.rels (ra w))
  | 0x03 => fixed (rb w = 0) (.slotst (rd w) (ra w))
  | _ => .error .unusedFn

/-- Major opcode 0x2D (R215, R216, R217). -/
def dec2D (w : IWord) : Except Reject Instr :=
  match (fn w).toNat with
  | 0x00 => fixed (ra w = 0 ∧ rb w = 0) (.abank (rd w))
  | 0x01 => fixed (rd w = 0 ∧ rb w = 0) (.afree (ra w))
  | 0x02 => fixed (rd w = 0) (.aband (ra w) (rb w))
  | 0x03 => fixed (rd w = 0 ∧ rb w = 0) (.arelb (ra w))
  | 0x04 => fixed (rb w = 0) (.abst (rd w) (ra w))
  | _ => .error .unusedFn

/-- Major opcode 0x2E (R57). -/
def dec2E (w : IWord) : Except Reject Instr :=
  match (fn w).toNat with
  | 0x00 => fixed (rd w = 0 ∧ ra w = 0) (.lend (rb w))
  | 0x01 => fixed (rd w = 0 ∧ ra w = 0) (.retBank (rb w))
  | _ => .error .unusedFn

/-- Major opcode 0x2F (R230). -/
def dec2F (w : IWord) : Except Reject Instr :=
  match (fn w).toNat with
  | 0x00 => fixed (rd w = 0) (.cbld (ra w) (rb w))
  | _ => .error .unusedFn

/-- Major opcode 0x30 (R82). -/
def dec30 (w : IWord) : Except Reject Instr :=
  match (fn w).toNat with
  | 0x00 => fixed (rb w = 0) (.tagget (rd w) (ra w))
  | 0x01 => fixed (ra w = 0) (.tagset (rd w) (rb w))
  | 0x02 => fixed (rb w = 0) (.tscget (rd w) (ra w))
  | 0x03 => fixed (ra w = 0) (.tscset (rd w) (rb w))
  | _ => .error .unusedFn

/-- Major opcode 0x34 (R45, R49, R170, R330). -/
def dec34 (w : IWord) : Except Reject Instr :=
  match (fn w).toNat with
  | 0x00 => fixed (rd w = 0 ∧ ra w = 0 ∧ rb w = 0) (.halt)
  | 0x01 => fixed (rd w = 0 ∧ ra w = 0 ∧ rb w = 0) (.yield)
  | 0x02 => fixed (rd w = 0 ∧ rb w = 0) (.estim (ra w))
  | 0x03 => fixed (rd w = 0 ∧ ra w = 0 ∧ rb w = 0) (.hbeat)
  | 0x04 => fixed (ra w = 0 ∧ rb w = 0) (.ackmap (rd w))
  | _ => .error .unusedFn

/-- Major opcode 0x38 (R171). -/
def dec38 (w : IWord) : Except Reject Instr :=
  match (fn w).toNat with
  | 0x00 => fixed (rb w = 0) (.crr (rd w) (ra w))
  | 0x01 => fixed (rd w = 0) (.crw (ra w) (rb w))
  | _ => .error .unusedFn

/-- Major opcode 0x39 (R173, R359, R360). -/
def dec39 (w : IWord) : Except Reject Instr :=
  match (fn w).toNat with
  | 0x00 => fixed (rd w = 0 ∧ ra w = 0) (.trap (rb w))
  | 0x01 => fixed (rd w = 0 ∧ ra w = 0 ∧ rb w = 0) (.tret)
  | 0x02 => fixed (rd w = 0 ∧ rb w = 0) (.icinv (ra w))
  | 0x03 => fixed (rd w = 0 ∧ ra w = 0 ∧ rb w = 0) (.icinva)
  | 0x04 => fixed (rd w = 0) (.tlbi (ra w) (rb w))
  | 0x05 => fixed (rd w = 0 ∧ ra w = 0) (.tlbia (rb w))
  | 0x06 => fixed (rd w = 0 ∧ ra w = 0 ∧ rb w = 0) (.tlbiall)
  | _ => .error .unusedFn

/-- Major opcode 0x3A (R174, R177, R178). -/
def dec3A (w : IWord) : Except Reject Instr :=
  match (fn w).toNat with
  | 0x00 => fixed (rb w = 0) (.drd (rd w) (ra w))
  | 0x01 => fixed (rd w = 0) (.dwr (ra w) (rb w))
  | 0x04 => fixed (rd w = 0) (.scango (ra w) (rb w))
  | 0x05 => fixed (rd w = 0 ∧ rb w = 0) (.scanab (ra w))
  | 0x06 => fixed (rb w = 0) (.scanst (rd w) (ra w))
  | _ => .error .unusedFn

/-- Major opcode 0x3C (R169). -/
def dec3C (w : IWord) : Except Reject Instr :=
  match (fn w).toNat with
  | 0x00 => fixed (rd w = 0 ∧ rb w = 0) (.act (ra w))
  | _ => .error .unusedFn

/-- Major opcode 0x3D (R169). -/
def dec3D (w : IWord) : Except Reject Instr :=
  match (fn w).toNat with
  | 0x00 => fixed (rd w = 0 ∧ rb w = 0) (.pre (ra w))
  | _ => .error .unusedFn

/-- Major opcode 0x3E (R169). -/
def dec3E (w : IWord) : Except Reject Instr :=
  match (fn w).toNat with
  | 0x00 => fixed (rd w = 0 ∧ rb w = 0) (.ref (ra w))
  | _ => .error .unusedFn

/-- Major opcode 0x20: commands of engine 3, by CMD (R141). -/
def dec20 (w w1 : IWord) : Except Reject Instr :=
  match (cmd w).toNat with
  | 0x00 => .ok (.cpy (sync w) (ea w1) (eb w1) (ec w1) (et w1) (ecb w1))
  | 0x01 => .ok (.cpy2d (sync w) (ea w1) (eb w1) (ec w1) (et w1) (ecb w1))
  | 0x02 => .ok (.cps (sync w) (ea w1) (eb w1) (ec w1) (et w1) (ecb w1))
  | 0x03 => .ok (.adrain (sync w) (ea w1) (eb w1) (ec w1) (et w1) (ecb w1))
  | 0x04 => .ok (.fill (sync w) (ea w1) (eb w1) (ec w1) (et w1) (ecb w1))
  | 0x05 => .ok (.cmc (sync w) (ea w1) (eb w1) (ec w1) (et w1) (ecb w1))
  | 0x06 => .ok (.cpost (sync w) (ea w1) (eb w1) (ec w1) (et w1) (ecb w1))
  | 0x07 => .ok (.cwait (sync w) (ea w1) (eb w1) (ec w1) (et w1) (ecb w1))
  | _ => .error .unusedCmd

/-- Major opcode 0x21: commands of engine 4, by CMD (R141). -/
def dec21 (w w1 : IWord) : Except Reject Instr :=
  match (cmd w).toNat with
  | 0x00 => .ok (.gexp (sync w) (ea w1) (eb w1) (ec w1) (et w1) (ecb w1))
  | 0x01 => .ok (.gexpv (sync w) (ea w1) (eb w1) (ec w1) (et w1) (ecb w1))
  | 0x02 => .ok (.gath (sync w) (ea w1) (eb w1) (ec w1) (et w1) (ecb w1))
  | 0x03 => .ok (.gscat (sync w) (ea w1) (eb w1) (ec w1) (et w1) (ecb w1))
  | _ => .error .unusedCmd

/-- Major opcode 0x22: commands of engine 1, by CMD (R141). -/
def dec22 (w w1 : IWord) : Except Reject Instr :=
  match (cmd w).toNat with
  | 0x00 => fixed (eb w1 = 0 ∧ ec w1 = 0) (.mgo (sync w) (ea w1) (et w1) (ecb w1))
  | 0x01 => .ok (.aread (sync w) (ea w1) (eb w1) (ec w1) (et w1) (ecb w1))
  | _ => .error .unusedCmd

/-- Major opcode 0x23: commands of engine 2, by CMD (R141). -/
def dec23 (w w1 : IWord) : Except Reject Instr :=
  match (cmd w).toNat with
  | 0x00 => .ok (.vrun (sync w) (ea w1) (eb w1) (ec w1) (et w1) (ecb w1))
  | 0x01 => .ok (.vstop (sync w) (ea w1) (eb w1) (ec w1) (et w1) (ecb w1))
  | 0x02 => .ok (.vbase (sync w) (ea w1) (eb w1) (ec w1) (et w1) (ecb w1))
  | 0x03 => .ok (.vwait (sync w) (ea w1) (eb w1) (ec w1) (et w1) (ecb w1))
  | 0x04 => .ok (.vtld (sync w) (ea w1) (eb w1) (ec w1) (et w1) (ecb w1))
  | _ => .error .unusedCmd

/-- Major opcode 0x24: commands of engine 5, by CMD (R141). -/
def dec24 (w w1 : IWord) : Except Reject Instr :=
  match (cmd w).toNat with
  | 0x00 => .ok (.oshot (sync w) (ea w1) (eb w1) (ec w1) (et w1) (ecb w1))
  | 0x01 => .ok (.omask (sync w) (ea w1) (eb w1) (ec w1) (et w1) (ecb w1))
  | 0x02 => .ok (.ocal (sync w) (ea w1) (eb w1) (ec w1) (et w1) (ecb w1))
  | _ => .error .unusedCmd

/-- Major opcode 0x25: commands of engine 6, by CMD (R141). -/
def dec25 (w w1 : IWord) : Except Reject Instr :=
  match (cmd w).toNat with
  | 0x00 => .ok (.lsend (sync w) (ea w1) (eb w1) (ec w1) (et w1) (ecb w1))
  | 0x01 => .ok (.colar (sync w) (ea w1) (eb w1) (ec w1) (et w1) (ecb w1))
  | 0x02 => .ok (.colrs (sync w) (ea w1) (eb w1) (ec w1) (et w1) (ecb w1))
  | 0x03 => .ok (.colag (sync w) (ea w1) (eb w1) (ec w1) (et w1) (ecb w1))
  | _ => .error .unusedCmd

/-- Major opcode 0x3F, by SUB (R156). -/
def dec3F (w w1 : IWord) : Except Reject Instr :=
  match (sub4 w).toNat with
  | 0x0 => fixed (ra w = 0) (.li (rd w) (i42 w w1))
  | 0x1 => .ok (.addli (rd w) (ra w) (i42 w w1))
  | 0x2 => fixed (fld (i42 w w1) 22 20 = 0) (.liu (rd w) (ra w) (fld (i42 w w1) 0 22))
  | _ => .error .unusedSub

/-- A 64-bit form: the width follows from the major opcode alone (R139, R140). -/
def isLong (w : IWord) : Bool := (0x20 ≤ (opc w).toNat && (opc w).toNat ≤ 0x25) || opc w == 0x3F

/-- The fields of a sequencer instruction, before the checks of its values (R139). -/
def decodeFields (w w1 : IWord) : Except Reject Instr :=
  match (opc w).toNat with
  | 0x00 => dec00 w
  | 0x01 => dec01 w
  | 0x02 => dec02 w
  | 0x03 => dec03 w
  | 0x04 => dec04 w
  | 0x08 => .ok (.addi (rd w) (ra w) (i14 w))
  | 0x09 => .ok (.andi (rd w) (ra w) (i14 w))
  | 0x0A => .ok (.ori (rd w) (ra w) (i14 w))
  | 0x0B => .ok (.xori (rd w) (ra w) (i14 w))
  | 0x0C => fixed (fld (i14 w) 6 8 = 0) (.slli (rd w) (ra w) (fld (i14 w) 0 6))
  | 0x0D => fixed (fld (i14 w) 6 8 = 0) (.srli (rd w) (ra w) (fld (i14 w) 0 6))
  | 0x0E => fixed (fld (i14 w) 6 8 = 0) (.srai (rd w) (ra w) (fld (i14 w) 0 6))
  | 0x0F => .ok (.muli (rd w) (ra w) (i14 w))
  | 0x10 => .ok (.cmp (pd w) (ng w) (ra w) (rb w) (cc w) (pfn w))
  | 0x11 => .ok (.cmpi (pd w) (ng w) (ra w) (rb w) (cc w) (pfn w))
  | 0x12 => .ok (.cmpw (pd w) (ng w) (ra w) (rb w) (cc w) (pfn w))
  | 0x13 => .ok (.cmpwi (pd w) (ng w) (ra w) (rb w) (cc w) (pfn w))
  | 0x14 => .ok (.br (pd w) (ng w) (o20 w))
  | 0x15 => .ok (.call (pd w) (ng w) (o20 w))
  | 0x16 => dec16 w
  | 0x17 => fixed (fld (rd w) 1 5 = 0) (.loop (fld (rd w) 0 1) (ra w) (i14 w))
  | 0x18 => .ok (.ldd (rd w) (ra w) (i14 w))
  | 0x19 => .ok (.std (rd w) (ra w) (i14 w))
  | 0x1A => .ok (.ldw (rd w) (ra w) (i14 w))
  | 0x1B => .ok (.stw (rd w) (ra w) (i14 w))
  | 0x1C => dec1C w
  | 0x1D => dec1D w
  | 0x1E => dec1E w
  | 0x1F => dec1F w
  | 0x28 => dec28 w
  | 0x29 => dec29 w
  | 0x2A => dec2A w
  | 0x2B => dec2B w
  | 0x2C => dec2C w
  | 0x2D => dec2D w
  | 0x2E => dec2E w
  | 0x2F => dec2F w
  | 0x30 => dec30 w
  | 0x34 => dec34 w
  | 0x38 => dec38 w
  | 0x39 => dec39 w
  | 0x3A => dec3A w
  | 0x3C => dec3C w
  | 0x3D => dec3D w
  | 0x3E => dec3E w
  | 0x20 => if eng w = 3 then dec20 w w1 else .error .engineField
  | 0x21 => if eng w = 4 then dec21 w w1 else .error .engineField
  | 0x22 => if eng w = 1 then dec22 w w1 else .error .engineField
  | 0x23 => if eng w = 2 then dec23 w w1 else .error .engineField
  | 0x24 => if eng w = 5 then dec24 w w1 else .error .engineField
  | 0x25 => if eng w = 6 then dec25 w w1 else .error .engineField
  | 0x3F => dec3F w w1
  | _ => .error .majorOpcode

/-- Keep an instruction only when its field values are legal (R373, R383). -/
def checked : Except Reject Instr → Except Reject Instr
  | .ok i => if i.wf then .ok i else .error .reservedValue
  | .error r => .error r

/-- The sequencer instruction that word 0 `w` and (for a 64-bit form) word 1 `w1` encode (R139). -/
def decode (w w1 : IWord) : Except Reject Instr := checked (decodeFields w w1)

/-- The fields of a micro-order, by op (R147). -/
def decodeMicroFields (w : IWord) : Except Reject Instr :=
  match (uop w).toNat with
  | 0x00 => fixed (ud w = 0 ∧ ua w = 0 ∧ ub w = 0 ∧ um w = 0 ∧ umod w = 0) (.vnop)
  | 0x01 => fixed (ub w = 0 ∧ umod w = 0) (.vmov (ud w) (ua w) (um w))
  | 0x02 => fixed (ua w = 0 ∧ ub w = 0 ∧ fld (umod w) 0 3 = 0) (.vspl (ud w) (um w) (fld (umod w) 3 4))
  | 0x03 => fixed (ua w = 0 ∧ ub w = 0 ∧ fld (umod w) 0 3 = 0) (.vzero (ud w) (um w) (fld (umod w) 3 4))
  | 0x04 => fixed (ua w = 0 ∧ ub w = 0 ∧ fld (umod w) 3 4 = 11) (.vidx (ud w) (um w) (fld (umod w) 1 2) (fld (umod w) 0 1))
  | 0x05 => fixed (umod w = 0) (.vsel (ud w) (ua w) (ub w) (um w))
  | 0x08 => .ok (.vadd (ud w) (ua w) (ub w) (um w) (fld (umod w) 3 4) (fld (umod w) 1 2) (fld (umod w) 0 1))
  | 0x09 => .ok (.vsub (ud w) (ua w) (ub w) (um w) (fld (umod w) 3 4) (fld (umod w) 1 2) (fld (umod w) 0 1))
  | 0x0A => .ok (.vmul (ud w) (ua w) (ub w) (um w) (fld (umod w) 3 4) (fld (umod w) 1 2) (fld (umod w) 0 1))
  | 0x0B => .ok (.vdiv (ud w) (ua w) (ub w) (um w) (fld (umod w) 3 4) (fld (umod w) 1 2) (fld (umod w) 0 1))
  | 0x0C => .ok (.vfma (ud w) (ua w) (ub w) (um w) (fld (umod w) 3 4) (fld (umod w) 1 2) (fld (umod w) 0 1))
  | 0x0D => .ok (.vfnma (ud w) (ua w) (ub w) (um w) (fld (umod w) 3 4) (fld (umod w) 1 2) (fld (umod w) 0 1))
  | 0x0E => fixed (fld (umod w) 1 2 = 0) (.vmin (ud w) (ua w) (ub w) (um w) (fld (umod w) 3 4) (fld (umod w) 0 1))
  | 0x0F => fixed (fld (umod w) 1 2 = 0) (.vmax (ud w) (ua w) (ub w) (um w) (fld (umod w) 3 4) (fld (umod w) 0 1))
  | 0x10 => fixed (ub w = 0 ∧ fld (umod w) 0 3 = 0) (.vabs (ud w) (ua w) (um w) (fld (umod w) 3 4))
  | 0x11 => fixed (ub w = 0 ∧ fld (umod w) 0 3 = 0) (.vneg (ud w) (ua w) (um w) (fld (umod w) 3 4))
  | 0x12 => fixed (ub w = 0) (.vsqrt (ud w) (ua w) (um w) (fld (umod w) 3 4) (fld (umod w) 1 2) (fld (umod w) 0 1))
  | 0x13 => fixed (ub w = 0) (.vrsq (ud w) (ua w) (um w) (fld (umod w) 3 4) (fld (umod w) 1 2) (fld (umod w) 0 1))
  | 0x14 => fixed (ub w = 0) (.vrcp (ud w) (ua w) (um w) (fld (umod w) 3 4) (fld (umod w) 1 2) (fld (umod w) 0 1))
  | 0x15 => fixed (ub w = 0) (.vexp2 (ud w) (ua w) (um w) (fld (umod w) 3 4) (fld (umod w) 1 2) (fld (umod w) 0 1))
  | 0x16 => fixed (ub w = 0) (.vlog2 (ud w) (ua w) (um w) (fld (umod w) 3 4) (fld (umod w) 1 2) (fld (umod w) 0 1))
  | 0x17 => fixed (ub w = 0 ∧ fld (umod w) 0 1 = 0) (.vrint (ud w) (ua w) (um w) (fld (umod w) 3 4) (fld (umod w) 1 2))
  | 0x18 => fixed (ub w = 0 ∧ fld (umod w) 0 3 = 0) (.vfloor (ud w) (ua w) (um w) (fld (umod w) 3 4))
  | 0x19 => fixed (ub w = 0 ∧ fld (umod w) 0 3 = 0) (.vrelu (ud w) (ua w) (um w) (fld (umod w) 3 4))
  | 0x1A => fixed (fld (ud w) 3 2 = 0 ∧ fld (umod w) 0 3 = 0) (.vcmpeq (fld (ud w) 0 3) (ua w) (ub w) (um w) (fld (umod w) 3 4))
  | 0x1B => fixed (fld (ud w) 3 2 = 0 ∧ fld (umod w) 0 3 = 0) (.vcmplt (fld (ud w) 0 3) (ua w) (ub w) (um w) (fld (umod w) 3 4))
  | 0x1C => fixed (fld (ud w) 3 2 = 0 ∧ fld (umod w) 0 3 = 0) (.vcmple (fld (ud w) 0 3) (ua w) (ub w) (um w) (fld (umod w) 3 4))
  | 0x28 => fixed (fld (umod w) 1 2 = 0) (.viadd (ud w) (ua w) (ub w) (um w) (fld (umod w) 3 4) (fld (umod w) 0 1))
  | 0x29 => fixed (fld (umod w) 1 2 = 0) (.visub (ud w) (ua w) (ub w) (um w) (fld (umod w) 3 4) (fld (umod w) 0 1))
  | 0x2A => fixed (fld (umod w) 1 2 = 0) (.vimul (ud w) (ua w) (ub w) (um w) (fld (umod w) 3 4) (fld (umod w) 0 1))
  | 0x2B => fixed (fld (umod w) 0 3 = 0) (.vimin (ud w) (ua w) (ub w) (um w) (fld (umod w) 3 4))
  | 0x2C => fixed (fld (umod w) 0 3 = 0) (.vimax (ud w) (ua w) (ub w) (um w) (fld (umod w) 3 4))
  | 0x2D => fixed (fld (umod w) 0 3 = 0) (.viand (ud w) (ua w) (ub w) (um w) (fld (umod w) 3 4))
  | 0x2E => fixed (fld (umod w) 0 3 = 0) (.vior (ud w) (ua w) (ub w) (um w) (fld (umod w) 3 4))
  | 0x2F => fixed (fld (umod w) 0 3 = 0) (.vixor (ud w) (ua w) (ub w) (um w) (fld (umod w) 3 4))
  | 0x30 => fixed (fld (umod w) 0 3 = 0) (.visll (ud w) (ua w) (ub w) (um w) (fld (umod w) 3 4))
  | 0x31 => fixed (fld (umod w) 0 3 = 0) (.visrl (ud w) (ua w) (ub w) (um w) (fld (umod w) 3 4))
  | 0x32 => fixed (fld (umod w) 0 3 = 0) (.visra (ud w) (ua w) (ub w) (um w) (fld (umod w) 3 4))
  | 0x33 => fixed (fld (umod w) 1 2 = 0) (.vidot (ud w) (ua w) (ub w) (um w) (fld (umod w) 3 4) (fld (umod w) 0 1))
  | 0x34 => fixed (fld (ud w) 3 2 = 0 ∧ fld (umod w) 0 3 = 0) (.vicmpeq (fld (ud w) 0 3) (ua w) (ub w) (um w) (fld (umod w) 3 4))
  | 0x35 => fixed (fld (ud w) 3 2 = 0 ∧ fld (umod w) 0 3 = 0) (.vicmplt (fld (ud w) 0 3) (ua w) (ub w) (um w) (fld (umod w) 3 4))
  | 0x38 => .ok (.vcadd (ud w) (ua w) (ub w) (um w) (fld (umod w) 3 4) (fld (umod w) 1 2) (fld (umod w) 0 1))
  | 0x39 => .ok (.vcsub (ud w) (ua w) (ub w) (um w) (fld (umod w) 3 4) (fld (umod w) 1 2) (fld (umod w) 0 1))
  | 0x3A => .ok (.vcmul (ud w) (ua w) (ub w) (um w) (fld (umod w) 3 4) (fld (umod w) 1 2) (fld (umod w) 0 1))
  | 0x3B => .ok (.vcmulj (ud w) (ua w) (ub w) (um w) (fld (umod w) 3 4) (fld (umod w) 1 2) (fld (umod w) 0 1))
  | 0x3C => .ok (.vcfma (ud w) (ua w) (ub w) (um w) (fld (umod w) 3 4) (fld (umod w) 1 2) (fld (umod w) 0 1))
  | 0x3D => fixed (ub w = 0 ∧ fld (umod w) 0 3 = 0) (.vconj (ud w) (ua w) (um w) (fld (umod w) 3 4))
  | 0x3E => fixed (ub w = 0) (.vcabs2 (ud w) (ua w) (um w) (fld (umod w) 3 4) (fld (umod w) 1 2) (fld (umod w) 0 1))
  | 0x3F => fixed (fld (ub w) 2 3 = 0 ∧ fld (umod w) 0 3 = 0) (.vcrot (ud w) (ua w) (fld (ub w) 0 2) (um w) (fld (umod w) 3 4))
  | 0x48 => fixed (fld (ub w) 4 1 = 0) (.vcvt (ud w) (ua w) (fld (ub w) 0 4) (um w) (fld (umod w) 3 4) (fld (umod w) 1 2) (fld (umod w) 0 1))
  | 0x49 => fixed (fld (ub w) 4 1 = 0 ∧ fld (umod w) 0 1 = 1) (.vqnt (ud w) (ua w) (fld (ub w) 0 4) (um w) (fld (umod w) 3 4) (fld (umod w) 1 2))
  | 0x4A => fixed (fld (umod w) 3 4 = 10) (.vcvtcb (ud w) (ua w) (fld (ub w) 3 2) (fld (ub w) 0 3) (um w) (fld (umod w) 1 2) (fld (umod w) 0 1))
  | 0x4B => fixed (fld (umod w) 0 3 = 0) (.vcpk (ud w) (ua w) (ub w) (um w) (fld (umod w) 3 4))
  | 0x4C => fixed (ub w = 0) (.vcre (ud w) (ua w) (um w) (fld (umod w) 3 4) (fld (umod w) 1 2) (fld (umod w) 0 1))
  | 0x4D => fixed (ub w = 0) (.vcim (ud w) (ua w) (um w) (fld (umod w) 3 4) (fld (umod w) 1 2) (fld (umod w) 0 1))
  | 0x58 => fixed (ub w = 0 ∧ fld (umod w) 1 2 = 0) (.vrsum (ud w) (ua w) (um w) (fld (umod w) 3 4) (fld (umod w) 0 1))
  | 0x59 => fixed (ub w = 0 ∧ fld (umod w) 1 2 = 0) (.vrmax (ud w) (ua w) (um w) (fld (umod w) 3 4) (fld (umod w) 0 1))
  | 0x5A => fixed (ub w = 0 ∧ fld (umod w) 1 2 = 0) (.vrmin (ud w) (ua w) (um w) (fld (umod w) 3 4) (fld (umod w) 0 1))
  | 0x5B => fixed (ub w = 0 ∧ fld (umod w) 1 2 = 0) (.vramax (ud w) (ua w) (um w) (fld (umod w) 3 4) (fld (umod w) 0 1))
  | 0x5C => fixed (fld (umod w) 1 2 = 0) (.vrdot (ud w) (ua w) (ub w) (um w) (fld (umod w) 3 4) (fld (umod w) 0 1))
  | 0x60 => fixed (umod w = 0) (.vperm (ud w) (ua w) (ub w) (um w))
  | 0x61 => fixed (ub w = 0 ∧ fld (umod w) 6 1 = 0) (.vrot (ud w) (ua w) (um w) (fld (umod w) 0 6))
  | 0x62 => fixed (umod w = 0) (.vzipl (ud w) (ua w) (ub w) (um w))
  | 0x63 => fixed (umod w = 0) (.vziph (ud w) (ua w) (ub w) (um w))
  | 0x64 => fixed (umod w = 0) (.vuzpe (ud w) (ua w) (ub w) (um w))
  | 0x65 => fixed (umod w = 0) (.vuzpo (ud w) (ua w) (ub w) (um w))
  | 0x66 => fixed (ub w = 0 ∧ fld (umod w) 6 1 = 0) (.vbcst (ud w) (ua w) (um w) (fld (umod w) 0 6))
  | 0x68 => fixed (fld (ud w) 3 2 = 0 ∧ fld (ua w) 3 2 = 0 ∧ fld (ub w) 3 2 = 0 ∧ umod w = 0) (.mand (fld (ud w) 0 3) (fld (ua w) 0 3) (fld (ub w) 0 3) (um w))
  | 0x69 => fixed (fld (ud w) 3 2 = 0 ∧ fld (ua w) 3 2 = 0 ∧ fld (ub w) 3 2 = 0 ∧ umod w = 0) (.mor (fld (ud w) 0 3) (fld (ua w) 0 3) (fld (ub w) 0 3) (um w))
  | 0x6A => fixed (fld (ud w) 3 2 = 0 ∧ fld (ua w) 3 2 = 0 ∧ fld (ub w) 3 2 = 0 ∧ umod w = 0) (.mxor (fld (ud w) 0 3) (fld (ua w) 0 3) (fld (ub w) 0 3) (um w))
  | 0x6B => fixed (fld (ud w) 3 2 = 0 ∧ fld (ua w) 3 2 = 0 ∧ fld (ub w) 3 2 = 0 ∧ umod w = 0) (.mandn (fld (ud w) 0 3) (fld (ua w) 0 3) (fld (ub w) 0 3) (um w))
  | 0x6C => fixed (fld (ud w) 3 2 = 0 ∧ fld (ua w) 3 2 = 0 ∧ ub w = 0 ∧ umod w = 0) (.mnot (fld (ud w) 0 3) (fld (ua w) 0 3) (um w))
  | 0x6D => fixed (fld (ud w) 3 2 = 0 ∧ ua w = 0 ∧ ub w = 0) (.mfirst (fld (ud w) 0 3) (um w) (umod w))
  | 0x6E => fixed (fld (ua w) 3 2 = 0 ∧ ub w = 0 ∧ umod w = 0) (.vmpop (ud w) (fld (ua w) 0 3) (um w))
  | 0x6F => fixed (fld (ud w) 3 2 = 0 ∧ ub w = 0 ∧ umod w = 0) (.mfromv (fld (ud w) 0 3) (ua w) (um w))
  | 0x70 => fixed (fld (ua w) 3 2 = 0) (.vld (ud w) (fld (ua w) 2 1) (fld (ua w) 0 2) (ub w ++ umod w) (um w))
  | 0x71 => fixed (fld (ua w) 3 2 = 0) (.vst (ud w) (fld (ua w) 2 1) (fld (ua w) 0 2) (ub w ++ umod w) (um w))
  | 0x72 => fixed (fld (ua w) 2 3 = 0 ∧ umod w = 0) (.vldg (ud w) (fld (ua w) 0 2) (ub w) (um w))
  | _ => .error .unusedOp

/-- The ops that the compiled step does not build as an `Instr` (`Machine/Table.lean` runs them by their fields):
VSCT, VLDBS, VSTBS, VTWID, VDEFER, VLOOP, VEND. The runtime gives no code to constructors beyond the 244th. -/
def tailOp (w : IWord) : Bool := [0x73, 0x74, 0x75, 0x78, 0x79, 0x7A, 0x7B].contains (uop w).toNat

/-- The fields of a micro-order whose op is one of `tailOp`, by op (R147). -/
noncomputable def decodeMicroTail (w : IWord) : Except Reject Instr :=
  match (uop w).toNat with
  | 0x73 => fixed (fld (ua w) 2 3 = 0 ∧ umod w = 0) (.vsct (ud w) (fld (ua w) 0 2) (ub w) (um w))
  | 0x74 => fixed (fld (ua w) 3 2 = 0 ∧ um w = 0) (.vldbs (ud w) (fld (ua w) 2 1) (fld (ua w) 0 2) (ub w ++ umod w))
  | 0x75 => fixed (fld (ua w) 3 2 = 0) (.vstbs (ud w) (fld (ua w) 2 1) (fld (ua w) 0 2) (ub w ++ umod w) (um w))
  | 0x78 => fixed (fld (umod w) 0 2 = 0) (.vtwid (ud w) (ua w) (ub w) (um w) (fld (umod w) 3 4) (fld (umod w) 2 1))
  | 0x79 => fixed (fld (umod w) 2 5 = 0) (.vdefer (ud w) (ua w) (ub w) (um w) (fld (umod w) 0 2))
  | 0x7A => fixed (fld w 0 6 = 0) (.vloop (fld w 24 1) (fld w 16 8) (fld w 6 10))
  | 0x7B => fixed (ud w = 0 ∧ ua w = 0 ∧ ub w = 0 ∧ umod w = 0) (.vend (um w))
  | _ => .error .unusedOp

/-- The micro-order that `w` encodes (R146, R383). -/
noncomputable def decodeMicro (w : IWord) : Except Reject Instr :=
  checked (if tailOp w then decodeMicroTail w else decodeMicroFields w)

/-- Decoding of a byte stream in memory order: the instruction and the bytes after it (R1, R133). -/
def decodeBytes : List Byte → Except Reject (Instr × List Byte)
  | b0 :: b1 :: b2 :: b3 :: rest =>
    let w := BitVec.ofNat 32 (ofBytes [b0, b1, b2, b3])
    if isLong w then
      match rest with
      | c0 :: c1 :: c2 :: c3 :: rest' =>
        (decode w (BitVec.ofNat 32 (ofBytes [c0, c1, c2, c3]))).map (·, rest')
      | _ => .error .truncated
    else (decode w 0).map (·, rest)
  | _ => .error .truncated

/-- The words of a sequencer instruction, word 0 first; an event or a micro-order has none (R136). -/
def encode : Instr → List IWord
  | .nop => [mkR 0x00 0 0 0 0x00]
  | .rdstr d => [mkR 0x00 d 0 0 0x01]
  | .add d a b => [mkR 0x01 d a b 0x00]
  | .sub d a b => [mkR 0x01 d a b 0x01]
  | .and d a b => [mkR 0x01 d a b 0x02]
  | .or d a b => [mkR 0x01 d a b 0x03]
  | .xor d a b => [mkR 0x01 d a b 0x04]
  | .andn d a b => [mkR 0x01 d a b 0x05]
  | .sll d a b => [mkR 0x01 d a b 0x06]
  | .srl d a b => [mkR 0x01 d a b 0x07]
  | .sra d a b => [mkR 0x01 d a b 0x08]
  | .ror d a b => [mkR 0x01 d a b 0x09]
  | .min d a b => [mkR 0x01 d a b 0x0A]
  | .max d a b => [mkR 0x01 d a b 0x0B]
  | .minu d a b => [mkR 0x01 d a b 0x0C]
  | .maxu d a b => [mkR 0x01 d a b 0x0D]
  | .addw d a b => [mkR 0x01 d a b 0x0E]
  | .subw d a b => [mkR 0x01 d a b 0x0F]
  | .adds d a b => [mkR 0x01 d a b 0x10]
  | .subs d a b => [mkR 0x01 d a b 0x11]
  | .mul d a b => [mkR 0x02 d a b 0x00]
  | .mulh d a b => [mkR 0x02 d a b 0x01]
  | .mulhu d a b => [mkR 0x02 d a b 0x02]
  | .mulhsu d a b => [mkR 0x02 d a b 0x03]
  | .div d a b => [mkR 0x02 d a b 0x04]
  | .divu d a b => [mkR 0x02 d a b 0x05]
  | .rem d a b => [mkR 0x02 d a b 0x06]
  | .remu d a b => [mkR 0x02 d a b 0x07]
  | .clz d a => [mkR 0x03 d a 0 0x00]
  | .ctz d a => [mkR 0x03 d a 0 0x01]
  | .popc d a => [mkR 0x03 d a 0 0x02]
  | .sextb d a => [mkR 0x03 d a 0 0x03]
  | .sexth d a => [mkR 0x03 d a 0 0x04]
  | .sextw d a => [mkR 0x03 d a 0 0x05]
  | .zextw d a => [mkR 0x03 d a 0 0x06]
  | .bswap d a => [mkR 0x03 d a 0 0x07]
  | .pand d a b => [mkR 0x04 (0#1 ++ d) (0#1 ++ a) (0#1 ++ b) 0x00]
  | .por d a b => [mkR 0x04 (0#1 ++ d) (0#1 ++ a) (0#1 ++ b) 0x01]
  | .pxor d a b => [mkR 0x04 (0#1 ++ d) (0#1 ++ a) (0#1 ++ b) 0x02]
  | .pandn d a b => [mkR 0x04 (0#1 ++ d) (0#1 ++ a) (0#1 ++ b) 0x03]
  | .ptos d a => [mkR 0x04 d (0#1 ++ a) 0 0x08]
  | .stop d a => [mkR 0x04 (0#1 ++ d) a 0 0x09]
  | .prd d => [mkR 0x04 d 0 0 0x0A]
  | .pwr a => [mkR 0x04 0 a 0 0x0B]
  | .sel d a b p => [mkR 0x04 d a b (7#3 ++ p)]
  | .addi d a i => [mkI 0x08 d a i]
  | .andi d a i => [mkI 0x09 d a i]
  | .ori d a i => [mkI 0x0A d a i]
  | .xori d a i => [mkI 0x0B d a i]
  | .slli d a i => [mkI 0x0C d a (0#8 ++ i)]
  | .srli d a i => [mkI 0x0D d a (0#8 ++ i)]
  | .srai d a i => [mkI 0x0E d a (0#8 ++ i)]
  | .muli d a i => [mkI 0x0F d a i]
  | .cmp p n a b c f => [mkP 0x10 p n a b c f]
  | .cmpi p n a i c f => [mkP 0x11 p n a i c f]
  | .cmpw p n a b c f => [mkP 0x12 p n a b c f]
  | .cmpwi p n a i c f => [mkP 0x13 p n a i c f]
  | .br p n o => [mkB 0x14 p n o]
  | .call p n o => [mkB 0x15 p n o]
  | .jmp a => [mkR 0x16 0 a 0 0x00]
  | .jalr d a => [mkR 0x16 d a 0 0x01]
  | .loop l a i => [mkI 0x17 (0#5 ++ l) a i]
  | .ldd d b o => [mkI 0x18 d b o]
  | .std s b o => [mkI 0x19 s b o]
  | .ldw d b o => [mkI 0x1A d b o]
  | .stw s b o => [mkI 0x1B s b o]
  | .vldb d a b => [mkR 0x1C d a b 0x00]
  | .vldh d a b => [mkR 0x1C d a b 0x01]
  | .vldw d a b => [mkR 0x1C d a b 0x02]
  | .vldd d a b => [mkR 0x1C d a b 0x03]
  | .vstb s a b => [mkR 0x1C s a b 0x08]
  | .vsth s a b => [mkR 0x1C s a b 0x09]
  | .vstw s a b => [mkR 0x1C s a b 0x0A]
  | .vstd s a b => [mkR 0x1C s a b 0x0B]
  | .aswp d a b w => [mkR 0x1D d a b (w ++ 0#7)]
  | .aadd d a b w => [mkR 0x1D d a b (w ++ 1#7)]
  | .aand d a b w => [mkR 0x1D d a b (w ++ 2#7)]
  | .aor d a b w => [mkR 0x1D d a b (w ++ 3#7)]
  | .axor d a b w => [mkR 0x1D d a b (w ++ 4#7)]
  | .amax d a b w => [mkR 0x1D d a b (w ++ 5#7)]
  | .amin d a b w => [mkR 0x1D d a b (w ++ 6#7)]
  | .amaxu d a b w => [mkR 0x1D d a b (w ++ 7#7)]
  | .aminu d a b w => [mkR 0x1D d a b (w ++ 8#7)]
  | .acas d a b w => [mkR 0x1D d a b (w ++ 9#7)]
  | .ldbx d a b => [mkR 0x1E d a b 0x00]
  | .ldbux d a b => [mkR 0x1E d a b 0x01]
  | .ldhx d a b => [mkR 0x1E d a b 0x02]
  | .ldhux d a b => [mkR 0x1E d a b 0x03]
  | .ldwx d a b => [mkR 0x1E d a b 0x04]
  | .ldwux d a b => [mkR 0x1E d a b 0x05]
  | .stbx s a b => [mkR 0x1E s a b 0x08]
  | .sthx s a b => [mkR 0x1E s a b 0x09]
  | .stwx s a b => [mkR 0x1E s a b 0x0A]
  | .mark s => [mkR 0x1F 0 0 s 0x00]
  | .cbar => [mkR 0x1F 0 0 0 0x01]
  | .tkwait e => [mkR 0x28 0 0 e 0x00]
  | .tksend e => [mkR 0x28 0 0 e 0x01]
  | .tkcnt d a b => [mkR 0x28 d a b 0x02]
  | .scpost a b => [mkR 0x29 0 a b 0x00]
  | .scwait a b => [mkR 0x29 0 a b 0x01]
  | .sctest p a b => [mkR 0x29 (0#1 ++ p) a b 0x02]
  | .clink a b => [mkR 0x29 0 a b 0x03]
  | .ckick a => [mkR 0x29 0 a 0 0x04]
  | .wmwait a c => [mkR 0x2A 0 a c 0x00]
  | .wmdis c => [mkR 0x2A 0 0 c 0x01]
  | .wset d a => [mkR 0x2B d a 0 0x00]
  | .wdis a => [mkR 0x2B 0 a 0 0x01]
  | .wstat d a => [mkR 0x2B d a 0 0x02]
  | .claim d => [mkR 0x2C d 0 0 0x00]
  | .claimp d => [mkR 0x2C d 0 0 0x01]
  | .rels a => [mkR 0x2C 0 a 0 0x02]
  | .slotst d a => [mkR 0x2C d a 0 0x03]
  | .abank d => [mkR 0x2D d 0 0 0x00]
  | .afree a => [mkR 0x2D 0 a 0 0x01]
  | .aband a b => [mkR 0x2D 0 a b 0x02]
  | .arelb a => [mkR 0x2D 0 a 0 0x03]
  | .abst d a => [mkR 0x2D d a 0 0x04]
  | .lend b => [mkR 0x2E 0 0 b 0x00]
  | .retBank b => [mkR 0x2E 0 0 b 0x01]
  | .cbld a b => [mkR 0x2F 0 a b 0x00]
  | .tagget d t => [mkR 0x30 d t 0 0x00]
  | .tagset t b => [mkR 0x30 t 0 b 0x01]
  | .tscget d t => [mkR 0x30 d t 0 0x02]
  | .tscset t b => [mkR 0x30 t 0 b 0x03]
  | .halt => [mkR 0x34 0 0 0 0x00]
  | .yield => [mkR 0x34 0 0 0 0x01]
  | .estim a => [mkR 0x34 0 a 0 0x02]
  | .hbeat => [mkR 0x34 0 0 0 0x03]
  | .ackmap d => [mkR 0x34 d 0 0 0x04]
  | .crr d a => [mkR 0x38 d a 0 0x00]
  | .crw a b => [mkR 0x38 0 a b 0x01]
  | .trap c => [mkR 0x39 0 0 c 0x00]
  | .tret => [mkR 0x39 0 0 0 0x01]
  | .icinv a => [mkR 0x39 0 a 0 0x02]
  | .icinva => [mkR 0x39 0 0 0 0x03]
  | .tlbi a b => [mkR 0x39 0 a b 0x04]
  | .tlbia b => [mkR 0x39 0 0 b 0x05]
  | .tlbiall => [mkR 0x39 0 0 0 0x06]
  | .drd d a => [mkR 0x3A d a 0 0x00]
  | .dwr a b => [mkR 0x3A 0 a b 0x01]
  | .scango a b => [mkR 0x3A 0 a b 0x04]
  | .scanab a => [mkR 0x3A 0 a 0 0x05]
  | .scanst d a => [mkR 0x3A d a 0 0x06]
  | .act a => [mkR 0x3C 0 a 0 0x00]
  | .pre a => [mkR 0x3D 0 a 0 0x00]
  | .ref a => [mkR 0x3E 0 a 0 0x00]
  | .li d i => [mkL0 0x3F d 0 0 i, mkL1 i]
  | .addli d a i => [mkL0 0x3F d a 1 i, mkL1 i]
  | .liu d a i => [mkL0 0x3F d a 2 (0#20 ++ i), mkL1 (0#20 ++ i)]
  | .cpy s a b c t cb => [mkE0 0x20 3 0 s, mkE1 a b c t cb]
  | .cpy2d s a b c t cb => [mkE0 0x20 3 1 s, mkE1 a b c t cb]
  | .cps s a b c t cb => [mkE0 0x20 3 2 s, mkE1 a b c t cb]
  | .adrain s a b c t cb => [mkE0 0x20 3 3 s, mkE1 a b c t cb]
  | .fill s a b c t cb => [mkE0 0x20 3 4 s, mkE1 a b c t cb]
  | .cmc s a b c t cb => [mkE0 0x20 3 5 s, mkE1 a b c t cb]
  | .cpost s a b c t cb => [mkE0 0x20 3 6 s, mkE1 a b c t cb]
  | .cwait s a b c t cb => [mkE0 0x20 3 7 s, mkE1 a b c t cb]
  | .gexp s a b c t cb => [mkE0 0x21 4 0 s, mkE1 a b c t cb]
  | .gexpv s a b c t cb => [mkE0 0x21 4 1 s, mkE1 a b c t cb]
  | .gath s a b c t cb => [mkE0 0x21 4 2 s, mkE1 a b c t cb]
  | .gscat s a b c t cb => [mkE0 0x21 4 3 s, mkE1 a b c t cb]
  | .mgo s a t cb => [mkE0 0x22 1 0 s, mkE1 a 0 0 t cb]
  | .aread s a b c t cb => [mkE0 0x22 1 1 s, mkE1 a b c t cb]
  | .vrun s a b c t cb => [mkE0 0x23 2 0 s, mkE1 a b c t cb]
  | .vstop s a b c t cb => [mkE0 0x23 2 1 s, mkE1 a b c t cb]
  | .vbase s a b c t cb => [mkE0 0x23 2 2 s, mkE1 a b c t cb]
  | .vwait s a b c t cb => [mkE0 0x23 2 3 s, mkE1 a b c t cb]
  | .vtld s a b c t cb => [mkE0 0x23 2 4 s, mkE1 a b c t cb]
  | .oshot s a b c t cb => [mkE0 0x24 5 0 s, mkE1 a b c t cb]
  | .omask s a b c t cb => [mkE0 0x24 5 1 s, mkE1 a b c t cb]
  | .ocal s a b c t cb => [mkE0 0x24 5 2 s, mkE1 a b c t cb]
  | .lsend s a b c t cb => [mkE0 0x25 6 0 s, mkE1 a b c t cb]
  | .colar s a b c t cb => [mkE0 0x25 6 1 s, mkE1 a b c t cb]
  | .colrs s a b c t cb => [mkE0 0x25 6 2 s, mkE1 a b c t cb]
  | .colag s a b c t cb => [mkE0 0x25 6 3 s, mkE1 a b c t cb]
  | .vrunDrain s a b c t cb => [mkE0 0x23 2 0 s, mkE1 a b c t cb]
  | .vbaseDq s a b c t cb => [mkE0 0x23 2 2 s, mkE1 a b c t cb]
  | _ => []

/-- The word of a micro-order (R146); nothing else has one. -/
def encodeMicro : Instr → Option IWord
  | .vnop => some (mkU 0x00 0#5 0#5 0#5 0#3 0#7)
  | .vmov d a m => some (mkU 0x01 d a 0#5 m 0#7)
  | .vspl d m f => some (mkU 0x02 d 0#5 0#5 m (f ++ 0#3))
  | .vzero d m f => some (mkU 0x03 d 0#5 0#5 m (f ++ 0#3))
  | .vidx d m r s => some (mkU 0x04 d 0#5 0#5 m (11#4 ++ r ++ s))
  | .vsel d a b m => some (mkU 0x05 d a b m 0#7)
  | .vadd d a b m f r s => some (mkU 0x08 d a b m (f ++ r ++ s))
  | .vsub d a b m f r s => some (mkU 0x09 d a b m (f ++ r ++ s))
  | .vmul d a b m f r s => some (mkU 0x0A d a b m (f ++ r ++ s))
  | .vdiv d a b m f r s => some (mkU 0x0B d a b m (f ++ r ++ s))
  | .vfma d a b m f r s => some (mkU 0x0C d a b m (f ++ r ++ s))
  | .vfnma d a b m f r s => some (mkU 0x0D d a b m (f ++ r ++ s))
  | .vmin d a b m f s => some (mkU 0x0E d a b m (f ++ 0#2 ++ s))
  | .vmax d a b m f s => some (mkU 0x0F d a b m (f ++ 0#2 ++ s))
  | .vabs d a m f => some (mkU 0x10 d a 0#5 m (f ++ 0#3))
  | .vneg d a m f => some (mkU 0x11 d a 0#5 m (f ++ 0#3))
  | .vsqrt d a m f r s => some (mkU 0x12 d a 0#5 m (f ++ r ++ s))
  | .vrsq d a m f r s => some (mkU 0x13 d a 0#5 m (f ++ r ++ s))
  | .vrcp d a m f r s => some (mkU 0x14 d a 0#5 m (f ++ r ++ s))
  | .vexp2 d a m f r s => some (mkU 0x15 d a 0#5 m (f ++ r ++ s))
  | .vlog2 d a m f r s => some (mkU 0x16 d a 0#5 m (f ++ r ++ s))
  | .vrint d a m f r => some (mkU 0x17 d a 0#5 m (f ++ r ++ 0#1))
  | .vfloor d a m f => some (mkU 0x18 d a 0#5 m (f ++ 0#3))
  | .vrelu d a m f => some (mkU 0x19 d a 0#5 m (f ++ 0#3))
  | .vcmpeq d a b m f => some (mkU 0x1A (0#2 ++ d) a b m (f ++ 0#3))
  | .vcmplt d a b m f => some (mkU 0x1B (0#2 ++ d) a b m (f ++ 0#3))
  | .vcmple d a b m f => some (mkU 0x1C (0#2 ++ d) a b m (f ++ 0#3))
  | .viadd d a b m f s => some (mkU 0x28 d a b m (f ++ 0#2 ++ s))
  | .visub d a b m f s => some (mkU 0x29 d a b m (f ++ 0#2 ++ s))
  | .vimul d a b m f s => some (mkU 0x2A d a b m (f ++ 0#2 ++ s))
  | .vimin d a b m f => some (mkU 0x2B d a b m (f ++ 0#3))
  | .vimax d a b m f => some (mkU 0x2C d a b m (f ++ 0#3))
  | .viand d a b m f => some (mkU 0x2D d a b m (f ++ 0#3))
  | .vior d a b m f => some (mkU 0x2E d a b m (f ++ 0#3))
  | .vixor d a b m f => some (mkU 0x2F d a b m (f ++ 0#3))
  | .visll d a b m f => some (mkU 0x30 d a b m (f ++ 0#3))
  | .visrl d a b m f => some (mkU 0x31 d a b m (f ++ 0#3))
  | .visra d a b m f => some (mkU 0x32 d a b m (f ++ 0#3))
  | .vidot d a b m f s => some (mkU 0x33 d a b m (f ++ 0#2 ++ s))
  | .vicmpeq d a b m f => some (mkU 0x34 (0#2 ++ d) a b m (f ++ 0#3))
  | .vicmplt d a b m f => some (mkU 0x35 (0#2 ++ d) a b m (f ++ 0#3))
  | .vcadd d a b m f r s => some (mkU 0x38 d a b m (f ++ r ++ s))
  | .vcsub d a b m f r s => some (mkU 0x39 d a b m (f ++ r ++ s))
  | .vcmul d a b m f r s => some (mkU 0x3A d a b m (f ++ r ++ s))
  | .vcmulj d a b m f r s => some (mkU 0x3B d a b m (f ++ r ++ s))
  | .vcfma d a b m f r s => some (mkU 0x3C d a b m (f ++ r ++ s))
  | .vconj d a m f => some (mkU 0x3D d a 0#5 m (f ++ 0#3))
  | .vcabs2 d a m f r s => some (mkU 0x3E d a 0#5 m (f ++ r ++ s))
  | .vcrot d a k m f => some (mkU 0x3F d a (0#3 ++ k) m (f ++ 0#3))
  | .vcvt d a p m f r s => some (mkU 0x48 d a (0#1 ++ p) m (f ++ r ++ s))
  | .vqnt d a p m f r => some (mkU 0x49 d a (0#1 ++ p) m (f ++ r ++ 1#1))
  | .vcvtcb d a p c m r s => some (mkU 0x4A d a (p ++ c) m (10#4 ++ r ++ s))
  | .vcpk d a b m f => some (mkU 0x4B d a b m (f ++ 0#3))
  | .vcre d a m f r s => some (mkU 0x4C d a 0#5 m (f ++ r ++ s))
  | .vcim d a m f r s => some (mkU 0x4D d a 0#5 m (f ++ r ++ s))
  | .vrsum d a m f s => some (mkU 0x58 d a 0#5 m (f ++ 0#2 ++ s))
  | .vrmax d a m f s => some (mkU 0x59 d a 0#5 m (f ++ 0#2 ++ s))
  | .vrmin d a m f s => some (mkU 0x5A d a 0#5 m (f ++ 0#2 ++ s))
  | .vramax d a m f s => some (mkU 0x5B d a 0#5 m (f ++ 0#2 ++ s))
  | .vrdot d a b m f s => some (mkU 0x5C d a b m (f ++ 0#2 ++ s))
  | .vperm d a b m => some (mkU 0x60 d a b m 0#7)
  | .vrot d a m k => some (mkU 0x61 d a 0#5 m (0#1 ++ k))
  | .vzipl d a b m => some (mkU 0x62 d a b m 0#7)
  | .vziph d a b m => some (mkU 0x63 d a b m 0#7)
  | .vuzpe d a b m => some (mkU 0x64 d a b m 0#7)
  | .vuzpo d a b m => some (mkU 0x65 d a b m 0#7)
  | .vbcst d a m k => some (mkU 0x66 d a 0#5 m (0#1 ++ k))
  | .mand d a b m => some (mkU 0x68 (0#2 ++ d) (0#2 ++ a) (0#2 ++ b) m 0#7)
  | .mor d a b m => some (mkU 0x69 (0#2 ++ d) (0#2 ++ a) (0#2 ++ b) m 0#7)
  | .mxor d a b m => some (mkU 0x6A (0#2 ++ d) (0#2 ++ a) (0#2 ++ b) m 0#7)
  | .mandn d a b m => some (mkU 0x6B (0#2 ++ d) (0#2 ++ a) (0#2 ++ b) m 0#7)
  | .mnot d a m => some (mkU 0x6C (0#2 ++ d) (0#2 ++ a) 0#5 m 0#7)
  | .mfirst d m n => some (mkU 0x6D (0#2 ++ d) 0#5 0#5 m n)
  | .vmpop d a m => some (mkU 0x6E d (0#2 ++ a) 0#5 m 0#7)
  | .mfromv d a m => some (mkU 0x6F (0#2 ++ d) a 0#5 m 0#7)
  | .vld d i c o m => some (mkU 0x70 d (0#2 ++ i ++ c) (fld o 7 5) m (fld o 0 7))
  | .vst s i c o m => some (mkU 0x71 s (0#2 ++ i ++ c) (fld o 7 5) m (fld o 0 7))
  | .vldg d c x m => some (mkU 0x72 d (0#3 ++ c) x m 0#7)
  | .vsct s c x m => some (mkU 0x73 s (0#3 ++ c) x m 0#7)
  | .vldbs d i c o => some (mkU 0x74 d (0#2 ++ i ++ c) (fld o 7 5) 0#3 (fld o 0 7))
  | .vstbs s i c o m => some (mkU 0x75 s (0#2 ++ i ++ c) (fld o 7 5) m (fld o 0 7))
  | .vtwid d a l m f v => some (mkU 0x78 d a l m (f ++ v ++ 0#2))
  | .vdefer p a b m n => some (mkU 0x79 p a b m (0#5 ++ n))
  | .vloop l f c => some ((0x7A#7 ++ l ++ f ++ c ++ 0#6 : IWord))
  | .vend m => some (mkU 0x7B 0#5 0#5 0#5 m 0#7)
  | _ => none

/-- The instruction that the decoder reads from an instruction whose bits are `w`, bit 0 the least significant bit of
the first word. A word that no sequencer instruction uses is read as a micro-order, which is how a table holds it. -/
noncomputable def decodeTableWord (nbits w : Nat) : Option Instr :=
  let w := w % 2 ^ nbits
  let w0 := BitVec.ofNat 32 w
  match decode w0 (BitVec.ofNat 32 (w / 2 ^ 32)) with
  | .ok i => some i
  | .error _ =>
    match decodeMicro w0 with
    | .ok i => some i
    | .error _ => none

end Sys2Proof
end

