-- ==== Sys2Proof/Config.lean ====
section
/-! DEFINITION. What the spec leaves open, as opaque constants: nothing in Lean can evaluate one or prove a value of
it. Each is applied to plain data of State (the free-value counter, or the operands it depends on), so a statement
about a result that uses one holds for every value (notes/assumptions 5, 10, 11, 13, 14, 18, 19, 20). -/
namespace Sys2Proof.Config

/-- Nanoseconds of the package reference clock that pass before step `n` (R130; entry 5). -/
opaque strokeTicks : Nat → Nat
/-- Core clock cycles that pass before step `n` (R172; entry 5). -/
opaque cycleTicks : Nat → Nat
/-- A free choice between two behaviours the spec allows, at the free-value counter `n` (R89, R135; entries 10, 11). -/
opaque choice : Nat → Bool
/-- A value the spec leaves open, at the free-value counter `n` and a position `i` within it (entries 13, 18, 19, 20). -/
opaque word : Nat → Nat → Word
/-- `w` bits that the spec leaves open, at the free-value counter `n` (R411; entry 95). -/
opaque bits (n w : Nat) : BitVec w
/-- What the other apertures of a shot add to an output part, as sign and 63 bits of the most it may be: the free-value counter, the
shot's input as a number, the part (R265; entry 13). -/
opaque crosstalk : Nat → Nat → Nat → Word
/-- By how many the output elements beyond 2^−7 FS′ may exceed one in 100 000 of all (R265; entry 13). -/
opaque shotSlack : Nat
/-- The correctly rounded result of a transcendental function whose enclosure does not decide the rounding: function
number, format code, rounding code, operand (R245, R257; entry 14). -/
opaque transcendental : Nat → Nat → Nat → Nat → Nat
/-- The private half of the device identity key, as a number that is reduced to its range (R316; entry 21). -/
opaque idKey : Nat
/-- BOOT.DEVID, 128 bits (R316; entry 21). -/
opaque devId : BitVec 128
/-- FUSE.KEYD[t], for image type t + 1 (R314; entry 21). -/
opaque fuseKeyDigest : Nat → BitVec 512
/-- FUSE.MINSVN[t], for image type t + 1 (R314; entry 21). -/
opaque fuseMinSvn : Nat → BitVec 32
/-- The boot flash of the management core and the system-core images it loads, in load order: header and payload of
image `i` (R313, R314; entry 21). -/
opaque bootImage : Nat → List Byte
/-- How many system-core images the boot flash holds (R313; entry 21). -/
opaque bootImages : Nat
/-- What Mbailan writes at step 5 of the boot to the register of PKG at an offset: block worlds and regions (R313; entry 99). -/
opaque bootWord : Nat → BitVec 64

end Sys2Proof.Config
end

