-- ==== Sys2Proof/Machine/State.lean ====
section
/-! DEFINITION. The state of the Apheyth H2 as plain data: one compute core in full (R32 to R58, with its engines,
comb, accumulators and near-DRAM banks), the package blocks (R83, R106, R278 to R345, R408 to R429), memory, and the
model's own fields: the agenda that says which asynchronous step lands next (entry 2) and the free-value counter
(entry 5). Register words keep the layout the spec gives them; reset values are those of the register tables. -/
namespace Sys2Proof.Machine

/-- A step of this model never ends in a fault: every fault of the spec is a next state (a trap taken or a launch
aborted). -/
inductive Fault where
  /-- Raised by no step; safe. -/
  | none
deriving DecidableEq, Repr

/-- Why an instruction has no meaning here. -/
inductive Refusal where
  /-- Raised by the dispatch of an instruction the model does not cover yet; safe. -/
  | notModelled (mnemonic : String)
deriving DecidableEq, Repr

/-- The phase of a task (R45). -/
inductive Phase where
  | pro | ker | epi
deriving DecidableEq, Repr

/-- A hardware loop level: CTX.HLCNT, CTX.HLSTART, CTX.HLFIN (R163). -/
structure HwLoop where
  act   : Bool
  count : BitVec 32
  start : VAddr
  fin   : VAddr
deriving DecidableEq, Repr

/-- The home of a location (R106): an L2 slice, a vault controller, a register block, the device behind a root port, or the
home of the target location in the device at the other end of a link. -/
inductive Home where
  | slice (n : Nat) | vault (k : Nat) | block (b : Nat) | root (i : Nat) | peer (link : Nat) (h : Home) | none
deriving DecidableEq, Repr

/-- A pending access of a context, from its issue until it is performed and, for a load, landed (R110 to R113). -/
structure Acc where
  id    : Nat
  op    : AccessOp
  va    : VAddr
  pa    : BitVec 52
  /-- Its home (R106). -/
  home  : Home
  lsize : Fin 4
  /-- Volatile class (R113). -/
  vol   : Bool
  /-- WORLD of the leaf that translated it (R317). -/
  world : Bool
  /-- The register it writes when it lands, and whether its value is sign-extended. -/
  dest  : Option (BitVec 6)
  sext  : Bool
  /-- It was issued before a repair entry changed (R174): the row that was then steered for its register, the register's own
  (none) or a spare. -/
  row   : Option (Option (Fin 16))
  /-- It has left its queue (R110, R114), and its place in the order in which the context's accesses left. -/
  left  : Bool
  ord   : Nat
  /-- A write to a root port or a peer that is on its way: sent, and not yet performed there (R124, R125). -/
  sent  : Bool
  /-- It has been performed (R107), with the value a load or atomic returned. -/
  done  : Bool
  val   : Word
  /-- The issue cycle at which an exposed-mode load lands (R52). -/
  due   : Option Nat
  /-- Performed only after every program-earlier access: an SCPOST (R198). -/
  post  : Bool
  /-- Held by a data watchpoint until RESUME (R343). -/
  held  : Bool
  /-- The address of the instruction that issued it (R343, R344). -/
  pc    : VAddr
  /-- The predicate register it writes when it lands, and the threshold it compares (SCTEST, R198). -/
  test  : Option (BitVec 5 × Word)
deriving DecidableEq, Repr

/-- A vector register with its tag, tensor scale and block scales (R65, R66). -/
structure VReg where
  data : BitVec 2048
  tag  : BitVec 16
  ts   : BitVec 32
  bs   : BitVec 128
deriving DecidableEq, Repr

/-- A level of the table loops (R233, R242). -/
structure TLoop where
  act   : Bool
  count : BitVec 32
  start : Nat
  fin   : Nat
deriving DecidableEq, Repr

/-- A base register B[t,b] (R233). -/
structure VBase where
  addr : VAddr
  tag  : BitVec 16
deriving DecidableEq, Repr

/-- A table store with its bases (R233). -/
structure Table where
  len   : Nat
  code  : Vector IWord 256
  bases : Vector VBase 4
deriving DecidableEq, Repr

/-- The vector state of a context (R32, R72, R233). -/
structure VecState where
  regs   : Vector VReg 32
  masks  : Vector (BitVec 64) 8
  gen    : Vector (BitVec 32) 64
  tables : Vector Table 4
  rc     : BitVec 32
  pr     : Word
  loops  : Vector TLoop 2
  dqbase : Word
  dqhead : Word
  dqtail : Word
  /-- Vector banks 4 to 7 in the MXE slot (R56, R57). -/
  lent   : Vector Bool 4
  /-- Stop requests of VSTOP: table, sequence number (R239). -/
  stops  : List (Fin 4 × Word)
deriving DecidableEq, Repr

/-- An entry that an instruction appended and that has not started: its number and ring slot, the accesses it waits
for (R116), and what it names (R238, R380). -/
structure Pend where
  seq   : Word
  slot  : BitVec 8
  rel   : Nat
  slots : BitVec 64
  banks : BitVec 32
  vregs : BitVec 32
  /-- Every bank it names, FREE ones included (R216). -/
  names : BitVec 32
  /-- The band an AREAD or ADRAIN reads (R216). -/
  band  : Option (BitVec 6)
  /-- The table that a VRUN runs (R238). -/
  runs  : Option (Fin 4)
  /-- The table that a VTLD loads (R235). -/
  tbl   : Option (Fin 4)
  /-- A held link: the chain's address and entry count (R200). -/
  link  : Option (VAddr × Nat)
  /-- Vector banks 4 to 7 in the MXE slot when it was appended (R57). -/
  lent  : Vector Bool 4
deriving DecidableEq, Repr

/-- A comb slot (R210 to R214). `fills` counts its fills (R419). -/
structure Slot where
  data  : BitVec 65536
  side  : BitVec 2048
  tag   : BitVec 16
  ts    : BitVec 32
  live  : BitVec 32
  state : BitVec 3
  own   : Fin 4
  relp  : Bool
  pair  : Bool
  fills : Nat
deriving DecidableEq, Repr

/-- An accumulator bank (R215 to R217): 64 rows of 64 FP32. -/
structure Bank where
  rows  : Vector (BitVec 2048) 64
  tag   : BitVec 16
  ts    : BitVec 32
  emit  : Bool
  state : BitVec 2
  alc   : Fin 4
  own   : Vector (Fin 4) 2
  rel   : Vector Bool 2
  /-- Writers appended before the AFREE: MXE numbers up to this one (R216). -/
  upto  : Word
deriving DecidableEq, Repr

/-- Where the first provenance event of a step lies (R341): row, column, octet, kind. -/
structure NumEvent where
  i    : Nat
  j    : Nat
  oct  : Nat
  kind : Nat
deriving DecidableEq, Repr

/-- What a started entry keeps beside its operands, by engine. -/
inductive RunX where
  | plain
  /-- A table run: table, step, and for a drain run its path, T0, the ring positions taken, and those of the batch. -/
  | table (t : Fin 4) (step : Nat) (drain : Bool) (path : BitVec 5) (t0 : Nat) (taken batch : List Nat)
  /-- A nest: the configuration MXC0 to MXC9 it was committed with (R223); of the step in progress the K-octet steps
  performed, the bank as the step found it (R415), and the first event (R341). -/
  | nest (cfg : Vector Word 10) (unit : Nat) (old : Option Bank) (ev : Option NumEvent)
  /-- An OPP entry: the registration slot, the index claimed, whether VALID is written, the report, and the operand
  block it read (R272). -/
  | opp (qslot : Fin 16) (index : Option Word) (sent : Bool) (report : Option Bool) (body : List Byte)
  /-- A collective: its descriptor, the algorithm step, the accumulator chunks as 32-bit patterns, and the wire bytes of
  each chunk of the second phase (R192); its number among the collectives issued on LNEXT, and on LPREV (R191). -/
  | coll (d : List Byte) (step : Nat) (acc : List (List (BitVec 32))) (wire : List (List Byte)) (ord : Nat × Nat)
  /-- The descriptor that a CMC, GATH or GSCAT read at its start (R187, R189). -/
  | desc (d : List Byte)
  /-- An expansion: the bytes read of the directory's header, the tile's entry, and the block (R104). -/
  | tile (got : List Byte)
deriving DecidableEq, Repr

/-- A started entry (R39, R355). -/
structure Run where
  seq     : Word
  hdr     : Word
  /-- The address of the entry in memory. -/
  addr    : VAddr
  a       : Word
  b       : Word
  c       : Word
  b40     : Byte
  /-- Units performed: micro-order step, linear step index, 64-byte unit, element. -/
  prog    : Nat
  cycle   : Word
  stroke  : Word
  /-- Every effect has been performed; the entry may complete (R40). -/
  done    : Bool
  /-- It waits rather than works: for a counter, or for queue room (R289). -/
  waits   : Bool
  /-- Its header and operands have passed the checks made at its start (R378). -/
  begun   : Bool
  /-- It has faulted: cause and TVAL. -/
  fault   : Option (BitVec 8 × Word)
  /-- It faulted before it took its pops (R369, R404). -/
  early   : Bool
  /-- FMTST and ACC flags it sets when it completes (R75, R218). -/
  fmtst   : BitVec 3
  accf    : BitVec 2
  /-- The pops it took and the push it reserved, engine numbers or 0xF (R39). -/
  sync    : BitVec 16
  /-- A provenance record has been written for it (R341). -/
  npdone  : Bool
  /-- Rebuilds attempted for it (R419). -/
  rebuilt : Nat
  /-- Ports (root ports 0 to 3, links from 4) that have writes of it not yet performed (R117, R190). -/
  posts   : List Nat
  /-- What its append recorded, for an entry that an instruction appended. -/
  pend    : Option Pend
  x       : RunX
deriving DecidableEq, Repr

/-- An entry retained in an engine command window (R416). -/
structure Kept where
  seq   : Word
  tsm   : Bool
  nr    : Bool
  /-- Its ring slot, unless it is a chain entry. -/
  slot  : Option (BitVec 8)
  done  : Bool
  /-- For an MXE entry: its nest, and the fills of the slots it read. -/
  nest  : Option (Vector Word 10)
  fills : List (BitVec 6 × Nat)
  /-- The bank that an AREAD names (R420). -/
  bank  : Option (BitVec 5)
deriving DecidableEq, Repr

/-- A held link in progress (R201): its address, the chain entries left, the address of the next, its number, the ring
address after the held link, the address and length of the chain, and the LINKs it has followed. -/
structure Chain where
  link  : VAddr
  left  : Nat
  addr  : VAddr
  seq   : Word
  ret   : VAddr
  base  : VAddr
  count : Nat
  /-- LINK entries followed inside the run (R395). -/
  links : List VAddr
deriving DecidableEq, Repr

/-- The queue of one engine for one context (R35 to R41, R364, R416). -/
structure EngQ where
  qbase  : Word
  qhead  : Word
  qtail  : BitVec 8
  qseq   : Word
  qlast  : Word
  pend   : List Pend
  run    : Option Run
  window : List Kept
  chain  : Option Chain
  /-- The next entry that starts is a forced point (R35, R417). -/
  forced : Bool
  /-- Stopped by the halt line or by STOPREQ (R354, R333). -/
  stop   : Bool
  /-- Units performed after the line arrived, and the stroke at its arrival (R355). -/
  skid   : Nat
  lineAt : Word
  /-- The OPP claim of an entry returned to unstarted: slot, index, and the operand block it read (R270, R289). -/
  claim  : Option (Fin 16 × Word × List Byte)
deriving DecidableEq, Repr

/-- A trap recorded and not yet taken (R351, R366): cause, engine, precise, entry number, TVAL. -/
structure TrapReq where
  cause : BitVec 8
  eng   : BitVec 3
  prec  : Bool
  seq   : Word
  val   : Word
deriving DecidableEq, Repr

/-- The construction-map acknowledgement of a context (R330). -/
inductive Ack where
  | acked | due (deadline : Word) | late
deriving DecidableEq, Repr

/-- Why a save was chosen (R290). -/
inductive SaveReason where
  | checkpoint | rot | reassign | map
deriving DecidableEq, Repr

/-- A leaf pinned by CTX.TVEC (R357): page base and size, physical base, attributes. -/
structure Pin where
  va    : VAddr
  lsize : Nat
  pa    : BitVec 52
  attr  : BitVec 10
deriving DecidableEq, Repr

/-- Who writes, for a watchpoint record: kind 1 precise store, 2 engine write, 3 atomic, 4 other agent; engine;
entry name; address of the store (R344). -/
structure Writer where
  kind : BitVec 8
  eng  : BitVec 8
  name : Word
  pc   : Word
deriving DecidableEq, Repr

/-- A hit on watchpoint `wp` whose record is still to be written (R343): the write, its home, the stroke value, who wrote, the
context whose CPE wrote, if one did, what is left before the record (beats of that entry, or cycles for an atomic), and the beats
performed since. `unit` is the address that the record gives (R435). -/
structure Hit where
  wp   : Nat
  unit : Nat
  pa   : Nat
  len  : Nat
  home : Home
  time : Word
  who  : Writer
  src  : Option (Fin 4)
  left : Nat
  skid : Nat
deriving DecidableEq, Repr

/-- A task context (R32, R171, R205, R356). -/
structure Ctx where
  pc     : VAddr
  phase  : Phase
  /-- The task it holds, by the model's number of the task. -/
  task   : Option Nat
  /-- The rows of s0 to s63 and p0 to p31; the rows of s0 and p0 are real rows (R174) that reads of s0 and p0 do not
  see (R5). -/
  s      : Vector Word 64
  p      : Vector Bool 32
  lid    : BitVec 16
  world  : Bool
  loops  : Vector HwLoop 2
  efl    : Word
  troot  : Word
  ndman  : BitVec 4
  fmtst  : BitVec 3
  mxc    : Vector Word 10
  accf   : BitVec 2
  /-- Shadow sets: the nest and the number of the entry that owns it (R223). -/
  shadow : Vector (Option (Vector Word 10 × Word)) 8
  wm     : Vector Word 8
  wmlim  : Vector VAddr 8
  wmbase : Vector VAddr 8
  kick   : BitVec 16
  tkpend : Word
  /-- TQ[src,dst] at 7·src + dst (R41). -/
  tq     : Vector (BitVec 4) 49
  q      : Vector EngQ 7
  v      : VecState
  tctl   : Word
  tvec   : Word
  thcode : Word
  thdata : Word
  trec   : Word
  tpc    : VAddr
  tcause : Word
  tval   : Word
  /-- The cause and TPC that the entry of the handler set, which a record of kind 1 gives (R363). -/
  cause0 : BitVec 8
  tpc0   : VAddr
  /-- The last fault of SEQ since the line rose: cause and TVAL (R355, R367). -/
  seqf   : Option (BitVec 8 × Word)
  tscr   : Vector Word 4
  /-- CTX.TSTAT (R356). -/
  tstat  : Word
  pins   : List Pin
  trap   : Option TrapReq
  /-- A TRAP event that a fault overtook at its boundary (R351, R358; entry 90). -/
  later  : Option TrapReq
  /-- The halt line of a partition of the context is high, and that of the launch's partition (R353). -/
  line   : Bool
  wide   : Bool
  /-- Pending accesses in program order (R110), and the number of the next. -/
  acc    : List Acc
  nextAcc : Nat
  /-- The number of the next access that leaves a queue (R110). -/
  nextOrd : Nat
  /-- Root ports that have been written since their last zero-length read, and that have one under way (R126). -/
  rootW  : BitVec 4
  zlr    : BitVec 4
  /-- Root ports written since the zero-length read that is under way was sent (R126). -/
  rootN  : BitVec 4
  /-- Issue cycles of the context (R52; entry 8), and the mode of the line at its PC (R51). -/
  issue  : Nat
  exposed : Bool
  /-- The mode of the line it last issued from; none at a creation, a trap, a TRET and a resume, which cross no line (R55;
  entry 91). -/
  prevMode : Option Bool
  /-- Its instruction waits until its exposed loads have landed (R49, R55; entry 8). -/
  landing : Bool
  /-- What the head of SEQ awaits, a flag of R337. -/
  wait   : Option Nat
  /-- Stroke from which the hang watchdog counts, and the stroke of the last heartbeat or first issue (R405). -/
  hbeat  : Word
  beat   : Option Word
  cbar   : Nat
  ack    : Ack
  ackver : Word
  mapval : Word
  /-- A context that stops for a save (R289) and its reason. -/
  saving : Option SaveReason
  /-- Stopped by DBG.STOPREQ (R333). -/
  halted : Bool
  /-- The PC that a stop of a data watchpoint records (R343). -/
  svpc   : Option VAddr
  /-- The next issue enters a loop-record phase, and its target is checked (R372). -/
  first  : Bool
  /-- The entry that a VWAIT has appended and now waits for (R240). -/
  vwait  : Option Word
  /-- Its launch is being aborted: it is stopped, and is scrubbed once its stores are performed (R354, R361). -/
  dying  : Bool
  /-- The address of an append whose watchpoint record is written and whose stop it awaited (R343): it is not checked again. -/
  passed : Option VAddr
  /-- What an ACKMAP that has not retired has read, and when VER first rose since (R330). -/
  ackrd  : Option (Word × Option Word)
  /-- The heads whose pointers form a cycle, each by its engine number and its entry or PC, and CORE.CYCLE from which they have
  stood unchanged (R404). -/
  dead   : Option (List (Nat × Word) × Word)
deriving DecidableEq, Repr

/-- What a table held before a CBLD replaced it, and that CBLD: the task it belongs to and its place in the task's order of
accesses and appends (R64). -/
structure CbPast where
  task : Option Nat
  ord  : Nat
  data : BitVec 256
  lid  : Option (BitVec 16)
deriving DecidableEq, Repr

/-- A codebook table and the launch that loaded it (R230), with its earlier contents, newest first, which entries appended
before a CBLD still read (R64). -/
structure Codebook where
  data : BitVec 256
  lid  : Option (BitVec 16)
  past : List CbPast
deriving DecidableEq, Repr

/-- A store of the core that an uncorrectable error may strike (R408, R411): a row of a bank, a comb slot, a codebook table; of
a context a scalar register, the predicates, a vector register's data, tag or scales, a mask, the token queues, the queue
registers of an engine. -/
inductive Store where
  | bank (i : BitVec 5) (row : Nat) | slot (i : BitVec 6) | codebook (t : Nat)
  | scalar (x : CtxId) (r : BitVec 6) | preds (x : CtxId)
  | vdata (x : CtxId) (r : BitVec 5) | vtag (x : CtxId) (r : BitVec 5) | vscale (x : CtxId) (r : BitVec 5)
  | mask (x : CtxId) (m : BitVec 3) | tokens (x : CtxId) | queue (x : CtxId) (e : Eng)
  | tree (i j : BitVec 6)
deriving DecidableEq, Repr

/-- A near-DRAM bank of the core's quarter (R97 to R99). -/
structure NdBank where
  holder : Option (Fin 4)
  row    : Option (BitVec 13)
  refrow : BitVec 13
  /-- Stroke values of the refresh interval's start, the last ACT, the last PRE, and the end of the last REF. -/
  refAt  : Word
  actAt  : Word
  preAt  : Word
  busy   : Word
deriving DecidableEq, Repr

/-- A TLB entry (R88): ASID, global, page base, log2 of its size, physical base, attribute bits of the leaf. -/
structure TlbEnt where
  asid   : BitVec 12
  global : Bool
  va     : VAddr
  lsize  : Nat
  pa     : BitVec 52
  attr   : BitVec 10
deriving DecidableEq, Repr

/-- Power gating of the core (R297). -/
inductive Gate where
  | on | gating | gated | waking
deriving DecidableEq, Repr

/-- The modelled compute core. -/
structure Core where
  /-- Its physical number (R15). -/
  phys   : BitVec 9
  ctx    : Vector Ctx 4
  /-- The context that issues (R33), and the one whose table run VXE executes (R241). -/
  cur    : CtxId
  /-- The context that issued last, and those whose instruction was found unable to issue in this cycle (R33). -/
  last   : CtxId
  tried  : List CtxId
  vx     : CtxId
  exp    : Option CtxId
  rot    : Vector CtxId 7
  /-- The context whose entry an engine executes, by engine number (R224, R241). -/
  busy   : Vector (Option CtxId) 7
  slots  : Vector Slot 64
  banks  : Vector Bank 32
  cbs    : Vector Codebook 8
  tlb    : List TlbEnt
  /-- The shared TLB of its cluster, as this core fills and uses it (R88; entry 10). -/
  stlb   : List TlbEnt
  /-- The WORLD bit of the entry whose accesses an engine is making (R180). -/
  asWorld : Option Bool
  /-- Code lines fetched: physical line address, content (R135). -/
  icache : List (BitVec 52 × BitVec 1024)
  nd     : Vector NdBank 4
  repair : Vector Word 16
  spareS : Vector Word 16
  spareV : Vector (BitVec 2048) 16
  srseed : Word
  bistst : Word
  scanst : Word
  scansig : Word
  cycle  : Word
  gate   : Gate
  gcnt   : BitVec 32
  /-- CORE.CYCLE at which GATING began (R297). -/
  gateAt : Word
  mailbox : Bool
  idle   : Nat
  /-- An uncorrectable error that the step now under way meets where it reads the store (R411; entry 95). -/
  flaw   : Option Store
  /-- Timing repeats of the window and consecutive windows over the limit (R414). -/
  repeats : Nat
  overs   : Nat
deriving DecidableEq, Repr

/-- A task state (R292). -/
inductive TaskState where
  | created | ready | running | draining | saving | suspended | halted
deriving DecidableEq, Repr

/-- An instance of a stage (R281, R292). -/
structure Task where
  id    : Nat
  lid   : BitVec 16
  stage : Nat
  num   : Nat
  state : TaskState
  prio  : BitVec 4
  /-- Its save area, which begins with its loop record (R281). -/
  area  : VAddr
  /-- s2 to s4 of a watch-created task (R307). -/
  trig  : Option (Word × Word × Word)
  /-- Logical core, once placed (while SUSPENDED, the one it left), and context while it holds one. -/
  core  : Option (BitVec 9)
  ctx   : Option CtxId
  /-- The core to which the stage scheduler gave it (R294). -/
  pin   : Option (BitVec 9)
  readyAt : Nat
  placedAt : Word
  /-- The save that falls due at the next YIELD (R285, R286, R294, R330), and the task that takes the context. -/
  chosen : Option SaveReason
  heir  : Option Nat
  /-- Map acknowledgement kept while SUSPENDED (R330). -/
  ackver : Word
  /-- CBARs executed (R121). -/
  cbar  : Nat
  /-- Plain loads discarded by a save, issued again at resume (R291). -/
  reissue : List Acc
  /-- What a save keeps beside the save area, and the slots and banks it holds (R290, R291). -/
  kept  : Option Ctx
  uslots : List Nat
  ubanks : List Nat
deriving DecidableEq, Repr

/-- An accepted launch (R279). -/
structure Launch where
  lid    : BitVec 16
  done   : VAddr
  group  : BitVec 16
  world  : Bool
  arg    : Word
  root   : Word
  stages : List VAddr
  prio   : Option (BitVec 4)
  trig   : Option (Word × Word × Word)
  /-- CAP_i of ring i, for i = 1 to NSTAGE - 1 (R293). -/
  caps   : List Word
  /-- The watch entry that created it: table, index. -/
  watch  : Option (Nat × Nat)
  aborted : Bool
  /-- Stage of each core the launch holds (R294): logical core, stage. -/
  cores  : List (BitVec 9 × Nat)
  next   : List Nat
  /-- Stroke value of its acceptance, and of the last stage decision of a cluster (R294). -/
  since  : Word
  moved  : List (Nat × Word)
deriving DecidableEq, Repr

/-- A packet in service at a consumer (R151, R206), or held by the launch service (R324). -/
structure Packet where
  cons  : Nat
  slot  : Nat
  index : Word
  world : Bool
  root  : Word
  bytes : List Byte
  prog  : Nat
  done  : Bool
  /-- Ports that have writes of it not yet performed (R207). -/
  posts : List Nat
  /-- The fault of its work, while its error post waits for its writes (R127, R396): cause and TVAL. -/
  err   : Option (BitVec 8 × Word)
  /-- The Speum engine it waits for or runs on, once chosen. -/
  spe   : Option (Fin 4)
deriving DecidableEq, Repr

/-- A watch entry that is not FREE (R300, R309). State codes: 1 ARMED, 2 PENDING, 3 DISABLED, 4 RUNAWAY. -/
structure Watch where
  tbl    : Nat
  idx    : Nat
  state  : BitVec 3
  pa     : BitVec 52
  lsize  : Nat
  prio   : BitVec 4
  group  : BitVec 16
  budget : BitVec 16
  period : BitVec 32
  ldesc  : Word
  world  : Bool
  root   : Word
  fires  : BitVec 32
  cnt    : BitVec 32
  bm     : Word
  due    : Word
  /-- Fires of the current period and its start. -/
  used   : Nat
  start  : Word
  /-- WDIS came while PENDING (R310). -/
  wdis   : Bool
  live   : Nat
deriving DecidableEq, Repr

/-- A waggle message in flight (R306). -/
structure Waggle where
  tbl   : Nat
  idx   : Nat
  cnt   : BitVec 32
  bm    : Word
  fires : BitVec 32
  due   : Word
  /-- The launch descriptor that the scheduler has read for it; empty before (R307). -/
  desc  : List Byte
deriving DecidableEq, Repr

/-- A row of a route table (R16): the primary and the alternate elevator of a destination, by column. -/
structure Route where
  primary   : BitVec 7
  alternate : BitVec 7
deriving DecidableEq, Repr

/-- The elevator of the neighbouring site of the same wall (R423). R423 does not say which of the two neighbours that is: the pairs
k and k xor 1 are the model's choice (entry 104). -/
def neighbour (k : BitVec 7) : BitVec 7 := k ^^^ 1

/-- A mask store (R266): the image G·M' as its nonzero CPLX-BF16 elements by index, log2 of the gain, world. -/
structure MaskStore where
  img   : List (Nat × BitVec 32)
  gain  : Int
  world : Bool
deriving DecidableEq, Repr

/-- State of a Speum engine (R274). -/
inductive SpeState where
  | idle | shot | mask | cal | meas
deriving DecidableEq, Repr

/-- A Speum engine (R266 to R274). -/
structure Spe where
  state  : SpeState
  rcal   : Vector Word 256
  ccal   : Vector Word 256
  dark   : Vector (BitVec 32) 256
  calg   : Word
  calt   : Word
  temp   : BitVec 16
  calst  : Word
  masks  : Vector MaskStore 8
  profile : List Byte
  packet : Option Packet
  /-- CALV so far and CALGEN at the start of the packet's shots. -/
  calv   : Bool
  calgen : BitVec 32
  /-- A measurement is due (R274). -/
  due    : Bool
deriving DecidableEq, Repr

/-- A scan of a core (R177). -/
structure Scan where
  core   : BitVec 9
  phys   : BitVec 9
  seed   : Word
  npat   : BitVec 32
  prio   : BitVec 4
  expsig : Word
  done   : VAddr
  root   : Word
  world  : Bool
  state  : BitVec 3
  /-- Stroke value at which RUN began. -/
  start  : Word
deriving DecidableEq, Repr

/-- A write held under a buffer-freedom contract (R131): number, physical address, bytes, stroke value, launch. -/
structure Contract where
  pa    : BitVec 52
  bytes : List Byte
  t     : Word
  lid   : BitVec 16
  world : Bool
  eng   : CtxId
  /-- Bytes that come from poisoned words (R409), and the writer's entry name (R344). -/
  bad   : List Bool
  name  : Word
deriving DecidableEq, Repr

/-- A 64-byte patch in progress (R425). -/
structure Patch where
  line  : BitVec 52
  err   : Bool
  pcnt  : Word
deriving DecidableEq, Repr

/-- What an outside party has been sent (R325, R326, R391): a read's completion or an error completion, an MSI-X
vector, a flit, or a write to a root-port or peer window. -/
inductive OutMsg where
  | readData (who : Agent) (pa : BitVec 52) (v : Word)
  | aborted (who : Agent) (pa : BitVec 52)
  | msix (v : BitVec 6)
  | sysIrq
  | busWrite (pa : BitVec 52) (v : Word) (lsize : Fin 4)
  | peerWrite (l : Fin 12) (pa : BitVec 52) (v : Word) (lsize : Fin 4)
  | zeroRead (i : Fin 4)
  | flits (l : Fin 12) (ord : Nat) (bytes : List Byte)
  | abortFlit (l : Fin 12)
deriving DecidableEq, Repr

/-- The package blocks. -/
structure Pkg where
  /-- PKG.STROKE (R130). -/
  stroke  : Word
  /-- Control registers whose value differs from reset, by offset in the region, ascending (R311). -/
  regs    : List (Nat × Word)
  launches : List Launch
  tasks   : List Task
  nextTask : Nat
  clock   : Nat
  /-- Cluster that placed the last task of a wide group (R283). -/
  lastCluster : Nat
  /-- The packet that the launch service holds (R324). -/
  submit  : Option Packet
  packets : List Packet
  /-- Rotation of each consumer, and the queues with a kind 7 record since their QCB write (R450). -/
  qrot    : List (Nat × Nat)
  qbad    : List (Nat × Nat)
  watch   : List Watch
  waggles : List Waggle
  /-- Output elements measured under a valid calibration and no clamp, and those of them beyond 2^−7 FS′ (R265; entry 13). -/
  shotSeen : Nat
  shotFar : Nat
  spe     : Vector Spe 4
  scans   : List Scan
  /-- Owner tags of tagged sections: 192·column + 48·q + section, LID, ascending (R92, R94). -/
  sectags : List (Nat × BitVec 16)
  contracts : List Contract
  /-- Poisoned 8-byte words, by address / 8, ascending (R409). -/
  poison  : List Nat
  /-- Those of them that an error of an L2 line poisoned (R408, R410). -/
  l2bad   : List Nat
  /-- Errors of the last second that count toward the removal of a unit, each with its stroke value (R427). -/
  errs    : List (MapChange × Word)
  /-- Failing vault rows: physical core of the allotment, and offset in it / 256 (R175, R427; entry 114). -/
  badRows : List (Nat × Nat)
  /-- Bits of BLKW in effect, where they differ from the register (R318). -/
  worldOld : List (WorldBlock × Bool)
  /-- Retired elevators (R423). -/
  retired : List (BitVec 7)
  /-- The route tables of the elevator routers: the row of each destination column (R16; entry 104). -/
  routes  : Vector Route 128
  /-- Consecutive quiet power windows (R25) and power hold (R26). -/
  quiet   : Nat
  hold    : Bool
  patch   : Option Patch
  /-- CBAR rendezvous completed, by launch and cluster (R121). -/
  cbarGen : List (BitVec 16 × Nat × Nat)
  /-- Chunks received and not yet consumed (R192), by link and number. -/
  rx      : List (Fin 12 × Nat × List Byte)
  /-- How many collectives have been issued on each link as LNEXT, and as LPREV (R191). -/
  colSent : Vector Nat 12
  colRecv : Vector Nat 12
  /-- Links on which an abort flit waits for the collective that it ends, which has not started here (R400). -/
  colAborts : List (Fin 12)
  out     : List OutMsg
  /-- Physical cores under removal: the schedulers place no task on them (R329). -/
  removing : List (BitVec 9)
  /-- Changes of the construction map that Mbailan has begun or is to make, one at a time (R329). -/
  changes : List MapChange
  /-- Scans that have ended their RUN and whose DONE is still to be posted (R177, R432). -/
  scanEnds : List Scan
  /-- Watchpoint hits whose records are still to be written, in the order of the hits (R343, R344). -/
  hits : List Hit
  /-- Step of R313 the boot has reached. -/
  boot    : Nat
  /-- Boot decision of each logical core (R437). -/
  decided : List (BitVec 9 × Bool)
  /-- Stroke value at which A(c) was submitted, by logical core (R437; entry 113). -/
  bootA   : List (BitVec 9 × Word)
  /-- Stops requested by STOPREQ (R333): launch under stop. -/
  stopLid : Option (BitVec 16)
deriving DecidableEq, Repr

/-- A step the model takes by itself when no outside step is due: one of the asynchronous steps of 95 on the modelled
core or a package block (entry 2). -/
inductive Auto where
  | perform (x : CtxId) | land (x : CtxId) | leave (x : CtxId) (load : Bool) | deliver (p : Fin 16)
  | start (x : CtxId) (e : Eng) | work (x : CtxId) (e : Eng) | complete (x : CtxId) (e : Eng)
  | trap (x : CtxId) | save (x : CtxId)
  | wake | watch | waggle | flaw (f : Store) | corrected (f : Store)
  | attest | change | scanPost
  | accept | placement | hub (n : Fin 16) | take (n : Fin 18)
  | completion | peer (l : Fin 12) (next : Bool) (n : Nat) (desc : List Byte)
deriving DecidableEq, Repr

/-- An item of the agenda: a step of the outside world or of another agent, or one the model takes by itself. -/
inductive Move where
  | event (i : Instr)
  | auto (a : Auto)
deriving DecidableEq, Repr

/-- The machine. -/
structure State where
  core   : Core
  pkg    : Pkg
  /-- Memory: bytes that differ from 0, addresses rising (R83; entry 3). -/
  mem    : List Host.Cell
  /-- What lands next (the model's own field; entry 2). -/
  agenda : List Move
  /-- The free-value counter (the model's own field; entry 5). -/
  tick   : Nat
deriving DecidableEq, Repr

/-! ### Reset -/

/-- A hardware loop level at reset (R163). -/
def HwLoop.reset : HwLoop := ⟨false, 0, 0, 0⟩

/-- A vector register at reset (R65, R66). -/
def VReg.reset : VReg := ⟨0, 0, 0x3F800000, 0⟩

/-- A table store at reset: LEN 1 and the micro-order VNOP (R233). -/
def Table.reset : Table := ⟨1, Vector.replicate 256 0, Vector.replicate 4 ⟨0, 0⟩⟩

/-- The generator state of lane `l` at creation of context `x` (R72). -/
def genInit (seed : BitVec 32) (x l : Nat) : BitVec 32 :=
  let v := seed + BitVec.ofNat 32 (0x9E3779B9 * l) + BitVec.ofNat 32 (0x85EBCA6B * x)
  if v = 0 then 1 else v

/-- The vector state of context `x` at its creation (R72, R232, R233); the values R233 leaves open are those of entry 6. -/
def VecState.create (seed : BitVec 32) (x : Nat) : VecState where
  regs := Vector.replicate 32 .reset
  masks := Vector.replicate 8 (BitVec.allOnes 64)
  gen := Vector.ofFn fun l => genInit seed x l.val
  tables := Vector.replicate 4 .reset
  rc := 0
  pr := 0
  loops := Vector.replicate 2 ⟨false, 0, 0, 0⟩
  dqbase := 0
  dqhead := 0
  dqtail := 0
  lent := Vector.replicate 4 false
  stops := []

/-- A queue at context creation (R36, R37). -/
def EngQ.reset : EngQ where
  qbase := 0
  qhead := 0
  qtail := 0
  qseq := 0
  qlast := 0
  pend := []
  run := none
  window := []
  chain := none
  forced := true
  stop := false
  skid := 0
  lineAt := 0
  claim := none

/-- A context at its creation (R65, R72, R171, R205, R345, R356). -/
def Ctx.create (seed : BitVec 32) (x : Nat) : Ctx where
  pc := 0
  phase := .pro
  task := none
  s := Vector.replicate 64 0
  p := Vector.replicate 32 false
  lid := 0
  world := false
  loops := Vector.replicate 2 .reset
  efl := 0
  troot := 0
  ndman := 0
  fmtst := 0
  mxc := Vector.replicate 10 0
  accf := 0
  shadow := Vector.replicate 8 none
  wm := Vector.replicate 8 0
  wmlim := Vector.replicate 8 0
  wmbase := Vector.replicate 8 0
  kick := 0
  tkpend := 0
  tq := Vector.replicate 49 0
  q := Vector.replicate 7 .reset
  v := VecState.create seed x
  tctl := 1
  tvec := 0
  thcode := 0
  thdata := 0
  trec := 0
  tpc := 0
  tcause := 0
  tval := 0
  cause0 := 0
  tpc0 := 0
  seqf := none
  tscr := Vector.replicate 4 0
  tstat := 0
  pins := []
  trap := none
  later := none
  line := false
  wide := false
  acc := []
  nextAcc := 0
  nextOrd := 0
  rootW := 0
  zlr := 0
  rootN := 0
  issue := 0
  exposed := false
  prevMode := none
  landing := false
  wait := none
  hbeat := 0
  beat := none
  cbar := 0
  ack := .acked
  ackver := 0
  mapval := 0
  saving := none
  halted := false
  svpc := none
  first := false
  vwait := none
  dying := false
  passed := none
  ackrd := none
  dead := none

/-- A comb slot at reset (R213; entries 7, 9). -/
def Slot.reset : Slot := ⟨0, 0, 0, 0x3F800000, 0, 0, 0, false, false, 0⟩

/-- An accumulator bank at reset (R217; entry 7). -/
def Bank.reset : Bank where
  rows := Vector.replicate 64 0
  tag := 0
  ts := 0x3F800000
  emit := false
  state := 0
  alc := 0
  own := Vector.replicate 2 0
  rel := Vector.replicate 2 false
  upto := 0

/-- The core at reset. -/
def Core.reset : Core where
  phys := 0
  ctx := Vector.ofFn fun x => Ctx.create 0x2545F491 x.val
  cur := 0
  last := 0
  tried := []
  vx := 0
  exp := none
  rot := Vector.replicate 7 0
  busy := Vector.replicate 7 none
  slots := Vector.replicate 64 .reset
  banks := Vector.replicate 32 .reset
  cbs := Vector.replicate 8 ⟨0, none, []⟩
  tlb := []
  stlb := []
  asWorld := none
  icache := []
  nd := Vector.replicate 4 ⟨none, none, 0, 0, 0, 0, 0⟩
  repair := Vector.replicate 16 0
  spareS := Vector.replicate 16 0
  spareV := Vector.replicate 16 0
  srseed := 0x2545F491
  bistst := 0
  scanst := 0
  scansig := 0
  cycle := 0
  gate := .on
  gcnt := 0
  gateAt := 0
  mailbox := false
  idle := 0
  flaw := none
  repeats := 0
  overs := 0

/-- A Speum engine at reset (R266, R267; entry 17). -/
def Spe.reset : Spe where
  state := .idle
  rcal := Vector.replicate 256 0x8000
  ccal := Vector.replicate 256 0x8000
  dark := Vector.replicate 256 0
  calg := 0
  calt := 0
  temp := 0
  calst := 0
  masks := Vector.replicate 8 ⟨[], 0, false⟩
  profile := []
  packet := none
  calv := false
  calgen := 0
  due := false

/-- The package at reset. -/
def Pkg.reset : Pkg where
  stroke := 0
  regs := []
  launches := []
  tasks := []
  nextTask := 0
  clock := 0
  lastCluster := 0
  submit := none
  packets := []
  qrot := []
  qbad := []
  watch := []
  waggles := []
  shotSeen := 0
  shotFar := 0
  spe := Vector.replicate 4 .reset
  scans := []
  sectags := []
  contracts := []
  poison := []
  l2bad := []
  errs := []
  badRows := []
  worldOld := []
  retired := []
  routes := Vector.ofFn fun k => ⟨BitVec.ofNat 7 k.val, neighbour (BitVec.ofNat 7 k.val)⟩
  quiet := 0
  hold := false
  patch := none
  cbarGen := []
  rx := []
  colSent := Vector.replicate 12 0
  colRecv := Vector.replicate 12 0
  colAborts := []
  out := []
  removing := []
  changes := []
  scanEnds := []
  hits := []
  boot := 1
  decided := []
  bootA := []
  stopLid := none

/-- The machine right after reset (R313: no compute core runs a task). -/
def State.reset : State := ⟨.reset, .reset, [], [], 0⟩

end Sys2Proof.Machine
end

