-- ==== Sys2Proof/Machine/Mem.lean ====
section
/-! DEFINITION. Memory and its map: bytes in one canonical list, the regions of R83, the control-register file of
R311 with its reset values, poison (R409), watch entries at the home (R302 to R305), data watchpoints (R342 to R344),
and the page-table walk (R85, R86, R389). -/
namespace Sys2Proof.Machine

open Bits

/-! ### Bytes -/

/-- The byte at `a`; an unlisted address reads 0 (entry 3). -/
def memGet : List Host.Cell → Nat → Byte
  | [], _ => 0
  | (b, v) :: m, a => if a = b then v else if a < b then 0 else memGet m a

/-- `m` with the byte at `a` set; writing 0 removes the entry. -/
def memSet : List Host.Cell → Nat → Byte → List Host.Cell
  | [], a, v => if v = 0 then [] else [(a, v)]
  | (b, w) :: m, a, v =>
    if a < b then (if v = 0 then (b, w) :: m else (a, v) :: (b, w) :: m)
    else if a = b then (if v = 0 then m else (a, v) :: m)
    else (b, w) :: memSet m a v

/-- The canonical form: addresses rise strictly and no entry is 0. -/
def memWf : List Host.Cell → Bool
  | [] => true
  | [(_, v)] => v != 0
  | (a, v) :: (b, w) :: m => v != 0 && decide (a < b) && memWf ((b, w) :: m)

/-- The `n` bytes from `a`. -/
def memRead (m : List Host.Cell) (a : Nat) : Nat → List Byte
  | 0 => []
  | n + 1 => memGet m a :: memRead m (a + 1) n

/-- Write `bs` from `a`. -/
def memWrite (m : List Host.Cell) (a : Nat) : List Byte → List Host.Cell
  | [] => m
  | b :: bs => memWrite (memSet m a b) (a + 1) bs

/-! ### Sparse lists keyed by a number -/

/-- The value at `k`. -/
def lookup {α : Type} (l : List (Nat × α)) (k : Nat) : Option α :=
  match l with
  | [] => none
  | (j, v) :: l => if j = k then some v else lookup l k

/-- `l` with `k` absent. -/
def remove {α : Type} (l : List (Nat × α)) (k : Nat) : List (Nat × α) :=
  l.filter fun e => e.1 != k

/-- `l`, ascending, with `k` holding `v`. -/
def insert {α : Type} (l : List (Nat × α)) (k : Nat) (v : α) : List (Nat × α) :=
  match l with
  | [] => [(k, v)]
  | (j, w) :: l => if k < j then (k, v) :: (j, w) :: l else if k = j then (k, v) :: l else (j, w) :: insert l k v

/-! ### The control-register file (R311) -/

/-- The reset value of the 8-byte control register word at offset `o` (R278, R304, R328, R412, R437; entries 15, 16). -/
def ctlReset (o : Nat) : Word :=
  if o / 0x100000 = 1 then
    let r := o % 0x100000
    if r = 0x008 then 200
    else if r = 0x010 then 512
    else if 0x020 ≤ r ∧ r < 0x060 then BitVec.ofNat 64 (0x10000 +
      (match (r - 0x20) / 8 with | 0 => 2000 | 1 => 1800 | 2 => 1600 | 3 => 1400 | 4 => 1200 | 5 => 1000 | 6 => 800 | _ => 600))
    else if 0x100 ≤ r ∧ r < 0x140 then BitVec.allOnes 64
    else if 0x200 ≤ r ∧ r < 0x600 then
      let c := (r - 0x200) / 2
      BitVec.ofNat 64 (0x8000 + c + (0x8000 + c + 1) * 2 ^ 16 + (0x8000 + c + 2) * 2 ^ 32 + (0x8000 + c + 3) * 2 ^ 48)
    else if 0x600 ≤ r ∧ r < 0xA00 then 0x7FFFF
    else if 0xA00 ≤ r ∧ r < 0xA80 then 0xFFFF0001
    else if 0xA80 ≤ r ∧ r < 0xAC0 then 0x3001
    else if 0xAC0 ≤ r ∧ r < 0xB20 then 1
    else if 0xB20 ≤ r ∧ r < 0xB40 then 1
    else 0
  else if o / 0x100000 = 2 then
    let r := o % 0x100000
    if r < 0x400 then 16 else if r = 0x400 then 10000 else if r = 0x408 then 20000 else if r = 0x410 then 2048 else 0
  else if o = 0x300000 then 500
  else if o = 0xF00000 then 1
  else if o = 0xF00008 then 1000
  else if o = 0xF00010 then 4096
  else if o = 0xF00108 then 0x1FF0000
  else if 0x3000000 ≤ o ∧ o < 0x3020000 ∧ o % 0x100 = 0 then 0x2545F491
  else 0

/-- The stored value of the register word at offset `o`. -/
def ctl (s : State) (o : Nat) : Word := (lookup s.pkg.regs o).getD (ctlReset o)

/-- Store a register word. -/
def setCtl (s : State) (o : Nat) (v : Word) : State :=
  { s with pkg := { s.pkg with regs := if v = ctlReset o then remove s.pkg.regs o else insert s.pkg.regs o v } }

/-! ### Offsets named by the spec -/

/-- PKG.RGN RBASE[i] and RLIM[i] (R319). -/
def oRgn (i : Nat) : Nat := 0x400 + 16 * i
/-- CMAP.VER (R328). -/
def oVer : Nat := 0x100000
/-- CMAP.COL[k] (R328). -/
def oCol (k : Nat) : Nat := 0x100600 + 8 * k
/-- CMAP.SPE[n] (R328). -/
def oSpe (n : Nat) : Nat := 0x100B20 + 8 * n
/-- CMAP.HBM[g] (R328). -/
def oHbm (g : Nat) : Nat := 0x100A80 + 8 * g
/-- SCHED.SPROOT (R311). -/
def oSpRoot : Nat := 0x200420
/-- SCHED.SPIMG (R311). -/
def oSpImg : Nat := 0x200418
/-- SQ.QCB[n,i] (R311). -/
def oQcb (n i : Nat) : Nat := 0x400000 + 0x10 * (16 * n + i)
/-- SQ.QROOT[n,i] (R311). -/
def oQroot (n i : Nat) : Nat := oQcb n i + 8
/-- LINK.ST[l] (R327). -/
def oLink (l : Nat) : Nat := 0x600000 + 8 * l
/-- DBG.DWP[w] (R332). -/
def oDwp (w : Nat) : Nat := 0x800100 + 16 * w
/-- FLOG.BASE (R362). -/
def oFlog : Nat := 0xE00000
/-- RAS.CNT[u] (R412). -/
def oCnt (u : Nat) : Nat := 0xF00040 + 8 * u

/-- The physical core of logical core `c`, when the map holds it (R328). -/
def lmap (s : State) (c : Nat) : Option (BitVec 9) :=
  let v := fld (ctl s (0x100200 + 8 * (c / 4))) (16 * (c % 4)) 16
  if bit v 15 then some (fld v 0 9) else none

/-- Logical cores 0 to 511 in ascending order. -/
def logicals : List (BitVec 9) := (List.range 512).map (BitVec.ofNat 9)

/-- The logical number of a physical core (R17). -/
def logicalOf (s : State) (p : BitVec 9) : Option (BitVec 9) :=
  logicals.find? fun c => lmap s c.toNat == some p

/-- The logical number of the modelled core; 0 when the map no longer holds it. -/
def lcore (s : State) : BitVec 9 := (logicalOf s s.core.phys).getD 0

/-! ### Regions (R83, R428) -/

/-- Where a physical address lies (R83). -/
inductive Region where
  | hbm (g : Nat) | vault (k : Nat) | ndram (k : Nat) | ctl | root (i : Nat) | peer | none
deriving DecidableEq, Repr

/-- Base of the control-register region (R83). -/
def ctlBase : Nat := 0x0F0000000000
/-- Base of the vault of column `k` (R83). -/
def vaultBase (k : Nat) : Nat := 0x010000000000 + k * 0x1000000
/-- Base of the near DRAM of column `k` (R83). -/
def ndBase (k : Nat) : Nat := 0x020000000000 + k * 0x10000000

/-- The row of R83 that holds a physical address; the aliases are decoded before, by the requesting core. -/
def rowOf (a : Nat) : Region :=
  if a < 0x8000000000 then
    if a % 0x1000000000 < 0xC00000000 then .hbm (a / 0x1000000000) else .none
  else if 0x010000000000 ≤ a ∧ a < 0x010080000000 then
    if a % 0x1000000 < 0xC00000 then .vault ((a - 0x010000000000) / 0x1000000) else .none
  else if 0x020000000000 ≤ a ∧ a < 0x020800000000 then .ndram ((a - 0x020000000000) / 0x10000000)
  else if ctlBase ≤ a ∧ a < 0x0F0010000000 then .ctl
  else if 0x4000000000000 ≤ a ∧ a < 0x8000000000000 then .root ((a - 0x4000000000000) / 0x1000000000000)
  else if 0x8000000000000 ≤ a ∧ a < 0x10000000000000 then .peer
  else .none

/-- The core's own column (R15). -/
def ownCol (s : State) : Nat := s.core.phys.toNat / 4
/-- The core's place in its column (R15). -/
def ownQ (s : State) : Nat := s.core.phys.toNat % 4

/-- A requesting core decodes VLOCAL and NLOCAL (R83). -/
def unalias (k : Nat) (a : Nat) : Nat :=
  if 0x018000000000 ≤ a ∧ a < 0x018000C00000 then vaultBase k + (a - 0x018000000000)
  else if 0x028000000000 ≤ a ∧ a < 0x028010000000 then ndBase k + (a - 0x028000000000)
  else a

/-- The near-DRAM bank number 0 to 15 of an offset within a column (R97). -/
def ndBankOf (off : Nat) : Nat := 4 * (off / 0x4000000 % 4) + off / 0x800 % 4

/-- The row that holds `a`, counting units that the construction map has removed as unmapped (R428). -/
def region (s : State) (a : Nat) : Region :=
  match rowOf a with
  | .hbm g => if bit (ctl s (oHbm g)) 0 then .hbm g else .none
  | .vault k => if bit (ctl s (oCol k)) 0 then .vault k else .none
  | .ndram k =>
    if bit (ctl s (oCol k)) 1 && bit (ctl s (oCol k)) (2 + ndBankOf (a % 0x10000000)) then .ndram k else .none
  | .peer =>
    let v := ctl s (0x600100 + 8 * ((a - 0x8000000000000) / 2 ^ 45))
    if bit v 4 && bit (ctl s (oLink (fldN v 0 4))) 0 then .peer else .none
  | r => r

/-- The world of a physical address: true when secure (R319). -/
def worldOf (s : State) (a : Nat) : Bool :=
  match (List.range 32).find? fun i =>
      let b := ctl s (oRgn i)
      bit b 0 && decide (fldN b 14 38 * 0x4000 ≤ a) && decide (a < fldN (ctl s (oRgn i + 8)) 14 38 * 0x4000) with
  | some i => bit (ctl s (oRgn i + 8)) 0
  | none =>
    match rowOf a with
    | .vault k | .ndram k => bit (ctl s (0x258 + 8 * (k / 64))) (k % 64)
    | _ => false

/-! ### Time -/

/-- The stroke value (R130). -/
def now (s : State) : Word := s.pkg.stroke

/-- Core clock in MHz (R25, R328). -/
def clockMhz (s : State) : Nat := fldN (ctl s (0x100020 + 8 * fldN (ctl s 0x100018) 0 3)) 0 16

/-! ### Bytes of the machine -/

/-- Bytes at a physical address. -/
def bytesAt (s : State) (a n : Nat) : List Byte := memRead s.mem a n

/-- The little-endian number at a physical address (R1). -/
def numAt (s : State) (a n : Nat) : Nat := ofBytes (bytesAt s a n)

/-- The 64-bit word at a physical address. -/
def wordAt (s : State) (a : Nat) : Word := BitVec.ofNat 64 (numAt s a 8)

/-- Aligned 8-byte units that the range touches. -/
def unitsOf (a n : Nat) : List Nat := if n = 0 then [] else (List.range ((a + n - 1) / 8 - a / 8 + 1)).map (· + a / 8)

/-- Whether the range holds a poisoned word (R409). -/
def poisoned (s : State) (a n : Nat) : Bool := (unitsOf a n).any fun u => s.pkg.poison.contains u

/-- The first poisoned word of the range. -/
def poisonAt (s : State) (a n : Nat) : Option Nat := (unitsOf a n).find? fun u => s.pkg.poison.contains u

/-! ### Watch entries at the home (R302 to R305) -/

/-- The granule bits of the bytes changed at `a` for `w` (R303): an access lies within one 8-byte unit. -/
def granule (w : Watch) (a : Nat) : Word :=
  let g := 2 ^ (w.lsize - 6)
  1#64 <<< ((a - w.pa.toNat) / 64 / ((g + 63) / 64))

/-- WATCH.COAL.NS (R304). -/
def coalNs (s : State) : Nat := fldN (ctl s 0x300000) 0 16

/-- The budget period that a fire at stroke value `t` falls in has begun (R306). -/
def Watch.periodAt (w : Watch) (t : Word) : Watch :=
  let p := 1000 * w.period.toNat
  let n := (t - w.start).toNat / p
  if p = 0 ∨ n = 0 then w else { w with start := w.start + BitVec.ofNat 64 (n * p), used := 0 }

/-- A fire at D (R306, R310): the waggle message and the entry ARMED, or DISABLED after a WDIS; beyond the budget the entry
is RUNAWAY, and the message, whose CNT is 0, only tells Mbailan so. -/
def Watch.fire (w : Watch) : Watch × Waggle :=
  let w := w.periodAt w.due
  if w.budget ≠ 0 ∧ w.budget.toNat ≤ w.used then
    ({ w with state := 4, wdis := false }, ⟨w.tbl, w.idx, 0, 0, w.fires, w.due, []⟩)
  else
    ({ w with state := if w.wdis then 3 else 1, wdis := false, fires := w.fires + 1, used := w.used + 1, live := w.live + 1 },
      ⟨w.tbl, w.idx, w.cnt, w.bm, w.fires + 1, w.due, []⟩)

/-- The window of `w` has reached its deadline. -/
def watchDue (s : State) (w : Watch) : Bool := w.state == 2 && decide (w.due.toNat ≤ (now s).toNat)

/-- The windows of a package that have reached their deadline fire (R305). -/
def Pkg.fireDue (p : Pkg) : Pkg :=
  let due (w : Watch) : Bool := w.state == 2 && decide (w.due.toNat ≤ p.stroke.toNat)
  if p.watch.any due then
    { p with watch := p.watch.map fun w => if due w then w.fire.1 else w
             waggles := p.waggles ++ (p.watch.filter due).map fun w => w.fire.2 }
  else p

/-- Entries whose deadline has come fire before an access advances any (R305). -/
def fireDue (s : State) (e : List Watch × List Waggle) : List Watch × List Waggle :=
  (e.1.map fun w => if watchDue s w then w.fire.1 else w, e.2 ++ (e.1.filter (watchDue s)).map fun w => w.fire.2)

/-- A changing access at address `a` advances `w` (R305, R310). -/
def watchChange (s : State) (a : Nat) (w : Watch) : Watch :=
  if a < w.pa.toNat ∨ w.pa.toNat + 2 ^ w.lsize ≤ a then w
  else if w.state = 1 then
    { w with state := 2, cnt := 1, bm := granule w a, due := now s + BitVec.ofNat 64 (coalNs s) }
  else if w.state = 2 ∧ w.wdis = false then
    { w with cnt := if w.cnt = BitVec.allOnes 32 then w.cnt else w.cnt + 1, bm := w.bm ||| granule w a }
  else w

/-- The bytes of the 8-byte unit `u` that a write of `bs` at `a` changes. -/
def unitChanges (s : State) (a : Nat) (bs : List Byte) (u : Nat) : Bool :=
  (List.range bs.length).any fun i => (a + i) / 8 == u && memGet s.mem (a + i) != bs.getD i 0

/-- Every watch entry sees the changing units of a write (R301, R302, R305). -/
def watchAll (s : State) (a : Nat) (bs : List Byte) : List Watch × List Waggle :=
  (unitsOf a bs.length).foldl
    (fun e u => if unitChanges s a bs u then
        let e := fireDue s e
        (e.1.map (watchChange s (max a (8 * u))), e.2)
      else e) (s.pkg.watch, s.pkg.waggles)

/-- Poison after a write: a unit that the write covers whole is clean, every other stays as it was (R409). -/
def clearPoison (p : List Nat) (a n : Nat) : List Nat := p.filter fun u => !(decide (a ≤ 8 * u) && decide (8 * u + 8 ≤ a + n))

/-- Perform a write of `bs` at a physical address of memory: bytes, poison and watch entries (R107, R302, R409). -/
def rawStore (s : State) (a : Nat) (bs : List Byte) : State :=
  let ws := watchAll s a bs
  { s with mem := memWrite s.mem a bs
           pkg := { s.pkg with watch := ws.1, waggles := ws.2, poison := clearPoison s.pkg.poison a bs.length
                               l2bad := clearPoison s.pkg.l2bad a bs.length } }

/-- Store a 64-bit word at a physical address. -/
def storeWord (s : State) (a : Nat) (v : Word) : State := rawStore s a (toBytes v 8)

/-- Mark the words of a range poisoned (R409). -/
def addPoison (s : State) (a n : Nat) : State :=
  { s with pkg := { s.pkg with poison := (unitsOf a n).foldl (fun p u => if p.contains u then p else u :: p) s.pkg.poison } }

/-! ### Homes (R106) -/

/-- The block of a control-register offset (R311). -/
def blockOf (o : Nat) : Nat :=
  if o < 0x1000000 then (if 0x800000 ≤ o ∧ o < 0xE00000 then 8 else o / 0x100000)
  else if o < 0x2000000 then 0x100 + (o - 0x1000000) / 0x10000
  else if o < 0x3000000 then 0x1000 + (o - 0x2000000) / 0x1000
  else 0x10000 + (o - 0x3000000) / 0x100

/-- The home of a physical address of one device (R100, R106). -/
def deviceHome (a : Nat) : Home :=
  match rowOf a with
  | .hbm g => .slice (2 * g + a / 128 % 2)
  | .vault k | .ndram k => .vault k
  | .ctl => .block (blockOf (a - ctlBase))
  | .root i => .root i
  | .peer | .none => .none

/-- The link and the peer's physical address of an address of the peer window (R327). -/
def peerTarget (s : State) (a : Nat) : Fin 12 × Nat :=
  let v := ctl s (0x600100 + 8 * ((a - 0x8000000000000) / 2 ^ 45))
  (Fin.ofNat 12 (fldN v 0 4), fldN v 45 7 * 2 ^ 45 + (a - 0x8000000000000) % 2 ^ 45)

/-- The home of a physical address (R106). -/
def homeOf (s : State) (a : Nat) : Home :=
  match rowOf a with
  | .peer => .peer (peerTarget s a).1.val (deviceHome (peerTarget s a).2)
  | _ => deviceHome a

/-- A free word: the counter advances with each step (entry 5). -/
def freeWord (s : State) (i : Nat) : Word := Config.word s.tick i

/-! ### Data watchpoints (R342 to R344) -/

/-- The mask of the bytes [a, a + n) within the 64-byte line of `a`. -/
def lineMask (a n : Nat) : Word :=
  BitVec.ofNat 64 ((2 ^ n - 1) * 2 ^ (a % 64))

/-- Cut a write of `n` bytes at `a` where 64-byte lines end. -/
def lineCuts : Nat → Nat → Nat → List (Nat × Nat)
  | 0, _, _ => []
  | k + 1, a, n => if n = 0 then [] else let m := min n (64 - a % 64); (a, m) :: lineCuts k (a + m) (n - m)

/-- Cut `n` bytes at `a` where aligned 8-byte units end. -/
def wordCuts : Nat → Nat → Nat → List (Nat × Nat)
  | 0, _, _ => []
  | k + 1, a, n => if n = 0 then [] else let m := min n (8 - a % 8); (a, m) :: wordCuts k (a + m) (n - m)

/-- The aligned 8-byte units of `n` bytes at `a`, with the bytes of each. -/
def wordParts (a n : Nat) : List (Nat × Nat) := wordCuts (n / 8 + 2) a n

/-- The lines that a write of `n` bytes at `a` reaches, with its bytes in each. -/
def lineParts (a n : Nat) : List (Nat × Nat) := lineCuts (n / 64 + 2) a n

/-- The watchpoints that a write of `n` bytes at `a`, within one line, hits (R342). -/
def dwHits (s : State) (a n : Nat) (atomic : Bool) : List Nat :=
  (List.range 16).filter fun w =>
    let d := ctl s (oDwp w)
    bit d (if atomic then 1 else 0) && fldN d 6 46 * 64 == a / 64 * 64 && (ctl s (oDwp w + 8) &&& lineMask a n) != 0

/-- Every hit of a write, line by line, in ascending watchpoints: the bytes in the line, and the watchpoint (R344). -/
def dwAll (s : State) (a n : Nat) (atomic : Bool) : List ((Nat × Nat) × Nat) :=
  (lineParts a n).flatMap fun p => (dwHits s p.1 p.2 atomic).map fun w => (p, w)

/-- Write the record of a hit of `w` at stroke value `t`, after `skid` further beats, with the address `u`, and increment DWIDX
(R344, R435). -/
def dwRecordAt (s : State) (u a n : Nat) (who : Writer) (skid : Nat) (t : Word) (w : Nat) : State :=
  let idx := ctl s 0x800200
  let base := 0x800400 + 64 * (idx.toNat % 16)
  let r0 : Word := who.kind.setWidth 64 ||| (BitVec.ofNat 64 w <<< 8) ||| (who.eng.setWidth 64 <<< 16) ||| BitVec.ofNat 64 (skid * 2 ^ 24)
  let s := setCtl s base r0
  let s := setCtl s (base + 8) who.name
  let s := setCtl s (base + 16) (if who.kind = 1 then who.pc else 0)
  let s := setCtl s (base + 24) (BitVec.ofNat 64 u)
  let s := setCtl s (base + 32) (ctl s (oDwp w + 8) &&& lineMask a n)
  let s := setCtl s (base + 40) t
  let s := setCtl (setCtl s (base + 48) 0) (base + 56) 0
  setCtl s 0x800200 (idx + 1)

/-- The record of a hit with the address of the bytes written. -/
def dwRecord (s : State) (a n : Nat) (who : Writer) (skid : Nat) (t : Word) (w : Nat) : State := dwRecordAt s a a n who skid t w

/-- The record of a hit is written. -/
def recordHit (s : State) (h : Hit) : State := dwRecordAt s h.unit h.pa h.len h.who h.skid h.time h.wp

/-- Each hit of a list is recorded that is due, or that comes at its home before one that is due (R344). -/
def dueHits : List Hit → List Hit × List Hit
  | [] => ([], [])
  | h :: l =>
    let r := dueHits l
    if h.left = 0 || l.any fun j => j.home == h.home && j.left == 0 then (h :: r.1, r.2) else (r.1, h :: r.2)

/-- The records that are due are written (R343, R344). -/
def settleHits (s : State) : State :=
  let r := dueHits s.pkg.hits
  r.1.foldl recordHit { s with pkg := { s.pkg with hits := r.2 } }

/-- Further hits, and what is left before their records. -/
def addHits (s : State) (l : List Hit) : State :=
  if l.isEmpty then s else settleHits { s with pkg := { s.pkg with hits := s.pkg.hits ++ l } }

/-- The hits of a write, of which `left` is left before the record of each; with an address for the record, that of each line's
bytes where none is given. -/
def newHits (s : State) (u : Option Nat) (a n : Nat) (who : Writer) (src : Option (Fin 4)) (atomic : Bool) (left : Nat → Nat) : List Hit :=
  (dwAll s a n atomic).map fun h => ⟨h.2, u.getD h.1.1, h.1.1, h.1.2, homeOf s h.1.1, now s, who, src, left h.2, 0⟩

/-- Every hit of a write is recorded (R343): that of an atomic within 64 cycles, as a free word says, a precise store's before
the store leaves its queue, any other at once. -/
def dwNote (s : State) (a n : Nat) (who : Writer) (atomic : Bool) : State :=
  if who.kind = 1 then (dwAll s a n atomic).foldl (fun s h => dwRecord s h.1.1 h.1.2 who 0 (now s) h.2) s
  else addHits s (newHits s none a n who none atomic fun w => if atomic then fldN (freeWord s (0x210 + w)) 0 7 % 65 else 0)

/-- Check a write at its home against the watchpoints and record each hit (R343). -/
def dwCheck (s : State) (a n : Nat) (who : Writer) : State := dwNote s a n who (who.kind == 3)

/-- Some watchpoint is armed for writes that are no atomics (R342). -/
def dwArmed (s : State) : Bool := (List.range 16).any fun w => bit (ctl s (oDwp w)) 0

/-- A write by a device agent: the writer of a watchpoint record (R344). -/
def deviceWriter : Writer := ⟨4, 0xF, 0, 0⟩

/-! ### Translation (R85 to R87, R389) -/

/-- A fault: cause code and TVAL (R352). -/
structure Flt where
  cause : BitVec 8
  val   : Word
deriving DecidableEq, Repr

/-- A translated address: physical address and the leaf's attribute bits [9:0] (R86). -/
structure Tr where
  pa    : BitVec 52
  lsize : Nat
  attr  : BitVec 10
deriving DecidableEq, Repr

/-- The WORLD bit of the leaf (R86). -/
def Tr.world (t : Tr) : Bool := bit t.attr 6
/-- Device memory (R113). -/
def Tr.device (t : Tr) : Bool := fld t.attr 7 2 == 2

/-- TVAL of an access cause: address and kind (R390). -/
def accVal (kind : Nat) (va : VAddr) : Word := (BitVec.ofNat 8 kind) ++ va

/-- An access fault of kind 1 load, 2 store, 3 atomic, 4 fetch, 5 engine read, 6 engine write, 7 walk. -/
def accFlt (cause : BitVec 8) (kind : Nat) (va : VAddr) : Flt := ⟨cause, accVal kind va⟩

/-- A table address lies in the HBM4E storage of a live stack (R86). -/
def inHbm (s : State) (a : Nat) : Bool := match region s a with | .hbm _ => true | _ => false

/-- A page lies inside one row of R83, and a vault page inside one 3 MiB allotment (R86); VLOCAL and NLOCAL pages
likewise. -/
def pageOk (a n : Nat) : Bool :=
  if rowOf a = .none then
    if 0x018000000000 ≤ a ∧ a < 0x018000C00000 then
      decide (a + n ≤ 0x018000C00000) && (a - 0x018000000000) / 0x300000 == (a + n - 1 - 0x018000000000) / 0x300000
    else if 0x028000000000 ≤ a ∧ a < 0x028010000000 then decide (a + n ≤ 0x028010000000)
    else rowOf (a + n - 1) == .none && !(decide (a < 0x018000000000) && decide (0x018000000000 < a + n))
  else rowOf a == rowOf (a + n - 1) &&
    (match rowOf a with
     | .vault k => (a - vaultBase k) / 0x300000 == (a + n - 1 - vaultBase k) / 0x300000
     | _ => true)

/-- A table entry has a nonzero reserved bit, for a target aligned to `2 ^ al` (R86). -/
def entryBad (e : Word) (al : Nat) : Bool :=
  fld e 52 12 != 0 || bit e 9 || fld e 10 42 &&& (BitVec.ofNat 42 (2 ^ (al - 10) - 1)) != 0

/-- One level of the walk: levels below, table address, index low bit and width, log2 of a leaf's size (0: no leaf
here), log2 of the size of the next table. -/
structure Level where
  lo   : Nat
  wid  : Nat
  leaf : Option Nat
  next : Option Nat
deriving DecidableEq, Repr

/-- The four levels L3 to L0 (R85). -/
def levels : List Level :=
  [⟨43, 13, none, some 16⟩, ⟨30, 13, some 30, some 12⟩, ⟨21, 9, some 21, some 10⟩, ⟨14, 7, some 14, none⟩]

/-- Walk from table `t` (R85, R86): the leaf, or a walk fault. -/
def walkFrom (s : State) (secure : Bool) (va : VAddr) (t : Nat) : List Level → Except Flt Tr
  | [] => .error (accFlt 0x11 7 va)
  | l :: ls =>
    if !inHbm s t then .error (accFlt 0x11 7 va)
    else
      let a := t + 8 * fldN va l.lo l.wid
      if !secure && worldOf s a then .error (accFlt 0x13 7 va)
      else
        let e := wordAt s a
        if !bit e 0 then .error (accFlt 0x11 7 va)
        else if bit e 1 then
          match l.next with
          | none => .error (accFlt 0x11 7 va)
          | some al => if entryBad e al then .error (accFlt 0x11 7 va)
                       else walkFrom s secure va (fldN e 10 42 * 1024) ls
        else
          match l.leaf with
          | none => .error (accFlt 0x11 7 va)
          | some sz =>
            if entryBad e sz || fld e 7 2 == 3 || !pageOk (fldN e 10 42 * 1024) (2 ^ sz) then .error (accFlt 0x11 7 va)
            else .ok ⟨BitVec.ofNat 52 (fldN e 10 42 * 1024 + va.toNat % 2 ^ sz), sz, fld e 0 10⟩

/-- Walk from a translation root in the layout of R87. -/
def walk (s : State) (root : Word) (secure : Bool) (kind : Nat) (va : VAddr) : Except Flt Tr :=
  if !bit root 0 then .error (accFlt 0x11 kind va)
  else walkFrom s secure va (fldN root 16 36 * 0x10000) levels

/-- The permission that an access kind needs (R389). -/
def permOk (kind : Nat) (attr : BitVec 10) : Bool :=
  bit attr (match kind with | 1 | 5 => 2 | 4 => 4 | 7 => 2 | _ => 3)

/-- The checks after the walk, in the order of R389: PERM, WORLD, UNMAP. `secure` is the agent's world, `acc` that of the access
(R317): a non-secure agent uses no page with WORLD = 1, and a non-secure access reaches only non-secure addresses (R319). -/
def checkTr (s : State) (secure acc : Bool) (kind : Nat) (va : VAddr) (t : Tr) : Except Flt Tr :=
  if !permOk kind t.attr then .error (accFlt 0x12 kind va)
  else if t.world && !secure then .error (accFlt 0x13 kind va)
  else if !acc && worldOf s t.pa.toNat then .error (accFlt 0x13 kind va)
  else if region s t.pa.toNat = .none then .error (accFlt 0x14 kind va)
  else .ok t

/-! ### Near DRAM (R97 to R99, R393) -/

/-- Bank of the core's own quarter that an address lies in, and its row (R97). -/
def ownNd (s : State) (a : Nat) : Option (Nat × BitVec 13) :=
  match rowOf a with
  | .ndram k =>
    let off := a - ndBase k
    if k = ownCol s ∧ off / 0x4000000 = ownQ s then some (off / 0x800 % 4, BitVec.ofNat 13 (off / 0x2000)) else none
  | _ => none

/-- The near-DRAM bank `i` of the quarter. -/
def ndBank (s : State) (i : Nat) : NdBank := s.core.nd.toList.getD i ⟨none, none, 0, 0, 0, 0, 0⟩

/-- TVAL of NDRAM and REFRESH (R390). -/
def ndVal (sub bank : Nat) (row : BitVec 13) (overdue : Nat) : Word :=
  BitVec.ofNat 35 overdue ++ row ++ 0#4 ++ BitVec.ofNat 4 bank ++ BitVec.ofNat 8 sub

/-- An access to a manual bank needs its row open (R393, subcode 4). -/
def ndRefused (s : State) (a : Nat) : Option Flt :=
  match ownNd s a with
  | none => none
  | some (i, row) =>
    let b := ndBank s i
    if b.holder.isSome && b.row != some row then some ⟨0x15, ndVal 4 i row 0⟩ else none

/-- A near-DRAM access is held until 12 ns after the ACT, and while the bank is busy (R99). -/
def ndHold (s : State) (a : Nat) : Bool :=
  match ownNd s a with
  | none => false
  | some (i, _) =>
    let b := ndBank s i
    b.holder.isSome && (decide ((now s).toNat < b.actAt.toNat + 12) || decide ((now s).toNat < b.busy.toNat))

/-- The unit is held (R99): no cause; it is made again later. -/
def heldFlt : Flt := ⟨0xFF, 0⟩

/-- Translate for an agent with a root of its own, without the aliases (R206, R324, R326): physical address or fault, with the
closed rows of manual near-DRAM banks (R389, R391). Its accesses have the world it acts for (R317). -/
def xlateRoot (s : State) (root : Word) (world : Bool) (kind : Nat) (va : VAddr) : Except Flt Tr :=
  match walk s root world kind va with
  | .error f => .error f
  | .ok t => match checkTr s world world kind va t with
    | .error f => .error f
    | .ok t => match ndRefused s t.pa.toNat with | some f => .error f | none => .ok t

/-- Translate a unit of a copy hub or of a queue's consumer, which is held while its near-DRAM bank is (R99). -/
def xlateUnit (s : State) (root : Word) (world : Bool) (kind : Nat) (va : VAddr) : Except Flt Tr :=
  match xlateRoot s root world kind va with
  | .error f => .error f
  | .ok t => if ndHold s t.pa.toNat then .error heldFlt else .ok t

end Sys2Proof.Machine
end

