-- ==== Sys2Proof/Machine/Base.lean ====
section
/-! DEFINITION. Named operations over contexts, registers and queues: register access (R5), the sequencer's translation and
TLB (R87 to R89, R357), sections and their owners (R94, R95), comb and bank state changes (R214, R216), watchpoint records of
the CPE (R343), and the return of a waiting entry to unstarted (R289). -/
namespace Sys2Proof.Machine

open Bits

/-! ### Contexts and registers -/

/-- Context `x`. -/
def State.cx (s : State) (x : CtxId) : Ctx := s.core.ctx.get x

/-- `s` with context `x` replaced. -/
def State.setCx (s : State) (x : CtxId) (c : Ctx) : State :=
  { s with core := { s.core with ctx := s.core.ctx.set x.val c } }

/-- `s` with context `x` changed by `f`. -/
def State.modCx (s : State) (x : CtxId) (f : Ctx → Ctx) : State := s.setCx x (f (s.cx x))

/-- `s` with the core changed by `f`. -/
def State.modCore (s : State) (f : Core → Core) : State := { s with core := f s.core }

/-- `s` with the package changed by `f`. -/
def State.modPkg (s : State) (f : Pkg → Pkg) : State := { s with pkg := f s.pkg }

/-- Register sr of context `x`; s0 reads zero (R5). -/
def Ctx.reg (c : Ctx) (r : BitVec 6) : Word := if r = 0 then 0 else c.s[r.toNat]'r.isLt

/-- Write sr; a write of s0 has no effect (R5). -/
def Ctx.setReg (c : Ctx) (r : BitVec 6) (v : Word) : Ctx :=
  if r = 0 then c else { c with s := c.s.set r.toNat v r.isLt }

/-- Predicate pr; p0 reads true (R5). -/
def Ctx.pred (c : Ctx) (r : BitVec 5) : Bool := if r = 0 then true else c.p[r.toNat]'r.isLt

/-- Write pr; a write of p0 has no effect (R5). -/
def Ctx.setPred (c : Ctx) (r : BitVec 5) (v : Bool) : Ctx :=
  if r = 0 then c else { c with p := c.p.set r.toNat v r.isLt }

/-- Register sr of the context that issues. -/
def State.reg (s : State) (r : BitVec 6) : Word := (s.cx s.core.cur).reg r

/-- Write sr of the context that issues. -/
def State.setReg (s : State) (r : BitVec 6) (v : Word) : State := s.modCx s.core.cur (·.setReg r v)

/-- Predicate pr of the context that issues. -/
def State.pred (s : State) (r : BitVec 5) : Bool := (s.cx s.core.cur).pred r

/-- Write pr of the context that issues. -/
def State.setPred (s : State) (r : BitVec 5) (v : Bool) : State := s.modCx s.core.cur (·.setPred r v)

/-- The number of an engine (R34). -/
def engNum : Eng → Nat
  | .seq => 0 | .mxe => 1 | .vxe => 2 | .cpe => 3 | .gxe => 4 | .opp => 5 | .clp => 6

/-- The engines 1 to 6. -/
def engines : List Eng := [.mxe, .vxe, .cpe, .gxe, .opp, .clp]

/-- The contexts. -/
def ctxs : List CtxId := [0, 1, 2, 3]

/-- The queue of engine `e` for a context. -/
def Ctx.eq (c : Ctx) (e : Eng) : EngQ :=
  match e with
  | .seq => c.q[0] | .mxe => c.q[1] | .vxe => c.q[2] | .cpe => c.q[3] | .gxe => c.q[4] | .opp => c.q[5] | .clp => c.q[6]

/-- Replace the queue of engine `e`. -/
def Ctx.setEq (c : Ctx) (e : Eng) (q : EngQ) : Ctx :=
  match e with
  | .seq => { c with q := c.q.set 0 q } | .mxe => { c with q := c.q.set 1 q } | .vxe => { c with q := c.q.set 2 q }
  | .cpe => { c with q := c.q.set 3 q } | .gxe => { c with q := c.q.set 4 q } | .opp => { c with q := c.q.set 5 q }
  | .clp => { c with q := c.q.set 6 q }

/-- The queue of engine `e` for context `x`. -/
def State.eq (s : State) (x : CtxId) (e : Eng) : EngQ := (s.cx x).eq e

/-- Replace it. -/
def State.setEq (s : State) (x : CtxId) (e : Eng) (q : EngQ) : State := s.modCx x (·.setEq e q)

/-- Change it by `f`. -/
def State.modEq (s : State) (x : CtxId) (e : Eng) (f : EngQ → EngQ) : State := s.setEq x e (f (s.eq x e))

/-- The token queue TQ[src,dst] (R41). -/
def Ctx.tokens (c : Ctx) (src dst : Nat) : Nat := (c.tq.toList.getD (7 * src + dst) 0).toNat

/-- Set TQ[src,dst]. -/
def Ctx.setTokens (c : Ctx) (src dst n : Nat) : Ctx :=
  { c with tq := c.tq.setIfInBounds (7 * src + dst) (BitVec.ofNat 4 n) }

/-- A 64-bit address register read as a 56-bit virtual address (R22, R164). -/
def va56 (w : Word) : VAddr := w.setWidth 56

/-! ### Slots and places of instructions (R134, R138) -/

/-- The slot number of an instruction address: 30 to a 128-byte line (R134). -/
def slotOf (pc : VAddr) : Nat := 30 * (pc.toNat / 128) + (pc.toNat % 128 - 8) / 4

/-- The address of a slot number, modulo the address space. -/
def slotAddr (n : Nat) : VAddr := BitVec.ofNat 56 (n / 30 * 128 + 8 + 4 * (n % 30))

/-- Number of slots in the 56-bit address space. -/
def slotsTotal : Nat := 30 * 2 ^ 49

/-- The address `k` slots after `pc` (R134, R138). -/
def slotAdd (pc : VAddr) (k : Int) : VAddr := slotAddr (((slotOf pc : Int) + k) % (slotsTotal : Int)).toNat

/-! ### TSTAT bits (R356) -/

/-- TSTAT.INH: the context runs its handler. -/
def Ctx.inh (c : Ctx) : Bool := bit c.tstat 0
/-- TSTAT.INST: a handler is installed. -/
def Ctx.inst (c : Ctx) : Bool := bit c.tstat 1
/-- TSTAT.HELD: stopped by another context's fault. -/
def Ctx.isHeld (c : Ctx) : Bool := bit c.tstat 3
/-- Set bit `i` of TSTAT to `b`. -/
def Ctx.setStat (c : Ctx) (i : Nat) (b : Bool) : Ctx := { c with tstat := setFld c.tstat i (b1 b) }

/-! ### Translation by the sequencer and its engines (R87 to R89, R357) -/

/-- The entry covers `va` for an ASID. -/
def TlbEnt.covers (t : TlbEnt) (asid : BitVec 12) (va : VAddr) : Bool :=
  (t.global || t.asid == asid) && va.toNat / 2 ^ t.lsize == t.va.toNat / 2 ^ t.lsize

/-- The entry that translates `va` for an ASID: of the core's TLB, or of the shared one behind it (R88). -/
def tlbFind (s : State) (asid : BitVec 12) (va : VAddr) : Option TlbEnt :=
  (s.core.tlb.find? (·.covers asid va)).or (s.core.stlb.find? (·.covers asid va))

/-- The physical address that a TLB entry gives. -/
def TlbEnt.tr (t : TlbEnt) (va : VAddr) : Tr := ⟨t.pa + BitVec.ofNat 52 (va.toNat % 2 ^ t.lsize), t.lsize, t.attr⟩

/-- `va` lies in the handler regions of an installed trap handler (R357). -/
def inPins (c : Ctx) (va : VAddr) : Option Pin :=
  if c.inst then c.pins.find? fun p => va.toNat / 2 ^ p.lsize == p.va.toNat / 2 ^ p.lsize else none

/-- The physical address of a translated access of the core, aliases decoded (R83). -/
def decodeAlias (s : State) (t : Tr) : Tr := { t with pa := BitVec.ofNat 52 (unalias (ownCol s) t.pa.toNat) }

/-- Translate an access of context `x` (R85 to R89): the pinned set first (R357); then a cached entry or the tables,
either when they differ (R89; entry 10). -/
def xlate (s : State) (x : CtxId) (kind : Nat) (va : VAddr) : Except Flt Tr :=
  let c := s.cx x
  match inPins c va with
  | some p => .ok (decodeAlias s ⟨p.pa + BitVec.ofNat 52 (va.toNat % 2 ^ p.lsize), p.lsize, p.attr⟩)
  | none =>
    let fresh := walk s c.troot c.world kind va
    let r := match tlbFind s (fld c.troot 52 12) va with
      | none => fresh
      | some t => if bit c.troot 0 && Config.choice s.tick then .ok (t.tr va) else fresh
    match r with
    | .error f => .error f
    | .ok t => checkTr s (s.core.asWorld.getD c.world) t.world kind va (decodeAlias s t)

/-- Keep an entry in a TLB of `n` entries that holds none for its page. -/
def tlbKeepIn (n : Nat) (e : TlbEnt) (l : List TlbEnt) : List TlbEnt :=
  if l.any (·.covers e.asid e.va) then l else (e :: l).take n

/-- Keep a translation in the core's TLB of 512 entries and in the shared one of 8192 (R88). -/
def tlbFill (s : State) (x : CtxId) (va : VAddr) (t : Tr) : State :=
  let c := s.cx x
  if (inPins c va).isSome then s
  else
    let asid : BitVec 12 := fld c.troot 52 12
    let e := (tlbFind s asid va).getD ⟨asid, bit t.attr 5, va, t.lsize, t.pa - BitVec.ofNat 52 (va.toNat % 2 ^ t.lsize), t.attr⟩
    s.modCore fun k => { k with tlb := tlbKeepIn 512 e k.tlb, stlb := tlbKeepIn 8192 e k.stlb }

/-! ### Sections and the vault (R92 to R95) -/

/-- The section that holds a physical address of a vault: 192·column + 48·q + s (R92). -/
def sectionOf (a : Nat) : Option Nat :=
  match rowOf a with
  | .vault k => some (192 * k + (a - vaultBase k) / 0x10000)
  | _ => none

/-- The owner tag of a section; none is NONE (R94). -/
def secTag (s : State) (n : Nat) : Option (BitVec 16) := lookup s.pkg.sectags n

/-- Set the owner tag of a section. -/
def setSecTag (s : State) (n : Nat) (t : Option (BitVec 16)) : State :=
  s.modPkg fun p => { p with sectags := match t with | none => remove p.sectags n | some l => insert p.sectags n l }

/-- The tasks that physical core `p` holds for launch `lid`. -/
def coreHolds (s : State) (p : Nat) (lid : BitVec 16) : Bool :=
  s.pkg.tasks.any fun t => t.lid == lid && t.ctx.isSome && (match t.core with | some c => lmap s c.toNat == some (BitVec.ofNat 9 p) | none => false)

/-- An access of a compute-core agent to another core's section is refused (R95, R389 REMOTE). -/
def remoteRefused (s : State) (lid : BitVec 16) (a : Nat) : Bool :=
  match sectionOf a with
  | none => false
  | some n =>
    if n / 48 = s.core.phys.toNat then false
    else match secTag s n with
      | some l => l != lid
      | none => !coreHolds s (n / 48) lid

/-! ### Names and the fault log (R331, R362, R363) -/

/-- An entry name (R331). -/
def entryName (s : State) (x : CtxId) (e : Nat) (seq : Word) : Word :=
  lcore s ++ (BitVec.ofNat 2 x.val) ++ (BitVec.ofNat 3 e) ++ 0#2 ++ (fld seq 0 48)

/-! ### Groups (R29 to R31) -/

/-- The physical core of logical core `c` (0 where the map holds none). -/
def physOf (s : State) (c : BitVec 9) : Nat := ((lmap s c.toNat).map (·.toNat)).getD 0

/-- Column of a logical core (R15). -/
def colOf (s : State) (c : BitVec 9) : Nat := physOf s c / 4
/-- Cluster of a logical core (R15). -/
def clusterOf (s : State) (c : BitVec 9) : Nat := physOf s c / 32

/-- A logical core is live (R328). -/
def coreLive (s : State) (c : BitVec 9) : Bool :=
  match lmap s c.toNat with | none => false | some p => bit (ctl s (0x100100 + 8 * (p.toNat / 64))) (p.toNat % 64)

/-- A group field names logical core `c` (R30). -/
def inGroup (s : State) (g : BitVec 16) (c : BitVec 9) : Bool :=
  let u := fldN g 3 9
  match fldN g 0 3 with
  | 0 => c.toNat == u
  | 1 => colOf s c == u
  | 2 => clusterOf s c == u
  | 3 => physOf s c / 64 == u
  | 4 => true
  | _ => false

/-! ### Entries and descriptors -/

/-- A field of a descriptor given as bytes. -/
def dfield (d : List Byte) (off n : Nat) : Nat := ofBytes ((d.drop off).take n)

/-- 64-byte units of `n` bytes. -/
def unitsIn (n : Nat) : Nat := (n + 63) / 64

/-- Bytes of an element of a drain format (R220). -/
def drainSize (f : Nat) : Nat := match f with | 1 => 4 | 2 | 3 => 2 | 5 | 6 => 1 | _ => 0

/-- The cores of a multicast's target group, ascending (R31, R187). -/
def cmcCores (s : State) (d : List Byte) : List (BitVec 9) :=
  logicals.filter fun c => coreLive s c && inGroup s (BitVec.ofNat 16 (dfield d 20 2)) c

/-! ### Comb and accumulator state (R214, R216) -/

/-- Comb slot `i`. -/
def State.slot (s : State) (i : BitVec 6) : Slot := s.core.slots[i.toNat]'i.isLt
/-- Replace comb slot `i`. -/
def State.setSlot (s : State) (i : BitVec 6) (v : Slot) : State :=
  s.modCore fun k => { k with slots := k.slots.set i.toNat v i.isLt }
/-- Accumulator bank `i`. -/
def State.bank (s : State) (i : BitVec 5) : Bank := s.core.banks[i.toNat]'i.isLt
/-- Replace accumulator bank `i`. -/
def State.setBank (s : State) (i : BitVec 5) (v : Bank) : State :=
  s.modCore fun k => { k with banks := k.banks.set i.toNat v i.isLt }

/-- Reaching FREE clears OWN, RELP, PAIR, TAG, LIVE and the tensor scale (R214; entry 9 for the scale's value). -/
def Slot.freed (v : Slot) : Slot :=
  { v with state := 0, own := 0, relp := false, pair := false, tag := 0, live := 0, ts := 0x3F800000 }

/-- RELS of one slot (R214): CLAIMED and READY go FREE, FILLING and IN-USE note the release. -/
def Slot.release (v : Slot) : Slot :=
  if v.state = 1 ∨ v.state = 3 then v.freed
  else if v.state = 2 ∨ v.state = 4 then { v with relp := true } else v

/-- All slot numbers. -/
def slotIds : List (BitVec 6) := (List.range 64).map (BitVec.ofNat 6)
/-- All bank numbers. -/
def bankIds : List (BitVec 5) := (List.range 32).map (BitVec.ofNat 5)

/-- The started entry of a queue and those not started, with what their append recorded. -/
def EngQ.records (q : EngQ) : List Pend := (match q.run.bind (·.pend) with | some p => [p] | none => []) ++ q.pend

/-- A writer of bank `i` that `x` appended up to number `upto` is incomplete (R216). -/
def writerPending (s : State) (x : CtxId) (i : BitVec 5) (upto : Word) : Bool :=
  (s.eq x .mxe).records.any fun p => decide (p.seq.toNat ≤ upto.toNat) && bit p.names i.toNat

/-- FREEING ends when both bands are RELEASED and no earlier writer remains (R216). -/
def settleBank (s : State) (i : BitVec 5) : State :=
  let b := s.bank i
  if b.state = 2 ∧ b.rel.get 0 ∧ b.rel.get 1 ∧ writerPending s b.alc i b.upto = false then
    s.setBank i { b with state := 0 }
  else s

/-- Release of one band (R216). -/
def Bank.relBand (b : Bank) (i : Fin 2) : Bank := { b with rel := b.rel.set i.val true }

/-- AFREE by its allocator (R216): every band the allocator owns becomes RELEASED. -/
def Bank.freeing (b : Bank) (upto : Word) : Bank :=
  let b := { b with state := 2, upto := upto }
  let b := if b.own.get 0 = b.alc then b.relBand 0 else b
  if b.own.get 1 = b.alc then b.relBand 1 else b

/-- What a context holds on its core is released (R50, R361): slots, bands, banks. -/
def releaseComb (s : State) (x : CtxId) : State :=
  let s := slotIds.foldl (fun s i =>
    let v := s.slot i
    if v.state ≠ 0 ∧ v.own = x then s.setSlot i v.freed else s) s
  bankIds.foldl (fun s i =>
    let b := s.bank i
    if b.state = 0 then s
    else
      let b := if b.own.get 0 = x then b.relBand 0 else b
      let b := if b.own.get 1 = x then b.relBand 1 else b
      let b := if b.alc = x ∧ b.state = 1 then b.freeing 0 else if b.alc = x then { b with upto := 0 } else b
      settleBank (s.setBank i b) i) s

/-- The device precharges a bank at stroke value `t`: at the earliest 32 ns after its ACT (R98, R99). -/
def NdBank.precharged (b : NdBank) (t : Word) : NdBank :=
  { b with row := none, preAt := if b.row.isSome then BitVec.ofNat 64 (max t.toNat (b.actAt.toNat + 32)) else t }

/-- Near-DRAM banks that a context holds are precharged and return to automatic (R50, R98). -/
def releaseNd (s : State) (x : CtxId) : State :=
  s.modCore fun k => { k with nd := k.nd.map fun b => if b.holder = some x then { b.precharged (now s) with holder := none } else b }

/-! ### Errors that remove a unit (R427) -/

/-- An error of a unit counts; with the 16th within one second its removal is due (R329, R427). -/
def noteErr (s : State) (c : MapChange) : State :=
  let l := (c, now s) :: s.pkg.errs.filter fun e => decide ((now s - e.2).toNat ≤ 1000000000)
  if 16 ≤ (l.filter (·.1 == c)).length then
    s.modPkg fun p => { p with errs := l.filter (·.1 != c), changes := if p.changes.contains c then p.changes else p.changes ++ [c] }
  else s.modPkg ({ · with errs := l })

/-- The row at offset 256·`row` of the vault allotment of physical core `p` fails; with more failing rows than the 16 repair
entries the vault's removal is due (R175, R427; entry 114). -/
def noteRow (s : State) (p row : Nat) : State :=
  let l := if s.pkg.badRows.contains (p, row) then s.pkg.badRows else (p, row) :: s.pkg.badRows
  let c : MapChange := .vault (BitVec.ofNat 7 (p / 4))
  s.modPkg fun q => { q with
    badRows := l
    changes := if 16 < (l.filter (·.1 == p)).length && !q.changes.contains c then q.changes ++ [c] else q.changes }

/-! ### Watermarks (R128, R202) -/

/-- LEN of a copy word (R183). -/
def copyLen (w : Word) : Nat := fldN w 0 32

/-- The destination of a CPY or FILL. -/
def copyDst (r : Run) : VAddr := if fldN r.hdr 0 8 = 4 then va56 r.a else va56 r.b

/-- WM of an armed channel rises (R202). -/
def Ctx.raiseWm (c : Ctx) (i : Nat) (lim : VAddr) : Ctx :=
  { c with wm := c.wm.mapIdx fun j w => if j = i ∧ bit w 63 then 0x80#8 ++ lim else w }

/-- The watermark channel of a CPY or FILL whose units so far are all performed, and the value it has reached (R128, R202). -/
def Run.mark (r : Run) : Option (Nat × VAddr) :=
  let code := fldN r.hdr 0 8
  if (code == 0 || code == 4) && bit r.c 35 && r.begun && r.prog != 0 && r.posts.isEmpty then
    some (fldN r.c 32 3, copyDst r + BitVec.ofNat 56 (min (64 * r.prog) (copyLen r.c)))
  else none

/-- WM follows the units of the running copy that are performed; one on its way to a window is not (R128). -/
def Ctx.followMark (c : Ctx) : Ctx :=
  match (c.eq .cpe).run.bind (·.mark) with | some (i, a) => c.raiseWm i a | none => c

/-! ### Watchpoint records of the CPE and of atomics (R343) -/

/-- A beat of the CPE entry of context `x` has been performed since its hits; those that await no more are recorded. -/
def beatPassed (s : State) (x : CtxId) : State :=
  settleHits (s.modPkg fun p => { p with hits := p.hits.map fun h => if h.src = some x then { h with left := h.left - 1, skid := h.skid + 1 } else h })

/-- The entry performs no further beat: its pending hits are recorded. -/
def flushHits (s : State) (x : CtxId) : State :=
  settleHits (s.modPkg fun p => { p with hits := p.hits.map fun h => if h.src = some x then { h with left := 0 } else h })

/-- `n` cycles pass: the hits of atomics that have waited long enough are recorded. -/
def hitsAge (s : State) (n : Nat) : State :=
  settleHits (s.modPkg fun p => { p with hits := p.hits.map fun h => if h.src.isNone then { h with left := h.left - n } else h })

/-- What a beat of the CPE writes at `a`, of the unit whose lowest address is `u`, is checked at its home (R343): each record is
written at once or after one or two further beats, as a free word says. -/
def cpeNote (s : State) (x : CtxId) (u a n : Nat) (name : Word) : State :=
  addHits s (newHits s (some u) a n ⟨2, 3, name, 0⟩ (some x) false fun w => fldN (freeWord s (0x200 + w)) 0 2 % 3)

/-! ### Launches -/

/-- The launch with an identifier. -/
def launchOf (s : State) (lid : BitVec 16) : Option Launch := s.pkg.launches.find? fun l => l.lid == lid

/-- The task with a number. -/
def taskOf (s : State) (id : Nat) : Option Task := s.pkg.tasks.find? fun t => t.id == id

/-- Change the task with a number. -/
def modTask (s : State) (id : Nat) (f : Task → Task) : State :=
  s.modPkg fun p => { p with tasks := p.tasks.map fun t => if t.id = id then f t else t }

/-- Contexts of the core that run a task of a launch. -/
def ctxsOf (s : State) (lid : BitVec 16) : List CtxId := ctxs.filter fun x => (s.cx x).task.isSome && (s.cx x).lid == lid

/-! ### Waiting entries (R289) -/

/-- Return the pops of a waiting entry and release its push: it is unstarted again (R289, R354). -/
def unstart (s : State) (x : CtxId) (e : Eng) : State :=
  let q := s.eq x e
  match q.run with
  | none => s
  | some r =>
    let pops := [fldN r.sync 0 4, fldN r.sync 4 4, fldN r.sync 8 4].filter (· < 7)
    let s := s.modCx x fun c => pops.foldl (fun c p => c.setTokens p (engNum e) (c.tokens p (engNum e) + 1)) c
    s.modEq x e fun q => { q with
      run := none
      qhead := r.addr.setWidth 64
      window := q.window.filter (·.seq != r.seq)
      pend := match r.pend with | some p => p :: q.pend | none => q.pend
      claim := match r.x with
        | .opp i (some n) false _ b => some (i, n, b)
        | _ => q.claim
      chain := q.chain.map fun c => { c with left := c.left + 1, addr := r.addr, seq := r.seq } }

/-- A started entry that waits rather than works (R289): for a counter, on a comb or bank interlock, or an OPP entry for queue
room. A collective that awaits a chunk is none of these. -/
def isWaiting (e : Eng) (r : Run) : Bool := r.waits && !r.done && e != .clp

/-! ### The construction-map event (R330, R365) -/

/-- MAPCHG is raised on a context (R365): MAPP until it is taken, at the next boundary or later; a context that is SAVING meets
it at its resume (R330). -/
def mapEvent (s : State) (x : CtxId) (ver : Word) : State :=
  let c := s.cx x
  let s := s.modCx x ({ · with mapval := ver })
  if c.saving.isSome then s
  else s.modCx x (·.setStat 2 true)

end Sys2Proof.Machine
end

