-- ==== Sys2Proof/Machine/Ecdsa.lean ====
section
/-! DEFINITION. ECDSA on the curve P-521 with SHA-512 (R22, R314, R316): the verification and generation of signatures of
FIPS 186-5, which the spec names, and the device identity key. Numbers are octet strings of 66 bytes, most significant first. -/
namespace Sys2Proof.Machine

open Bits

/-- The prime of P-521. -/
def ecP : Nat := 2 ^ 521 - 1
/-- The coefficient b of P-521; a is −3. -/
def ecB : Nat := 0x51953EB9618E1C9A1F929A21A0B68540EEA2DA725B99B315F3B8B489918EF109E156193951EC7E937B1652C0BD3BB1BF073573DF883D2C34F1EF451FD46B503F00
/-- The order of the base point. -/
def ecN : Nat := 0x1FFFFFFFFFFFFFFFFFFFFFFFFFFFFFFFFFFFFFFFFFFFFFFFFFFFFFFFFFFFFFFFFFA51868783BF2F966B7FCC0148F709A5D03BB5C9B8899C47AEBB6FB71E91386409

/-- A point in affine coordinates; none is the point at infinity. -/
abbrev EcPoint := Option (Nat × Nat)

/-- The base point. -/
def ecG : EcPoint := some
  (0xC6858E06B70404E9CD9E3ECB662395B4429C648139053FB521F828AF606B4D3DBAA14B5E77EFE75928FE1DC127A2FFA8DE3348B3C1856A429BF97E7E31C2E5BD66,
   0x11839296A789A3BC0045C8A5FB42C7D1BD998F54449579B446817AFBD17273E662C97EE72995EF42640C550B9013FAD0761353C7086A272C24088BE94769FD16650)

/-- b^e modulo m, for an exponent of at most the given number of bits. -/
def powMod (m : Nat) : Nat → Nat → Nat → Nat
  | 0, _, _ => 1
  | k + 1, b, e => let h := powMod m k (b * b % m) (e / 2); if e % 2 = 1 then b * h % m else h

/-- The inverse of x modulo a prime m below 2^521. -/
def invMod (m x : Nat) : Nat := powMod m 521 (x % m) (m - 2)

/-- The sum of two points. -/
def ecAdd (p q : EcPoint) : EcPoint :=
  match p, q with
  | none, q => q
  | p, none => p
  | some (x1, y1), some (x2, y2) =>
    if x1 = x2 ∧ (y1 + y2) % ecP = 0 then none
    else
      let l := if x1 = x2 then (3 * x1 * x1 + (ecP - 3)) * invMod ecP (2 * y1) % ecP
        else (y2 + (ecP - y1)) * invMod ecP (x2 + (ecP - x1)) % ecP
      let x := (l * l + (ecP - x1) + (ecP - x2)) % ecP
      some (x, (l * (x1 + (ecP - x)) + (ecP - y1)) % ecP)

/-- k · p, for a k of at most the given number of bits. -/
def ecMul : Nat → Nat → EcPoint → EcPoint
  | 0, _, _ => none
  | n + 1, k, p => let h := ecMul n (k / 2) (ecAdd p p); if k % 2 = 1 then ecAdd p h else h

/-- The point lies on the curve, with coordinates below p. -/
def ecOn (x y : Nat) : Bool :=
  decide (x < ecP) && decide (y < ecP) && y * y % ecP == (x * x * x + (ecP - 3) * x + ecB) % ecP

/-- The number of an octet string, most significant byte first (SEC 1). -/
def osNat (l : List Byte) : Nat := ofBytes l.reverse

/-- The octet string of 66 bytes of a number (SEC 1). -/
def natOs (n : Nat) : List Byte := (toBytes (BitVec.ofNat 528 n) 66).reverse

/-- The message digest as a number: SHA-512 has fewer bits than the order. -/
def ecHash (m : List Byte) : Nat := osNat (sha512 m)

/-- The signature (r, s) of a message is valid under the key (x, y). -/
def ecVerify (x y r s : Nat) (m : List Byte) : Bool :=
  ecOn x y && decide (1 ≤ r) && decide (r < ecN) && decide (1 ≤ s) && decide (s < ecN) &&
    (let w := invMod ecN s
     match ecAdd (ecMul 521 (ecHash m * w % ecN) ecG) (ecMul 521 (r * w % ecN) (some (x, y))) with
     | none => false
     | some (v, _) => v % ecN == r)

/-- The signature of a message under the private key `d` with the secret number `k`. -/
def ecSign (d k : Nat) (m : List Byte) : Nat × Nat :=
  let r := match ecMul 521 k ecG with | none => 0 | some (x, _) => x % ecN
  (r, invMod ecN k * (ecHash m + r * d) % ecN)

/-- A public key, X then Y, and a signature, R then S, of 132 bytes each (R314). -/
def ecdsaValid (key sig m : List Byte) : Bool :=
  ecVerify (osNat (key.take 66)) (osNat (key.drop 66)) (osNat (sig.take 66)) (osNat (sig.drop 66)) m

/-- A number from 1 to n − 1. -/
def ecScalar (v : Nat) : Nat := 1 + v % (ecN - 1)

/-- BOOT.IDPUB: the public half of the device identity key, X then Y (R316). -/
def idPub : List Byte := match ecMul 521 (ecScalar Config.idKey) ecG with | none => [] | some (x, y) => natOs x ++ natOs y

/-- The signature of the device identity key over a message, R then S; the secret number is free (R316; entry 21). -/
def idSign (tick : Nat) (m : List Byte) : List Byte :=
  let (r, s) := ecSign (ecScalar Config.idKey) (ecScalar (Config.bits tick 521).toNat) m
  natOs r ++ natOs s

end Sys2Proof.Machine
end

