-- ==== Sys2Proof/Machine/Ctl.lean ====
section
/-! DEFINITION. The control-register region at its home (R83, R311): what a read returns, which fields a write sets
under R7, R8, R320 to R323, and what a write does beside: ownership, worlds, measurement, attestation, stops, profiling,
trace, patching; and reads and writes at the home of any address (R106, R107). -/
namespace Sys2Proof.Machine

open Bits

/-! ### Agents and worlds (R317, R320) -/

/-- The world of an agent's accesses: true secure (R317). The console writes as a master of its own (R320). -/
def agentSecure (s : State) : Agent → Bool
  | .mgmt => true
  | .console => false
  | .sys n => bit (ctl s 0x240) n.val
  | .host => false
  | .peer l => bit (ctl s 0x268) l.val
  | .rootPort _ => false
  | .core w => w

/-- PKG.OWN.OWNER (R321). -/
def owner (s : State) : Nat := fldN (ctl s 0x100) 0 3

/-- The master an agent is (R320); writes of non-secure compute-core agents count as the current owner's (R321). -/
def masterOf (s : State) : Agent → Nat
  | .sys n => if bit (ctl s 0x240) n.val then 0 else 1
  | .host => 2
  | .peer l => if bit (ctl s (oLink l.val)) 32 then 3 else 0
  | .console => 4
  | .core false => owner s
  | _ => 0

/-- The owner and secure agents may write (R323). -/
def mayWrite (s : State) (who : Agent) : Bool :=
  agentSecure s who || (masterOf s who == owner s && owner s != 0)

/-! ### Fields (R7) -/

/-- Bits of a register word that a write sets (RW), clears (W1C), or sets from the secure world only (WS). -/
structure Access where
  rw  : Word := 0
  w1c : Word := 0
  ws  : Word := 0
  /-- Written by the owner and secure agents only (R323, R332, R362, R412). -/
  own : Bool := false
deriving DecidableEq, Repr

/-- A field of ones [hi:lo]. -/
def ones (hi lo : Nat) : Word := BitVec.ofNat 64 (2 ^ (hi + 1) - 2 ^ lo)

/-- The layout of R87 as WS fields, or as RW fields. -/
def rootBits : Word := ones 63 16 ||| 1

/-- The access codes of the register word at offset `o` (R278, R304 to R344, R362, R412, R425); an offset that holds no
register, or only RO fields, has none. -/
def accessOf (o : Nat) : Access :=
  let r := o % 0x100000
  match o / 0x100000 with
  | 0 =>
    if 0x200 ≤ o ∧ o < 0x240 then { ws := ones 63 0 }
    else if o = 0x240 ∨ o = 0x250 then { ws := ones 15 0 }
    else if o = 0x248 then { ws := ones 3 0 }
    else if o = 0x258 ∨ o = 0x260 then { ws := ones 63 0 }
    else if o = 0x268 then { ws := ones 11 0 }
    else if 0x400 ≤ o ∧ o < 0x600 then { ws := ones 51 14 ||| 1 }
    else {}
  | 1 => if r = 0x008 then { ws := ones 31 0 } else {}
  | 2 =>
    if r < 0x400 then { rw := ones 7 0, own := true }
    else if r = 0x400 ∨ r = 0x410 then { rw := ones 23 0, own := true }
    else if r = 0x408 then { rw := ones 31 0, own := true }
    else if r = 0x418 then { ws := ones 55 37 }
    else if r = 0x420 then { ws := rootBits }
    else {}
  | 3 => if r = 0 then { rw := ones 15 0, own := true } else {}
  | 4 =>
    if r < 0x10 * 16 * 18 then
      if r % 16 = 0 then { rw := ones 63 63 ||| ones 51 6, ws := ones 62 62, own := true }
      else { rw := rootBits, own := true }
    else {}
  | 5 => if 0x200 ≤ r ∧ r < 0x240 ∨ 0x280 ≤ r ∧ r < 0x2C0 then { rw := ones 63 0 } else {}
  | 6 =>
    if r < 0x60 then { rw := ones 32 32, own := true }
    else if 0x100 ≤ r ∧ r < 0x300 then { rw := ones 51 45 ||| ones 4 0, own := true } else {}
  | 7 => if r < 0x20 then { rw := rootBits, own := true } else {}
  | 8 =>
    if r = 0x000 then { rw := ones 15 0, own := true }
    else if r = 0x010 then { rw := ones 51 8, own := true }
    else if r = 0x020 then { rw := ones 0 0, own := true }
    else if 0x040 ≤ r ∧ r < 0x060 then { rw := ones 47 32 ||| ones 19 15 ||| ones 5 4 ||| ones 2 0, own := true }
    else if r = 0x060 then { rw := ones 32 32 ||| ones 29 24 ||| ones 16 0, w1c := ones 34 33, own := true }
    else if r = 0x068 ∨ r = 0x070 ∨ r = 0x078 then { rw := ones 51 5, own := true }
    else if r = 0x080 then { rw := ones 63 0, own := true }
    else if 0x100 ≤ r ∧ r < 0x200 then
      if r % 16 = 0 then { rw := ones 51 6 ||| ones 2 0, own := true } else { rw := ones 63 0, own := true }
    else {}
  | 0xE =>
    if r = 0 then { rw := ones 51 12, own := true } else if r = 0x10 then { rw := ones 5 0, own := true } else {}
  | 0xF =>
    if r = 0 then { rw := ones 1 0, own := true }
    else if r = 0x008 then { rw := ones 31 0, own := true }
    else if r = 0x010 then { rw := ones 15 0, own := true }
    else if 0x040 ≤ r ∧ r < 0x090 then { rw := ones 63 0, own := true }
    else if r = 0x200 then { rw := ones 51 2, own := true }
    else if r = 0x208 ∨ r = 0x210 ∨ r = 0x218 then { rw := ones 63 0, own := true }
    else if r = 0x220 then { rw := ones 2 1, own := true }
    else if r = 0x228 then { w1c := ones 2 2 ||| ones 0 0, own := true }
    else {}
  | _ =>
    if 0x3000000 ≤ o ∧ o < 0x3020000 then
      if o % 0x100 = 0 then { ws := ones 31 0 } else if o % 0x100 = 8 then { rw := ones 63 32 ||| ones 2 0 } else {}
    else {}

/-- The new value of a word with old value `v` when `d` is written to the bits `m` (R7). -/
def Access.apply (a : Access) (secure : Bool) (v d m : Word) : Word :=
  let set := (if secure then a.rw ||| a.ws else a.rw) &&& m
  ((v &&& ~~~set) ||| (d &&& set)) &&& ~~~(a.w1c &&& m &&& d)

/-! ### Reads -/

/-- A word of a constant of `n` bytes held from offset `base`. -/
def constWord {n : Nat} (v : BitVec n) (i : Nat) : Word := (v >>> (64 * i)).setWidth 64

/-! ### Block worlds (R318) -/

/-- The register and bit of a block's world. -/
def worldBit : WorldBlock → Nat × Nat
  | .core p => (0x200 + 8 * (p.toNat / 64), p.toNat % 64)
  | .hub n => (0x250, n.val)
  | .spe n => (0x248, n.val)

/-- The world in effect of a block (R318). -/
def blockWorld (s : State) (b : WorldBlock) : Bool :=
  match s.pkg.worldOld.find? (·.1 == b) with
  | some (_, w) => w
  | none => bit (ctl s (worldBit b).1) (worldBit b).2

/-- A change of the block's world waits to take effect; the block serves nothing new (R318). -/
def blockChanging (s : State) (b : WorldBlock) : Bool := s.pkg.worldOld.any (·.1 == b)

/-- The tests of R268 at stroke value `t`: the loaded calibration loses its validity by age or temperature. -/
def Spe.check (e : Spe) (t : Word) : Spe :=
  if e.calst = 0 then e
  else
    let age := decide (20000000 ≤ (t - e.calt).toNat)
    let d : Int := (e.temp.toNat : Int) - fldN e.calg 48 16
    let st := if age then setFld e.calst 1 1#1 else e.calst
    let st := if decide (32 ≤ d.natAbs) then setFld st 2 1#1 else st
    { e with calst := if fld st 1 2 ≠ 0 then setFld st 0 0#1 else st }

/-- SPE[n] registers (R267, R312). -/
def speRead (e : Spe) (w : Bool) (r : Nat) : Word :=
  if r < 0x800 then e.rcal.toList.getD (r / 8) 0
  else if r < 0x1000 then e.ccal.toList.getD ((r - 0x800) / 8) 0
  else if r < 0x1400 then (e.dark.toList.getD ((r - 0x1000) / 4 + 1) 0) ++ (e.dark.toList.getD ((r - 0x1000) / 4) 0)
  else if r = 0x1400 then e.calg
  else if r = 0x1408 then e.calt
  else if r = 0x1410 then e.temp.setWidth 64
  else if r = 0x1418 then e.calst
  else if r = 0x1420 then
    (match e.state with | .idle => 0 | .shot => 1 | .mask => 2 | .cal => 3 | .meas => 4) ||| (if w then 8 else 0)
  else 0

/-- SCHED.PWR of the modelled core (R298). -/
def pwrWord (k : Core) : Word :=
  0#30 ++ (match k.gate with | .on => 0#2 | .gating => 1#2 | .gated => 2#2 | .waking => 3#2) ++ k.gcnt

/-- CORE.SCANST of physical core `p` whose stored word is `raw`: while a scan runs, PATDONE counts a pattern each 100 ns
(R177, R178). -/
def scanWord (s : State) (p : BitVec 9) (raw : Word) : Word :=
  match s.pkg.scans.find? fun c => c.phys == p && c.state == 2 with
  | none => raw
  | some c => setFld raw 32 (BitVec.ofNat 20 (min c.npat.toNat (((now s) - c.start).toNat / 100)))

/-- The 8-byte register word at offset `o`, a multiple of 8 (R311, R312). -/
def ctlRead (s : State) (o : Nat) : Word :=
  if o = 0 then now s
  else if 0x201000 ≤ o ∧ o < 0x202000 then
    if lmap s ((o - 0x201000) / 8) = some s.core.phys then pwrWord s.core else 0
  else if 0x500300 ≤ o ∧ o < 0x500388 then constWord (BitVec.ofNat 1056 (ofBytes idPub)) ((o - 0x500300) / 8)
  else if 0x500400 ≤ o ∧ o < 0x500410 then constWord Config.devId ((o - 0x500400) / 8)
  else if 0x1000000 ≤ o ∧ o < 0x1040000 then let n := (o - 0x1000000) / 0x10000
    let e := s.pkg.spe.toList.getD n .reset
    speRead (if bit (ctl s (oSpe n)) 0 then e.check (now s) else e) (blockWorld s (.spe (Fin.ofNat 4 n))) (o % 0x10000)
  else if 0x2000000 ≤ o ∧ o < 0x2080000 then
    if o % 0x1000 < 0x600 then
      match secTag s (192 * ((o - 0x2000000) / 0x1000) + o % 0x1000 / 8) with
      | none => 0x10000
      | some l => l.setWidth 64
    else 0
  else if 0x3000000 ≤ o ∧ o < 0x3020000 ∧ (o - 0x3000000) / 0x100 = s.core.phys.toNat then
    match o % 0x100 with
    | 0x00 => s.core.srseed
    | 0x08 => s.core.bistst
    | 0x10 => scanWord s s.core.phys s.core.scanst
    | 0x18 => s.core.scansig
    | 0x20 => s.core.cycle
    | _ => 0
  else if 0x3000000 ≤ o ∧ o < 0x3020000 ∧ o % 0x100 = 0x10 then scanWord s (BitVec.ofNat 9 ((o - 0x3000000) / 0x100)) (ctl s o)
  else ctl s o

/-! ### Ownership (R321, R322) -/

/-- A write of PKG.OWN (R321). -/
def writeOwn (s : State) (who : Agent) (v : Word) : State :=
  let x := fldN v 0 3
  let own := ctl s 0x100
  let o := owner s
  let y := masterOf s who
  let ok := if 5 ≤ x then false
    else if agentSecure s who then true
    else if y = 0 then false
    else if x = y then o == 0 || fldN (ctl s 0x108) 0 3 == y
    else x == 0 && o == y
  if ok then
    let ep : BitVec 8 := if x = o then fld own 8 8 else fld own 8 8 + 1
    setCtl (setCtl s 0x100 (0#48 ++ ep ++ 0#5 ++ BitVec.ofNat 3 x)) 0x108 0
  else s

/-- A write of PKG.HOFFER (R322). -/
def writeHoffer (s : State) (who : Agent) (v : Word) : State :=
  if agentSecure s who || (masterOf s who == owner s && owner s != 0) then setCtl s 0x108 (v &&& 7) else s

/-- A store to PKG.HOSTIRQ raises an MSI-X vector (R325). -/
def writeHostirq (s : State) (who : Agent) (v : Word) : State :=
  if mayWrite s who && decide (v.toNat < 64) then s.modPkg fun p => { p with out := p.out ++ [.msix (fld v 0 6)] } else s

/-! ### Writes of the block worlds (R318) -/

/-- The blocks of a BLKW register. -/
def blocksOf (o : Nat) : List WorldBlock :=
  if 0x200 ≤ o ∧ o < 0x240 then (List.range 64).map fun i => .core (BitVec.ofNat 9 ((o - 0x200) / 8 * 64 + i))
  else if o = 0x250 then (List.range 16).map fun i => .hub (Fin.ofNat 16 i)
  else if o = 0x248 then (List.range 4).map fun i => .spe (Fin.ofNat 4 i)
  else []

/-- A write of a BLKW register from the secure world (R318): a changed core, hub or engine bit waits for its block. -/
def writeBlkw (s : State) (who : Agent) (o : Nat) (v : Word) : State :=
  if !agentSecure s who then s
  else
    let pend := (blocksOf o).filterMap fun b =>
      if bit v (worldBit b).2 == blockWorld s b then none else some (b, blockWorld s b)
    let keep := s.pkg.worldOld.filter fun e => !(blocksOf o).contains e.1
    (setCtl s o ((accessOf o).apply true (ctl s o) v (ones 63 0))).modPkg fun p => { p with worldOld := keep ++ pend }

/-! ### Measurement and attestation (R315, R316) -/

/-- The 64 bytes held from register offset `o`. -/
def ctlBytes (s : State) (o n : Nat) : List Byte := (List.range n).flatMap fun i => toBytes (ctl s (o + 8 * i)) 8

/-- Store bytes into register words from offset `o`. -/
def setCtlBytes (s : State) (o : Nat) (bs : List Byte) : State :=
  (List.range (bs.length / 8)).foldl
    (fun s i => setCtl s (o + 8 * i) (BitVec.ofNat 64 (ofBytes ((bs.drop (8 * i)).take 8)))) s

/-- MEAS[m] := SHA-512(MEAS[m] ‖ d) (R315). -/
def extendMeas (s : State) (m : Nat) (d : List Byte) : State :=
  setCtlBytes s (0x500000 + 64 * m) (sha512 (ctlBytes s (0x500000 + 64 * m) 8 ++ d))

/-- A write of BOOT.EXTCMD (R315); a value above 7 has a nonzero bit the rule fixes at zero, and extends nothing
(entry 22). -/
def writeExtcmd (s : State) (who : Agent) (v : Word) : State :=
  if 8 ≤ v.toNat ∨ (v.toNat < 3 ∧ agentSecure s who = false) then s
  else extendMeas s v.toNat (ctlBytes s 0x500200 8)

/-- The 740-byte attestation report (R316). -/
def attReport (s : State) : List Byte :=
  let body := toBytes (1 : Word) 8 ++ toBytes Config.devId 16 ++ toBytes (ctl s oVer) 8 ++ ctlBytes s 0x500000 64
    ++ ctlBytes s 0x500280 8
  body ++ idSign s.tick body

/-- A write of BOOT.ATTREQ (R316): BUSY, and Mbailan begins the report; ignored while BUSY = 1. -/
def writeAttreq (s : State) (v : Word) : State :=
  if bit (ctl s 0x5002C8) 1 then s else setCtl (setCtl s 0x5002C0 v) 0x5002C8 2

/-! ### The acknowledgement of the construction map (R330) -/

/-- CMAP.VER. -/
def mapVer (s : State) : Word := ctl s oVer

/-- The deadline of an acknowledgement that counts from stroke value `t` (R330). -/
def ackLimit (s : State) (t : Word) : Word := t + BitVec.ofNat 64 (1000 * fldN (ctl s 0x100008) 0 32)

/-- The deadline of an acknowledgement (R330). -/
def ackDeadline (s : State) : Word := ackLimit s (now s)

/-- VER has risen to `v` for context `x` (R330): an ACKED task is DUE, and MAPCHG is raised on it; an ACKMAP that has read keeps
the time of the first rise. -/
def ackRaise (s : State) (x : CtxId) (v : Word) : State :=
  let c := s.cx x
  let s := s.modCx x ({ · with ackrd := c.ackrd.map fun r => (r.1, r.2.or (some (now s))) })
  if c.task.isNone then s
  else match c.ack with
    | .acked => if c.ackver = v then s else mapEvent (s.modCx x ({ · with ack := .due (ackDeadline s) })) x v
    | _ => s

/-- VER := `v` (R329). -/
def setVer (s : State) (v : Word) : State := ctxs.foldl (fun s x => ackRaise s x v) (setCtl s oVer v)

/-- VER := VER + 1, the last write of a change (R329). -/
def verUp (s : State) : State := setVer s (mapVer s + 1)

/-- The fields of the CMAP block, which Mbailan writes (R328). -/
def mapBits (r : Nat) : Word :=
  if r = 0 then ones 63 0
  else if r = 0x008 then ones 31 0
  else if r = 0x010 then ones 9 0
  else if r = 0x018 then ones 3 0
  else if 0x020 ≤ r ∧ r < 0x060 then ones 16 0
  else if 0x100 ≤ r ∧ r < 0x140 then ones 63 0
  else if 0x200 ≤ r ∧ r < 0x600 then 0x81FF81FF81FF81FF
  else if 0x600 ≤ r ∧ r < 0xA00 then ones 18 0
  else if 0xA00 ≤ r ∧ r < 0xA80 then ones 31 16 ||| 1
  else if 0xA80 ≤ r ∧ r < 0xAC0 then ones 15 8 ||| 1
  else if 0xAC0 ≤ r ∧ r < 0xB20 then 1
  else if 0xB20 ≤ r ∧ r < 0xB40 then ones 63 32 ||| 1
  else 0

/-- Mbailan stores to a field of the CMAP block (R328); its store of VER is the last of a change (R329). -/
def writeMap (s : State) (o : Nat) (d m : Word) : State :=
  let k := mapBits (o % 0x100000) &&& m
  let v := (ctl s o &&& ~~~k) ||| (d &&& k)
  if o = oVer then (if v = mapVer s then s else setVer s v) else setCtl s o v

/-! ### Stops (R333 to R335) -/

/-- ST of STOPST (R333). -/
def stopState (s : State) : Nat := fldN (ctl s 0x800008) 0 2

/-- Entries of a context that wait rather than work return to unstarted (R289, R333). -/
def unstartWaiting (s : State) (x : CtxId) : State :=
  engines.foldl (fun s e => match (s.eq x e).run with
    | some r => if isWaiting e r && r.fault.isNone then unstart s x e else s
    | none => s) s

/-- A GO write (R333): ignored while a stop is in force; the contexts of the launch stop issuing, and their waiting
entries return to unstarted. -/
def stopGo (s : State) (lid : BitVec 16) : State :=
  if stopState s ≠ 0 then s
  else
    let s := (ctxsOf s lid).foldl (fun s x => unstartWaiting (s.modCx x ({ · with halted := true })) x) s
    setCtl (s.modPkg ({ · with stopLid := some lid })) 0x800008 1

/-- A write of [a, a + n) hits a watchpoint that requests a stop (R342). -/
def dwStops (s : State) (a n : Nat) (atomic : Bool) : Bool := (dwAll s a n atomic).any fun h => bit (ctl s (oDwp h.2)) 2

/-- The launch stops where a hit asks it (R342). -/
def hitStop (s : State) (lid : Option (BitVec 16)) (stop : Bool) : State :=
  match lid with | some l => if stop then stopGo s l else s | none => s

/-- A write of launch `lid` is checked at its home (R342, R343): records, and a stop of the launch where a hit asks it. -/
def hitCheck (s : State) (lid : Option (BitVec 16)) (a n : Nat) (who : Writer) : State :=
  hitStop (dwCheck s a n who) lid (dwStops s a n (who.kind == 3))

/-- A write by engine `e` of context `x`, of the unit whose lowest address is `u`, is checked at its home (R343, R435). -/
def engCheck (s : State) (x : CtxId) (lid : Option (BitVec 16)) (u a n : Nat) (e : Eng) (name : Word) : State :=
  let stop := dwStops s a n false
  hitStop (if e = .cpe then cpeNote s x u a n name else dwCheck s a n ⟨2, BitVec.ofNat 8 (engNum e), name, 0⟩) lid stop

/-- A store that the instruction itself makes hits a watchpoint that requests a stop, and has not been recorded yet (R343): it is
recorded, its launch stops, and the store is made, unchecked, after RESUME. -/
def storeHeld (s : State) (x : CtxId) (a n : Nat) : Bool := dwStops s a n false && (s.cx x).passed != some (s.cx x).pc

/-- The record and the stop of such a store. -/
def holdStore (s : State) (x : CtxId) (a n : Nat) (who : Writer) : State :=
  stopGo ((dwCheck s a n who).modCx x fun c => { c with passed := some c.pc }) (s.cx x).lid

/-- The record of a store that the instruction itself makes, unless it has been recorded. -/
def noteStore (s : State) (x : CtxId) (a n : Nat) (who : Writer) : State :=
  if (s.cx x).passed = some (s.cx x).pc then s.modCx x ({ · with passed := none }) else dwCheck s a n who

/-- The 256-byte stop-vector record of a context (R334). -/
def stopVector (s : State) (x : CtxId) : List Byte :=
  let c := s.cx x
  let w0 : Word := 0#37 ++ (BitVec.ofNat 2 x.val) ++ lcore s ++ c.lid
  let ph : Nat := match c.phase with | .pro => 0 | .ker => 1 | .epi => 2
  let pc : Word := (BitVec.ofNat 8 ph) ++ (c.svpc.getD c.pc)
  let pairs := (List.range 49).filter fun i => i / 7 ≠ i % 7
  toBytes w0 8 ++ toBytes pc 8 ++ engines.flatMap (fun e => toBytes (c.eq e).qhead 8)
    ++ engines.flatMap (fun e => toBytes (c.eq e).qseq 8) ++ toBytes c.tkpend 8
    ++ pairs.map (fun i => (c.tq.toList.getD i 0).setWidth 8) ++ List.replicate 94 0

/-- The stop of a context is complete: accesses performed (but those a watchpoint holds), no save under way, and no entry working:
none is started, but for those that a halt line has stopped (R333; entry 98). -/
def stopQuiet (s : State) (x : CtxId) : Bool :=
  (s.cx x).saving.isNone && ((s.cx x).acc.all (·.held)) && engines.all fun e => (s.eq x e).run.isNone || (s.eq x e).stop

/-- A RESUME write (R333): the contexts issue again from their recorded PCs; held stores may be performed (R343). -/
def stopResume (s : State) : State :=
  let s := ctxs.foldl (fun s x => s.modCx x fun c =>
    { c with halted := false, svpc := none, acc := c.acc.map fun a => { a with held := false } }) s
  setCtl (s.modPkg ({ · with stopLid := none })) 0x800008 0

/-! ### Profiling, trace, triggers (R338 to R340) -/

/-- HCTL.CLR zeroes every HCNT (R338). -/
def clearHcnt (s : State) : State :=
  s.modPkg fun p => { p with regs := p.regs.filter fun e => !(decide (0xC00000 ≤ e.1) && decide (e.1 < 0xE00000)) }

/-- The actions of the triggers whose event matches (R340): FREEZE over STOP over START. -/
def trigger (s : State) (sc : Fin 16) (ev : BitVec 3) (val : BitVec 16) : State :=
  let acts := (List.range 4).filterMap fun i =>
    let t := ctl s (0x800040 + 8 * i)
    if ev ≠ 0 ∧ ev.toNat ≤ 4 ∧ fld t 0 3 = ev ∧ (ev = 4 ∨ fld t 32 16 = val) ∧ (bit t 15 ∨ fldN t 16 4 = sc.val) then some (fldN t 4 2) else none
  let tr := ctl s 0x800060
  if acts.contains 2 then
    let s := setCtl s 0x800060 ((tr &&& ~~~(ones 32 32)) ||| ones 34 34)
    setCtl s 0x800020 (ctl s 0x800020 &&& ~~~1)
  else if acts.contains 1 then setCtl s 0x800060 (tr &&& ~~~(ones 32 32))
  else if acts.contains 0 && !bit tr 34 then setCtl s 0x800060 (tr ||| ones 32 32)
  else s

/-! ### Patching (R425) -/

/-- PCTL.GO (R425): the line is checked; the words and header are written at once, and every fetched copy of the line is
discarded. -/
def patchStart (s : State) : State :=
  if bit (ctl s 0xF00228) 1 then s
  else
    let a := fldN (ctl s 0xF00200) 2 50 * 4
    let pctl := ctl s 0xF00220
    let two := bit pctl 1
    let line := a / 128 * 128
    let i := (a % 128 - 8) / 4
    let bad := decide (a % 128 < 8) || (two && decide (28 < i)) || fld (wordAt s line) 62 2 != 0
    if bad then
      (setCtl s 0xF00228 (ctl s 0xF00228 ||| 5))
    else
      let put (s : State) (a : Nat) (bs : List Byte) : State := dwCheck (rawStore s a bs) a bs.length deviceWriter
      let s := put s a (toBytes (ctl s 0xF00208) (if two then 8 else 4))
      let s := if bit pctl 2 then put s line (toBytes (ctl s 0xF00210) 8) else s
      let s := s.modCore fun k => { k with icache := k.icache.filter fun e => e.1.toNat != line }
      let s := s.modPkg ({ · with patch := some ⟨BitVec.ofNat 52 line, false, ctl s 0xF00218⟩ })
      setCtl s 0xF00228 ((ctl s 0xF00228 &&& ~~~5) ||| 2)

/-! ### Writes -/

/-- A register write of the word at offset `o`: the bits `m` of it receive `d` (R7, R8, R323). Registers whose write does
more than set fields are those of R315, R316, R318, R321, R322, R325, R333, R338, R339, R425. -/
def ctlWriteWord (s : State) (who : Agent) (o : Nat) (d m : Word) : State :=
  let sec := agentSecure s who
  let a := accessOf o
  let low := m &&& 0xFF != 0
  if o = 0x100 then (if low then writeOwn s who (d &&& m) else s)
  else if o = 0x108 then (if low then writeHoffer s who (d &&& m) else s)
  else if o = 0x300 then (if low then writeHostirq s who (d &&& m) else s)
  else if o / 0x100000 = 1 ∧ who = .mgmt then writeMap s o d m
  else if 0x200 ≤ o ∧ o < 0x270 then writeBlkw s who o ((ctl s o &&& ~~~m) ||| (d &&& m))
  else if o = 0x500240 then (if low then writeExtcmd s who (d &&& m) else s)
  else if o = 0x5002C0 then writeAttreq s ((ctl s o &&& ~~~m) ||| (d &&& m))
  else if a.own && !mayWrite s who then
    (if a.ws ≠ 0 ∧ sec then setCtl s o (a.apply sec (ctl s o) d m) else s)
  else if o = 0x3000000 + 0x100 * s.core.phys.toNat then
    s.modCore fun k => { k with srseed := a.apply sec k.srseed d m }
  else if o = 0x3000008 + 0x100 * s.core.phys.toNat then
    s.modCore fun k => { k with bistst := a.apply sec k.bistst d m }
  else if o = 0x800000 then
    let d' := d &&& m
    let s := if bit d' 17 then stopResume s else s
    if bit d' 16 && stopState s != 0 then s
    else
      let s := setCtl s o (a.apply sec (ctl s o) d m)
      if bit d' 16 then stopGo s (fld (ctl s o) 0 16) else s
  else
    let s := setCtl s o (a.apply sec (ctl s o) d m)
    let d := d &&& m
    if o = 0x800020 ∧ bit d 1 then clearHcnt s
    else if o = 0x800078 then setCtl s o (ctl s 0x800068)
    else if o = 0x800080 then (match who with | .sys n => trigger s n 4 (fld d 0 16) | _ => s)
    else if o = 0xF00220 ∧ bit d 0 then patchStart s
    else if 0x400000 ≤ o ∧ o < 0x401200 ∧ o % 16 = 0 then
      let j := (o - 0x400000) / 16
      s.modPkg fun p => { p with qbad := p.qbad.filter fun e => e ≠ (j / 16, j % 16) }
    else s

/-- Bits of the 8-byte word that a write of `2 ^ lsize` bytes at offset `o` covers. -/
def byteMask (o n : Nat) : Word := BitVec.ofNat 64 ((2 ^ (8 * n) - 1) * 2 ^ (8 * (o % 8)))

/-- A write of `n` bytes at offset `o` of the region. -/
def ctlWrite (s : State) (who : Agent) (o n : Nat) (v : Word) : State :=
  ctlWriteWord s who (o / 8 * 8) (v <<< (8 * (o % 8))) (byteMask o n)

/-- A read of `n` bytes at offset `o` of the region. -/
def ctlReadN (s : State) (o n : Nat) : Word :=
  (ctlRead s (o / 8 * 8) >>> (8 * (o % 8))) &&& BitVec.ofNat 64 (2 ^ (8 * n) - 1)

/-! ### Reads and writes at the home of an address (R106, R107) -/

/-- The value of `n` bytes where no poison or device is concerned. -/
def readMem (s : State) (a n : Nat) : Word := BitVec.ofNat 64 (numAt s a n)

/-- What a read of any region returns: a register, memory, or a value that the outside party chooses (R106; entry 19). -/
def readHome (s : State) (a n : Nat) : Word :=
  match rowOf a with
  | .ctl => ctlReadN s (a - ctlBase) n
  | .root _ | .peer => Config.word s.tick a &&& BitVec.ofNat 64 (2 ^ (8 * n) - 1)
  | _ => readMem s a n

/-- A word of a window that is written whole is poisoned no more (R409). -/
def windowClean (s : State) (a n : Nat) : State :=
  s.modPkg fun p => { p with poison := clearPoison p.poison a n, l2bad := clearPoison p.l2bad a n }

/-- Perform a write of the low `n` bytes of `v`. -/
def writeHome (s : State) (who : Agent) (a n : Nat) (v : Word) : State :=
  match rowOf a with
  | .ctl => ctlWrite s who (a - ctlBase) n v
  | .root _ => (windowClean s a n).modPkg fun p => { p with out := p.out ++ [.busWrite (BitVec.ofNat 52 a) v (Fin.ofNat 4 n.log2)] }
  | .peer => (windowClean s a n).modPkg fun p => { p with
      out := p.out ++ [.peerWrite (peerTarget s a).1 (BitVec.ofNat 52 (peerTarget s a).2) v (Fin.ofNat 4 n.log2)] }
  | _ => rawStore s a (toBytes v n)

/-- The bytes at an address of any region, which another agent than a scalar access reads. -/
def homeBytes (s : State) (a n : Nat) : List Byte :=
  match rowOf a with
  | .ctl | .root _ | .peer => (wordParts a n).flatMap fun p => toBytes (readHome s p.1 p.2) p.2
  | _ => bytesAt s a n

/-- Bytes are written at an address of any region, to a window or a register block unit by unit (R106). -/
def homeStore (s : State) (who : Agent) (a : Nat) (bs : List Byte) : State :=
  match rowOf a with
  | .ctl | .root _ | .peer => (wordParts a bs.length).foldl (fun s p =>
      writeHome s who p.1 p.2 (BitVec.ofNat 64 (ofBytes ((bs.drop (p.1 - a)).take p.2)))) s
  | _ => rawStore s a bs

/-- The device writes bytes for world `w`, performed and checked at their home (R106, R343). -/
def devStore (s : State) (w : Bool) (a : Nat) (bs : List Byte) : State :=
  dwCheck (homeStore s (.core w) a bs) a bs.length deviceWriter

/-- Mbailan writes bytes, performed and checked at their home (R106, R343). -/
def mgmtStore (s : State) (a : Nat) (bs : List Byte) : State := dwCheck (homeStore s .mgmt a bs) a bs.length deviceWriter

/-! ### What Mbailan writes (R316, R334, R425) -/

/-- Mbailan writes the report at the 32-byte aligned physical address (R316; entry 22), sets DONE and clears BUSY. -/
def attestStep (s : State) : State :=
  if bit (ctl s 0x5002C8) 1 then setCtl (mgmtStore s (fldN (ctl s 0x5002C0) 5 47 * 32) (attReport s)) 0x5002C8 1 else s

/-- Once every context of the stop is quiet, the records are written and ST becomes 2 (R333, R334). -/
def settleStop (s : State) : State :=
  match s.pkg.stopLid with
  | none => s
  | some lid =>
    let s := if stopState s = 1 then (ctxsOf s lid).foldl unstartWaiting s else s
    if stopState s = 1 ∧ (ctxsOf s lid).all (stopQuiet s) then
      let base := fldN (ctl s 0x800010) 8 44 * 256
      let s := (ctxsOf s lid).foldl (fun s x => mgmtStore s (base + 256 * (4 * (lcore s).toNat + x.val)) (stopVector s x)) s
      setCtl s 0x800008 2
    else s

/-- The last acknowledgement (R425): NDONE, DONE, and the post to PCNT, a physical address (entry 22). -/
def patchFinish (s : State) : State :=
  match s.pkg.patch with
  | none => s
  | some p =>
    let st := ctl s 0xF00228
    let s := setCtl (s.modPkg ({ · with patch := none })) 0xF00228 ((fld st 32 32 + 1) ++ ((fld st 0 32 &&& ~~~2#32) ||| 1#32))
    if p.pcnt = 0 then s
    else
      let a := p.pcnt.toNat
      dwNote (writeHome s .mgmt a 8 (readHome s a 8 + 1)) a 8 deviceWriter true

end Sys2Proof.Machine
end

