-- ==== Sys2Proof/Machine/Ops.lean ====
section
/-! DEFINITION. The fault log (R362, R363), posts of the device (R127), the halt line (R353 to R355), taking a trap (R358),
ending and aborting a launch (R361), and the construction-map event (R365). -/
namespace Sys2Proof.Machine

open Bits

/-! ### The fault log (R362, R363) -/

/-- Send MSI-X vector or a system-core interrupt to the owner (R363). -/
def notifyOwner (s : State) : State :=
  let m := if fldN (ctl s 0x100) 0 3 = 2 then OutMsg.msix (fld (ctl s (oFlog + 0x10)) 0 6) else .sysIrq
  s.modPkg fun p => { p with out := p.out ++ [m] }

/-- Write a fault-log record (R363): the eight words of the record. -/
def faultLog (s : State) (kind c1 c2 : BitVec 8) (lid : BitVec 16) (name tpc pc2 val addr : Word) : State :=
  let idx := ctl s (oFlog + 8)
  let base := fldN (ctl s oFlog) 12 40 * 0x1000
  let w0 : Word := 0#16 ++ lid ++ 0#8 ++ c2 ++ c1 ++ kind
  let s := if base = 0 then s else
    let a := base + 64 * (idx.toNat % 64)
    mgmtStore s a ([w0, name, tpc, pc2, val, now s, addr, 0].flatMap fun w => toBytes w 8)
  notifyOwner (setCtl s (oFlog + 8) (idx + 1))

/-! ### Launches -/

/-- A post of `v` to the 8-byte counter at `va` through a root (R127): performed at its home. -/
def postRoot (s : State) (root : Word) (world : Bool) (va : VAddr) (v : Word) : Except Flt State :=
  if va.toNat % 8 ≠ 0 then .error (accFlt 0x10 3 va)
  else match xlateRoot s root world 3 va with
    | .error f => .error f
    | .ok t =>
      let a := t.pa.toNat
      .ok (dwNote (writeHome s (.core t.world) a 8 (readHome s a 8 + v)) a 8 deviceWriter true)

/-- The slots and banks that a context owns become FREE, and the bands it owns RELEASED (R361). -/
def scrubComb (s : State) (x : CtxId) : State :=
  let s := releaseComb s x
  bankIds.foldl (fun s i => let b := s.bank i; if b.alc = x ∧ b.state ≠ 0 then s.setBank i { b with state := 0 } else s) s

/-- A context with no task takes its state at creation (R361); it keeps nothing of the task. -/
def scrub (s : State) (x : CtxId) : State :=
  let s := releaseNd (scrubComb (flushHits s x) x) x
  let s := s.setCx x (Ctx.create (fld s.core.srseed 0 32) x.val)
  if s.core.exp = some x then s.modCore ({ · with exp := none }) else s

/-- It enters the load queue. -/
def Acc.isLoad (a : Acc) : Bool := match a.op with | .read => true | _ => false

/-- The end of a launch: its completion write, its watch entry, its LID (R49, R279, R310, R397). -/
def endLaunch (s : State) (l : Launch) (v : Word) : State :=
  let s := match postRoot s l.root l.world l.done v with
    | .ok s => s
    | .error f => faultLog s 6 f.cause 0 l.lid 0 0 0 f.val (l.done.setWidth 64)
  s.modPkg fun p => { p with
    launches := p.launches.filter (·.lid != l.lid)
    cbarGen := p.cbarGen.filter (·.1 != l.lid)
    watch := match l.watch with
      | none => p.watch
      | some (t, i) => (p.watch.map fun w => if w.tbl = t ∧ w.idx = i then { w with live := w.live - 1 } else w).filter
          fun w => !(w.state == 3 && w.live == 0) }

/-- A store or atomic that the context has issued is not performed (R354). -/
def Ctx.storesLeft (c : Ctx) : Bool := c.acc.any fun a => !a.isLoad && !a.done

/-- A context of a launch that is aborted stops, and takes no trap (R361); its issued stores and atomics are performed
(R354). -/
def Ctx.dies (c : Ctx) : Ctx :=
  { c with dying := true, line := true, trap := none, later := none, saving := none, halted := false, svpc := none,
           acc := (c.acc.filter fun a => !a.isLoad).map fun a => { a with held := false } }

/-- Abort a launch (R361): every context of it stops. Its completion scrubs them once their stores are performed. -/
def abortLaunch (s : State) (lid : BitVec 16) : State :=
  let xs := ctxsOf s lid
  match launchOf s lid with
  | none => xs.foldl scrub s
  | some _ =>
    (xs.foldl (fun s x => s.modCx x (·.dies)) s).modPkg fun p => { p with
      launches := p.launches.map fun l => if l.lid = lid then { l with aborted := true } else l }

/-! ### The halt line (R353 to R355) -/

/-- The contexts of the partition of `x` (R353). -/
def partitionOf (s : State) (x : CtxId) : List CtxId :=
  if bit (s.cx x).tctl 0 then (if (s.cx x).task.isSome then ctxsOf s (s.cx x).lid else [x]) else [x]

/-- A cause is an event, not a fault (R352). -/
def isEvent (cause : BitVec 8) : Bool := cause == 0x38 || decide (0x80 ≤ cause.toNat)

/-- A context has a fault that it has not taken, or runs its handler for one (R353). -/
def Ctx.faulting (c : Ctx) : Bool := c.trap.any (fun r => !isEvent r.cause) || (c.inh && !isEvent (fld c.tcause 0 8))

/-- A context keeps the line of its partition high (R353). -/
def Ctx.keepsLine (c : Ctx) : Bool := c.inh || c.trap.any fun r => !isEvent r.cause

/-- The line rises over the partition (R353); a context of it that has no fault of its own is HELD. -/
def raiseLine (s : State) (x : CtxId) : State :=
  let wide := bit (s.cx x).tctl 0
  (partitionOf s x).foldl (fun s y =>
    let c := s.cx y
    let c := { c with wide := c.wide || wide }
    if c.line then s.setCx y c
    else s.setCx y { c with line := true, q := c.q.map fun q => { q with lineAt := now s, skid := 0 } }) s

/-- A context that the line stops (R353): it has not faulted itself, or it runs no handler. One that runs its handler for an
event stands still only while another context of the launch has a fault (entry 92). -/
def lineStops (s : State) (x : CtxId) : Bool :=
  let c := s.cx x
  c.line && !(c.inh && (c.faulting || !(c.wide && (ctxsOf s c.lid).any fun y => y != x && (s.cx y).faulting)))

/-- Lines fall (R353): that of a partition no context of which runs a handler or has an untaken fault. HELD contexts and stopped
engines go on. -/
def settleLine (s : State) (x : CtxId) : State :=
  let c := s.cx x
  let wide := c.wide && c.task.isSome && (ctxsOf s c.lid).any fun y => (s.cx y).keepsLine
  if !c.line then s
  else if c.keepsLine || wide then s.setCx x { c with wide := wide }
  else s.setCx x { (c.setStat 3 false) with line := false, wide := false, seqf := none, q := c.q.map fun q => { q with stop := false } }

/-- A context that runs again is HELD no more (R353). -/
def unhold (s : State) (x : CtxId) : State :=
  if (s.cx x).isHeld && !lineStops s x then
    s.modCx x fun c => { (c.setStat 3 false) with q := c.q.set 0 { c.q.get 0 with stop := false } }
  else s

/-- The lines of the core's contexts, once a context has left a handler or its task (R353). -/
def settleLines (s : State) : State := ctxs.foldl unhold (ctxs.foldl settleLine s)

/-- A context that takes a task of a launch under a raised line is of its partition (R353). -/
def joinLine (s : State) (x : CtxId) : State :=
  let c := s.cx x
  if (ctxsOf s c.lid).any fun y => y != x && (s.cx y).wide then
    s.setCx x { c with line := true, wide := true, q := c.q.map fun q => { q with lineAt := now s, skid := 0 } }
  else s

/-- The entry's header failed its checks (R369, R378, R379). -/
def Run.headBad (r : Run) : Bool := r.early && r.fault.any fun f => f.1 == 0x01 || f.1 == 0x07

/-- The bytes that `k` units of a CPE entry have covered (R355): 64 each, but a row of a CPY2D ends within a unit (R184), an ADRAIN
goes row by row (R220), and a CMC writes each unit to every core of its group (R187). -/
def cpeBytes (s : State) (r : Run) (k : Nat) : Nat :=
  match fldN r.hdr 0 8 with
  | 0 | 4 => min (64 * k) (fldN r.c 0 32)
  | 1 =>
    let n := fldN r.c 0 16
    if n = 0 then 0 else k / unitsIn n * n + min (64 * (k % unitsIn n)) n
  | 3 => k * (fldN r.a 16 6 + 1) * drainSize (fldN r.c 0 5)
  | 5 => match r.x with
    | .desc d =>
      let m := (cmcCores s d).length
      let n := dfield d 16 4
      if m = 0 then 0 else m * min (64 * (k / m)) n + k % m * (min (64 * (k / m + 1)) n - min (64 * (k / m)) n)
    | _ => 0
  | _ => 64 * k

/-- The progress of a started entry as bytes 20 to 23 of a stop record give it (R355, R369): the micro-order step, the linear
step index of a nest, or the bytes that its units have covered. -/
def progressOf (s : State) (e : Eng) (r : Run) : BitVec 32 :=
  if r.headBad then BitVec.allOnes 32
  else match r.x with
  | .table _ step _ _ _ _ _ => BitVec.ofNat 32 step
  | .desc d => BitVec.ofNat 32 (if e = .gxe then r.prog * 2 ^ (d.getD 28 0).toNat else cpeBytes s r r.prog)
  | .coll .. => BitVec.ofNat 32 r.prog
  | _ =>
    BitVec.ofNat 32 (match e with
      | .mxe | .vxe => r.prog
      | .opp => if r.prog = 0 then 0 else if r.prog = 1 then 60 else 64
      | .cpe => cpeBytes s r r.prog
      | .clp => min (64 * r.prog) (fldN r.c 0 32)
      | _ => 64 * r.prog)

/-- An entry is covered by its window (R418). -/
def covered (q : EngQ) : Bool := (q.window.head?.map (·.tsm)).getD false && q.window.all (!·.nr)

/-- NR in the header of an unstarted head (R355). -/
def headNr (s : State) (x : CtxId) (q : EngQ) : Bool :=
  match xlate s x 5 (va56 q.qhead) with
  | .ok t => bit (wordAt s t.pa.toNat) 29
  | .error _ => false

/-- The number of the entry at the head of a queue: started, the next of a chain, or the next of the ring. -/
def EngQ.headNr (q : EngQ) : Word :=
  match q.run, q.chain with
  | some r, _ => r.seq
  | none, some c => c.seq
  | none, none => (q.pend.head?.map (·.seq)).getD 0

/-- The 64-byte stop record of engine `e` for context `x` (R355); an entry past its cycle bound is in state 2 (R403). That of SEQ
is in state 3 when the sequencer has faulted (R367; entry 115). -/
def stopRecord (s : State) (x : CtxId) (e : Eng) : List Byte :=
  let c := s.cx x
  let q := c.eq e
  let n := engNum e
  let st : Nat := match q.run with
    | some r => if r.fault.any (·.1 != 0x20) then 3 else 2
    | none => if q.pend.isEmpty && q.chain.isNone then 0 else 1
  let flt := if e = .seq then c.seqf else q.run.bind (·.fault)
  let st := if e = .seq then (if c.seqf.isSome then 3 else 0) else st
  let cause : BitVec 8 := if st = 3 then (flt.map (·.1)).getD 0 else 0
  let val : Word := (flt.map (·.2)).getD 0
  let nr := match q.run with | some r => bit r.hdr 29 | none => st == 1 && headNr s x q
  let prog : BitVec 32 := (q.run.map (progressOf s e)).getD 0
  toBytes (entryName s x n (if e = .seq then 0 else q.headNr)) 8
    ++ toBytes (if e = .seq then c.pc.setWidth 64 else q.qhead) 8
    ++ [BitVec.ofNat 8 st, cause, BitVec.ofNat 8 q.skid,
        BitVec.ofNat 8 ((if nr then 1 else 0) + (if covered q then 2 else 0))]
    ++ toBytes prog 4 ++ toBytes val 8 ++ toBytes q.lineAt 8 ++ toBytes (now s) 8
    ++ toBytes ((q.window.head?.map (·.seq)).getD 0) 8 ++ toBytes (0 : Word) 8

/-- Every engine of the context has stopped. -/
def allStopped (s : State) (x : CtxId) : Bool := (Eng.seq :: engines).all fun e => (s.eq x e).stop

/-! ### Taking a trap (R358, R361) -/

/-- The first of the record kinds of R363 for a context-fatal fault. -/
def fatalKind (c : Ctx) (nr : Bool) : BitVec 8 := if nr then 3 else if c.inh then 1 else 2

/-- ContextFatal (R361): the double-fault record, then the launch is aborted. -/
def contextFatal (s : State) (x : CtxId) (cause : BitVec 8) (val : Word) (nr : Bool) : State :=
  let c := s.cx x
  let k := fatalKind c nr
  let s := faultLog s k (if k = 1 then c.cause0 else cause) (if k = 1 then cause else 0) c.lid
    (entryName s x 0 0) ((if k = 1 then c.tpc0 else c.pc).setWidth 64) (if k = 1 then c.pc.setWidth 64 else 0) val 0
  match c.task with
  | some _ => abortLaunch s c.lid
  | none => scrub s x

/-- CTX.TCAUSE for a trap (R356). -/
def TrapReq.word (r : TrapReq) : Word :=
  let hw := decide (0x30 ≤ r.cause.toNat) && decide (r.cause.toNat ≤ 0x32)
  (fld r.seq 0 48) ++ 0#3 ++ b1 hw ++ b1 r.prec ++ r.eng ++ r.cause

/-- Enter the handler (R358): TPC, TCAUSE, TVAL are written, the exposed slot is released, INH is set, and the PC goes
to word 0 of the TVEC line. -/
def enterHandler (s : State) (x : CtxId) (r : TrapReq) : State :=
  let c := s.cx x
  let c := { c with q := c.q.set 0 { c.q.get 0 with stop := false }, tpc := c.pc, tpc0 := c.pc, cause0 := r.cause, tcause := r.word, tval := r.val, trap := none, wait := none, vwait := none, ackrd := none,
                    first := false, prevMode := none, landing := false,
                    pc := BitVec.ofNat 56 (fldN c.tvec 7 49 * 128 + 8) }
  let s := s.setCx x (((c.setStat 0 true).setStat 3 false).setStat 5 false)
  if s.core.exp = some x then s.modCore ({ · with exp := none }) else s

/-- The trap recorded for `x` is taken when its accesses are performed and landed and, for a fault, its stop records
are written (R358); a context that STOPREQ has stopped takes it after RESUME (R333; entry 98). -/
def trapReady (s : State) (x : CtxId) (r : TrapReq) : Bool :=
  (s.cx x).acc.isEmpty && !(s.cx x).halted && (isEvent r.cause || allStopped s x)

/-- The trap that waits at the boundary of a context is overtaken by a fault (R351, R367, R388): a MAPCHG sets MAPP, a TRAP is
taken after the fault's handler returns (entry 90). -/
def Ctx.overtaken (c : Ctx) : Ctx :=
  match c.trap with
  | none => c
  | some q => if q.cause = 0x38 then c.setStat 2 true else { c with later := some q }

/-- A fault of the sequencer is shown by its stop record (R355, R367). -/
def Ctx.seqFault (c : Ctx) (r : TrapReq) : Ctx :=
  if r.eng = 0 && !isEvent r.cause then { c with seqf := some (r.cause, r.val) } else c

/-- TakeTrap (R358), as far as it can go: context-fatal with no handler or inside one; otherwise the line rises for a
fault, and the trap is entered at once or recorded until the accesses are performed and the engines have stopped. A
second fault before the first is taken sets MULT (R367). -/
def takeTrap (s : State) (x : CtxId) (r : TrapReq) : State :=
  let c := s.cx x
  if c.dying then s
  else if c.inh || !c.inst then contextFatal s x r.cause r.val false
  else if c.trap.any fun q => isEvent r.cause || !isEvent q.cause then s.modCx x fun c => (c.setStat 4 true).seqFault r
  else
    let s := s.modCx x fun c => ({ c.overtaken with trap := some r } : Ctx).seqFault r
    let s := if isEvent r.cause then s else raiseLine s x
    if trapReady s x r then enterHandler s x r else s

/-- A precise fault of the instruction that issues (R351, R368). -/
def preciseFault (s : State) (f : Flt) : State := takeTrap s s.core.cur ⟨f.cause, 0, true, 0, f.val⟩

/-- A fault while the context is SAVING (R366, R367): TCAUSE and TVAL are recorded and PEND is set; a later one sets MULT. -/
def Ctx.pended (c : Ctx) (q : TrapReq) : Ctx :=
  if c.trap.any fun r => !isEvent r.cause then (c.setStat 4 true).seqFault q
  else { (c.overtaken.setStat 5 true) with trap := some q, tcause := q.word, tval := q.val }

/-- An entry of context `x` on engine `e` faults (R351, R364, R369): its head is marked faulted, and the trap is
imprecise; NR makes it context-fatal (R361). -/
def entryFault (s : State) (x : CtxId) (e : Eng) (f : Flt) : State :=
  match (s.eq x e).run with
  | none => takeTrap s x ⟨f.cause, BitVec.ofNat 3 (engNum e), false, 0, f.val⟩
  | some r =>
    let s := if e = .cpe then flushHits s x else s
    let s := s.modEq x e fun q => { q with run := some { r with fault := some (f.cause, f.val) } }
    if bit r.hdr 29 then contextFatal s x f.cause f.val true
    else
      let q : TrapReq := ⟨f.cause, BitVec.ofNat 3 (engNum e), false, r.seq, f.val⟩
      if (s.cx x).saving.isSome then s.modCx x (·.pended q) else takeTrap s x q

/-! ### The construction-map event (R330, R365) -/

/-- A pending MAPCHG is due at this boundary (R365). -/
def mapDue (s : State) (x : CtxId) : Bool :=
  let c := s.cx x
  bit c.tstat 2 && bit c.tctl 1 && c.inst && !c.inh && c.trap.isNone

/-- The pending MAPCHG is taken (R365). -/
def takeMap (s : State) (x : CtxId) : State :=
  takeTrap (s.modCx x (·.setStat 2 false)) x ⟨0x38, 0, false, 0, (s.cx x).mapval⟩

/-- The instruction at this boundary, which led from `s` to `u`, raised a precise fault. -/
def faulted (u : State) (x : CtxId) : Bool := (u.cx x).faulting

/-- A boundary at which a MAPCHG is due: it is taken in place of the instruction, unless that faults (R365, R388). -/
def mapTurn (x : CtxId) (s u : State) : State := if mapDue s x && !faulted u x then takeMap s x else u

end Sys2Proof.Machine
end

