-- ==== Sys2Proof/Machine/Flags.lean ====
section
/-! DEFINITION. Conditions and flags: the compare codes and combinations of format P (R137, R157), and the sticky flags
CTX.FMTST (R75) and ACC (R218). -/
namespace Sys2Proof.Machine

open Bits

/-- The compare `a cc b` (R137). The codes 0xC to 0xF encode no instruction (R373). -/
def condHolds (cc : BitVec 4) (a b : Word) : Bool :=
  match cc.toNat with
  | 0x0 => a == b
  | 0x1 => a != b
  | 0x2 => a.slt b
  | 0x3 => b.sle a
  | 0x4 => a.ult b
  | 0x5 => b.ule a
  | 0x6 => b.slt a
  | 0x7 => a.sle b
  | 0x8 => b.ult a
  | 0x9 => a.ule b
  | 0xA => (a &&& b) != 0
  | _ => (a &&& b) == 0

/-- How `fn` combines the compare with the old predicate (R137). -/
def combine (f : BitVec 4) (old c : Bool) : Bool :=
  match f.toNat with
  | 0 => c
  | 1 => old && c
  | 2 => old || c
  | _ => old ^^ c

/-- CTX.FMTST.SATF, NANZ and I4RES as a flag set (R75). -/
def fSat : BitVec 3 := 1
/-- CTX.FMTST.NANZ (R75). -/
def fNanz : BitVec 3 := 2
/-- CTX.FMTST.I4RES (R75). -/
def fI4res : BitVec 3 := 4
/-- ACC.UNALLOC (R218). -/
def aUnalloc : BitVec 2 := 1
/-- ACC.SUSPECT (R218). -/
def aSuspect : BitVec 2 := 2

/-- The flags that an entry set are set in its context when it completes (R75, R218). -/
def Ctx.setFlags (c : Ctx) (f : BitVec 3) (a : BitVec 2) : Ctx := { c with fmtst := c.fmtst ||| f, accf := c.accf ||| a }

end Sys2Proof.Machine
end

