-- ==== Sys2Proof/Machine/Home.lean ====
section
/-! DEFINITION. Accesses performed at their homes (R106, R107): scratchpad-section actions (R92, R280, R398), poison and
the RAS record (R409, R412), atomics (R119, R167), the order of a context's accesses (R110 to R114, R198), landing
(R52, R196), and engine units (R108). -/
namespace Sys2Proof.Machine

open Bits

/-! ### Homes (R106, R114) -/

/-- The port that leads to a home outside the package: root ports 0 to 3, links from 4 (R124, R125). -/
def portOf (h : Home) : Option Nat :=
  match h with | .root i => some i | .peer l _ => some (4 + l) | _ => Option.none

/-- Homes(S, C) of R114 for the modelled core. -/
def inScope (s : State) (scope : Nat) (h : Home) : Bool :=
  let k := ownCol s
  match scope, h with
  | 0, _ => false
  | 1, .vault j => j == k
  | 2, .vault j => j / 8 == k / 8
  | 2, .slice n => n == k / 8
  | 3, .vault j => j / 16 == k / 16
  | 3, .slice n => n / 2 == k / 16
  | 4, .vault _ | 4, .slice _ | 4, .block _ => true
  | 5, .none => false
  | 5, _ => true
  | _, _ => false

/-! ### Errors (R408 to R412) -/

/-- The RAS unit of a memory address (R410, R412): that of the L2 slice where an error of its line poisoned the word. -/
def rasUnit (s : State) (a : Nat) : Nat :=
  if s.pkg.l2bad.contains (a / 8) then 3
  else match rowOf a with | .vault _ => 0 | .ndram _ => 1 | .hbm _ => 2 | _ => 7

/-- Record an uncorrectable error (R412): address, unit, outcome 1 propagated, 2 rebuilt, 3 fault, and the core. -/
def rasRecord (s : State) (a unit out : Nat) (core : Option (BitVec 9)) : State :=
  let l : BitVec 9 := core.getD 0x1FF
  setCtl (setCtl s 0xF00100 (BitVec.ofNat 64 a)) 0xF00108
    (0#39 ++ l ++ BitVec.ofNat 8 out ++ 0#4 ++ BitVec.ofNat 4 unit)

/-- Saturating increment of a 32-bit field. -/
def satInc (v : BitVec 32) : BitVec 32 := if v = BitVec.allOnes 32 then v else v + 1

/-- CNT[u].CE + 1 (R412). -/
def countCE (s : State) (u : Nat) : State :=
  let v := ctl s (oCnt u)
  setCtl s (oCnt u) (fld v 32 32 ++ satInc (fld v 0 32))

/-- CNT[u].CE rises by `n` (R412). -/
def countCEs (s : State) (u n : Nat) : State :=
  let v := ctl s (oCnt u)
  setCtl s (oCnt u) (fld v 32 32 ++ BitVec.ofNat 32 (min (fldN v 0 32 + n) (2 ^ 32 - 1)))

/-- CNT[u].UE + 1 (R412). -/
def countUE (s : State) (u : Nat) : State :=
  let v := ctl s (oCnt u)
  setCtl s (oCnt u) (satInc (fld v 32 32) ++ fld v 0 32)

/-- The RAS unit of a store of the core (R412); codebook tables count with the comb (entry 95). -/
def storeUnit : Store → Nat
  | .tree _ _ => 9
  | .bank _ _ => 6
  | .slot _ | .codebook _ => 5
  | _ => 4

/-- UCE at a store of the core (R410, R411). -/
def storeUce (f : Store) : Flt := ⟨0x30, BitVec.ofNat 64 (storeUnit f * 2 ^ 56)⟩

/-- The uncorrectable error of a store is met: it is counted and recorded (R412), with outcome 3. -/
def storeError (s : State) (f : Store) : State :=
  (rasRecord (countUE s (storeUnit f)) 0 (storeUnit f) 3 (some (lcore s))).modCore ({ · with flaw := none })

/-- An uncorrectable error in a register, tag, scale, mask, token queue or queue register of context `x` is met (R411): UCE with
ENG 0; in a save it waits for the resume (R366). The 16th within 1 s removes the core (R427). -/
def ctxError (s : State) (x : CtxId) (f : Store) : State :=
  let s := storeError s f
  let s := match logicalOf s s.core.phys with | some c => noteErr s (.core c) | none => s
  let r : TrapReq := ⟨0x30, 0, false, 0, (storeUce f).val⟩
  if (s.cx x).saving.isSome then s.modCx x (·.pended r) else takeTrap s x r

/-- TVAL of UCE for a word of memory at virtual address `va` (R410). -/
def uceVal (va : VAddr) (unit : Nat) : Word := 0#4 ++ BitVec.ofNat 4 unit ++ va

/-! ### Scratchpad sections (R92, R93, R280, R398) -/

/-- The virtual address of offset `off` in the image of a launch for a logical core (R280). -/
def imgVa (s : State) (lid : BitVec 16) (c off : Nat) : VAddr :=
  BitVec.ofNat 56 (fldN (ctl s oSpImg) 37 19 * 2 ^ 37 + fldN lid 0 6 * 2 ^ 31 + c * 2 ^ 22 + off)

/-- A write of the device to memory is checked at its home, where a watchpoint is armed (R343). -/
def devCheck (s : State) (a n : Nat) : State := if dwArmed s then dwCheck s a n deviceWriter else s

/-- Both ranges lie in memory. -/
def inMem (a : Nat) : Bool := match rowOf a with | .hbm _ | .vault _ | .ndram _ => true | _ => false

/-- A copied poisoned word poisons the word it is copied to (R409), and is recorded. -/
def carryPoison (s : State) (src dst : Nat) (us : List Nat) : State :=
  us.foldl (fun s u => addPoison (rasRecord s (8 * u) (rasUnit s (8 * u)) 1 none) (8 * u - src + dst) 8) s

/-- Copy `n` bytes (an image access of the device), performed and checked at their home (R106, R343). -/
def memCopy (s : State) (w : Bool) (src dst n : Nat) : State :=
  let us := (unitsOf src n).filter fun u => s.pkg.poison.contains u
  if s.pkg.watch.isEmpty && s.pkg.poison.isEmpty && inMem src && inMem dst then
    let cells := s.mem.filter fun c => decide (src ≤ c.1) && decide (c.1 < src + n)
    let rest := s.mem.filter fun c => !(decide (dst ≤ c.1) && decide (c.1 < dst + n))
    devCheck { s with mem := cells.foldl (fun m c => memSet m (c.1 - src + dst) c.2) rest } dst n
  else carryPoison (devCheck (homeStore s (.core w) dst (homeBytes s src n)) dst n) src dst us

/-- Fill `n` bytes of the vault with zeros (R92). -/
def memZero (s : State) (dst n : Nat) : State :=
  devCheck (if s.pkg.watch.isEmpty && s.pkg.poison.isEmpty then
    { s with mem := s.mem.filter fun c => !(decide (dst ≤ c.1) && decide (c.1 < dst + n)) }
  else rawStore s dst (List.replicate n 0)) dst n

/-- The world of a launch (R280). -/
def launchWorld (s : State) (lid : BitVec 16) : Bool := ((launchOf s lid).map (·.world)).getD false

/-- Move a 64 KiB section to (`out`) or from its launch's image, in 16 KiB pages (R92, R280). -/
def sectionMove (s : State) (lid : BitVec 16) (c sec base : Nat) (out : Bool) : Except Flt State :=
  (List.range 4).foldl (fun r i => match r with
    | .error f => .error f
    | .ok s =>
      match xlateRoot s (ctl s oSpRoot) (launchWorld s lid) (if out then 2 else 1) (imgVa s lid c (sec * 0x10000 + i * 0x4000)) with
      | .error f => .error f
      | .ok t => .ok (if out then memCopy s t.world (base + i * 0x4000) t.pa.toNat 0x4000
                      else memCopy s t.world t.pa.toNat (base + i * 0x4000) 0x4000)) (.ok s)

/-- The out-bit word of a launch for a logical core, where it translates (R280). -/
def outWord (s : State) (lid : BitVec 16) (c : Nat) (kind : Nat) : Except Flt Nat :=
  match xlateRoot s (ctl s oSpRoot) (launchWorld s lid) kind (imgVa s lid c 0x300000) with
  | .error f => .error f
  | .ok t => .ok t.pa.toNat

/-- Out bit `i` of a launch for a logical core. -/
def outBit (s : State) (lid : BitVec 16) (c i : Nat) : Except Flt Bool :=
  match outWord s lid c 1 with | .error f => .error f | .ok a => .ok (bit (readHome s a 8) i)

/-- Set or clear it. -/
def writeOutBit (s : State) (lid : BitVec 16) (c i : Nat) (b : Bool) : Except Flt State :=
  match outWord s lid c 2 with
  | .error f => .error f
  | .ok a => .ok (devStore s (launchWorld s lid) a (toBytes (setFld (readHome s a 8) i (b1 b)) 8))

/-- A kind 6 record and the abort of a launch for a fault of its image (R398). -/
def imageFault (s : State) (lid : BitVec 16) (f : Flt) : State :=
  abortLaunch (faultLog s 6 f.cause 0 lid 0 0 0 f.val (f.val &&& ones 55 0)) lid

/-- Set or clear an out bit; a write that faults has the fate of an image access (R280, R398). -/
def setOutBit (s : State) (lid : BitVec 16) (c i : Nat) (b : Bool) : State :=
  match writeOutBit s lid c i b with | .ok s => s | .error f => imageFault s lid f

/-- A write-out of section `i` of launch `m` into its image for logical core `c` faulted: its out bit is set (R398). -/
def lostSection (s : State) (m : BitVec 16) (c i : Nat) (f : Flt) : State :=
  imageFault (match writeOutBit s m c i true with | .ok s => s | .error _ => s) m f

/-- Write a section of launch `m` out to its image (R92, R398). -/
def writeOut (s : State) (m : BitVec 16) (c n : Nat) : State :=
  let base := vaultBase (n / 192) + n % 192 * 0x10000
  match sectionMove s m c (n % 48) base true with
  | .ok s => setOutBit s m c (n % 48) true
  | .error f => lostSection s m c (n % 48) f

/-- A section of launch `lid` is loaded back where its out bit says so, and filled with zeros otherwise (R92). -/
def loadBack (s : State) (lid : BitVec 16) (c i base : Nat) : Except Flt State :=
  match outBit s lid c i with
  | .error f => .error f
  | .ok false => .ok (memZero s base 0x10000)
  | .ok true => match sectionMove s lid c i base false with
    | .error f => .error f
    | .ok s => writeOutBit s lid c i false

/-- The action of R92 before an access of an agent of launch `lid` to address `a`; false: the access is not performed
(R398). -/
def sectionAct (s : State) (lid : BitVec 16) (a : Nat) : State × Bool :=
  match sectionOf a with
  | none => (s, true)
  | some n =>
    if secTag s n = some lid then (s, true)
    else
      let c := ((logicalOf s (BitVec.ofNat 9 (n / 48))).getD 0).toNat
      let s := match secTag s n with | some m => writeOut s m c n | none => s
      let base := vaultBase (n / 192) + n % 192 * 0x10000
      match loadBack s lid c (n % 48) base with
      | .ok s => (setSecTag s n (some lid), true)
      | .error f => (imageFault (setSecTag (memZero s base 0x10000) n none) lid f, false)

/-- The launch a context acts for (R92). -/
def actsFor (s : State) (x : CtxId) : Option (BitVec 16) :=
  if (s.cx x).task.isSome then some (s.cx x).lid else none

/-- The section action of an access of context `x` or its engines. -/
def sectionFor (s : State) (x : CtxId) (a : Nat) : State × Bool :=
  match actsFor s x with | some l => sectionAct s l a | none => (s, true)

/-! ### Stopping (R353 to R355) -/

/-- Bytes are stored at a virtual address of context `x`, when it translates for writing, by engine `e` for the record named
`name`: section action (R92), home (R106), check (R343). -/
def storeVa (s : State) (x : CtxId) (e : Eng) (va : VAddr) (bs : List Byte) (name : Word) : State :=
  match xlate s x 2 va with
  | .error _ => s
  | .ok t =>
    let a := t.pa.toNat
    match sectionFor s x a with
    | (s, false) => s
    | (s, true) => hitCheck (homeStore s (.core t.world) a bs) (actsFor s x) a bs.length ⟨2, BitVec.ofNat 8 (engNum e), name, 0⟩

/-- Engine `e` writes its stop record at CTX.TREC + 64·e (R355). -/
def writeStop (s : State) (x : CtxId) (e : Eng) : State :=
  let d := stopRecord s x e
  storeVa s x e (va56 (s.cx x).trec + BitVec.ofNat 56 (64 * engNum e)) d (BitVec.ofNat 64 (ofBytes (d.take 8)))

/-- The halt line reaches engine `e` of context `x` (R354, R355): it stops, and writes its stop record, SEQ once the accesses that
it has issued are performed and landed. -/
def stopEngine (s : State) (x : CtxId) (e : Eng) : State :=
  let q := s.eq x e
  let c := s.cx x
  if q.stop || !c.line || c.dying || (e == .seq && (!lineStops s x || !c.acc.isEmpty)) then s
  else
    let s := match q.run with
      | some r => if isWaiting e r && r.fault.isNone then unstart s x e else s
      | none => s
    let s := s.modEq x e fun q => { q with stop := true }
    writeStop s x e

/-- A context that the line stops without a fault of its own is HELD once its records are written (R353, R355). -/
def holdCtx (s : State) (x : CtxId) : State :=
  if lineStops s x && allStopped s x && !(s.cx x).faulting && !(s.cx x).dying then s.modCx x (·.setStat 3 true) else s

/-! ### Atomics (R107, R167) -/

/-- The new value of an atomic of `n` bytes at home (R167). -/
def atomNew (op : AtomOp) (n : Nat) (old v cmp : Word) : Word :=
  let w := 8 * n
  let so := (old.setWidth w).toInt
  let sv := (v.setWidth w).toInt
  let uo := (old.setWidth w).toNat
  let uv := (v.setWidth w).toNat
  let cut (x : Word) : Word := (x.setWidth w).setWidth 64
  match op with
  | .swp => cut v
  | .add => cut (old + v)
  | .and => cut (old &&& v)
  | .or => cut (old ||| v)
  | .xor => cut (old ^^^ v)
  | .max => if so < sv then cut v else cut old
  | .min => if sv < so then cut v else cut old
  | .maxu => if uo < uv then cut v else cut old
  | .minu => if uv < uo then cut v else cut old
  | .cas => if uo = (cmp.setWidth w).toNat then cut v else cut old

/-! ### The accesses of a context (R110 to R114) -/

/-- Size of an access in bytes. -/
def Acc.size (a : Acc) : Nat := 2 ^ a.lsize.val
/-- A plain store may forward (R112, R119). -/
def Acc.isStore (a : Acc) : Bool := match a.op with | .write _ => true | _ => false
/-- Two accesses overlap (R111). -/
def Acc.overlaps (a b : Acc) : Bool := decide (a.pa.toNat < b.pa.toNat + b.size) && decide (b.pa.toNat < a.pa.toNat + a.size)
/-- The bytes of `a` are all covered by `b` (R112). -/
def Acc.covers (b a : Acc) : Bool := decide (b.pa.toNat ≤ a.pa.toNat) && decide (a.pa.toNat + a.size ≤ b.pa.toNat + b.size)

/-- Among accesses to one home, `b` comes before `a`: it left its queue earlier, or must (R110). -/
def ahead (b a : Acc) : Bool :=
  if b.left then !a.left || decide (b.ord < a.ord) else !a.left && b.isLoad == a.isLoad && decide (b.id < a.id)

/-- `b` is performed before `a` because of the bytes they touch or the class they have (R111, R113, R198). -/
def orders (b a : Acc) : Bool := b.overlaps a || (b.vol && a.vol) || a.post

/-- `b`, unperformed, keeps `a` from being performed (R110, R111, R113, R198): a write on its way keeps its place by the order
of its port (R124, R125). -/
def blocks (b a : Acc) : Bool :=
  !b.done && ((b.home == a.home && ahead b a && !b.sent) || (decide (b.id < a.id) && orders b a && !(b.sent && b.home == a.home && !a.vol && !a.post)))

/-- The value a plain load takes from a pending plain store that covers it (R112): the youngest overlapping store. -/
def forwarded (earlier : List Acc) (a : Acc) : Option Word :=
  if !a.isLoad || a.vol || a.test.isSome then none
  else match earlier.reverse.find? fun b => !b.isLoad && b.overlaps a with
    | none => none
    | some b => match b.op with
      | .write d => if b.covers a && !b.vol && !b.done then
          some ((d >>> (8 * (a.pa.toNat - b.pa.toNat))) &&& BitVec.ofNat 64 (2 ^ (8 * a.size) - 1)) else none
      | _ => none

/-- Accesses before the one with number `id`. -/
def before (l : List Acc) (id : Nat) : List Acc := l.takeWhile (·.id != id)

/-- Access `a` may leave its queue once those before it in the queue have (R110, R111, R113, R198, R343). -/
def mayLeave (c : Ctx) (a : Acc) : Bool :=
  !a.held && (!a.post || c.rootW == 0) && (before c.acc a.id).all fun b => b.done ||
    !((b.isLoad != a.isLoad && b.overlaps a && !b.left) || (b.vol && a.vol) || a.post || (b.test.isSome && !a.isStore))

/-- The accesses that leave their queue when `a` does: it, and those before it in its queue (R110). -/
def leavers (c : Ctx) (a : Acc) : List Acc :=
  if a.left then [] else (before c.acc a.id).filter (fun b => !b.left && !b.done && b.isLoad == a.isLoad) ++ [a]

/-- Nothing keeps the access `a` of a context, which may leave its queue, from being performed at its home (R110 to R114). -/
def clear (c : Ctx) (a : Acc) : Bool := (leavers c a).all (mayLeave c) && c.acc.all fun b => b.id == a.id || !blocks b a

/-- The access `a` of a context may be performed now (R110 to R114, R126, R198, R343). -/
def mayPerform (c : Ctx) (a : Acc) : Bool :=
  !a.done && !a.held && !a.sent && (!a.post || c.rootW == 0) &&
    (clear c a || ((forwarded (before c.acc a.id) a).isSome && (before c.acc a.id).all fun b => b.done || b.test.isNone))

/-- Change the access with number `id`. -/
def Ctx.modAcc (c : Ctx) (id : Nat) (f : Acc → Acc) : Ctx :=
  { c with acc := c.acc.map fun a => if a.id = id then f a else a }

/-- Accesses leave their queue in the order of the list (R110). -/
def Ctx.leave (c : Ctx) (l : List Acc) : Ctx :=
  l.foldl (fun c a => { c.modAcc a.id (fun a => { a with left := true, ord := c.nextOrd }) with nextOrd := c.nextOrd + 1 }) c

/-- Remove it. -/
def Ctx.dropAcc (c : Ctx) (id : Nat) : Ctx := { c with acc := c.acc.filter (·.id != id) }

/-- The watchpoint writer of a context's access (R344, R435). -/
def accWriter (s : State) (x : CtxId) (kind : BitVec 8) (a : Acc) : Writer :=
  ⟨kind, 0, entryName s x 0 0, a.pc.setWidth 64⟩

/-- Root port `i` has been written since its last zero-length read (R126). -/
def Ctx.wroteRoot (c : Ctx) (h : Home) : Ctx :=
  match h with
  | .root i => { c with rootW := setFld c.rootW i 1#1, rootN := if bit c.zlr i then setFld c.rootN i 1#1 else c.rootN }
  | _ => c

/-- Every access that may leave its queue does, in program order (R110, R114). -/
def Ctx.allLeft (c : Ctx) : Ctx :=
  c.acc.foldl (fun c a =>
    match c.acc.find? (·.id == a.id) with
    | none => c
    | some a => if !a.left && !a.done && (leavers c a).all (mayLeave c) then c.leave (leavers c a) else c) c

/-- Every access of the context can leave its queue now (R114). -/
def canLeave (c : Ctx) : Bool := c.allLeft.acc.all fun a => a.left || a.done

/-- Perform access `a` of context `x`. A load that an earlier store of the context covers takes the store's value, without a
read of its home (R112). Any other is performed at its home (R107): the section action first (R92), without which the access is
not performed and is gone (R398); a poisoned word is consumed (R409); a load or atomic fixes its value. A write to a root port or a
peer is sent (R124, R125). -/
def performAcc (s : State) (x : CtxId) (a : Acc) : State :=
  let s := if clear (s.cx x) a then s.modCx x fun c => c.leave (leavers c a) else s
  let take (s : State) (v : Word) : State := s.modCx x (·.modAcc a.id fun a => { a with done := true, left := true, val := v })
  match forwarded (before (s.cx x).acc a.id) a with
  | some v => take s v
  | none =>
  let (s, ok) := sectionFor s x a.pa.toNat
  let p := a.pa.toNat
  if !ok then s.modCx x (·.dropAcc a.id)
  else if !a.isStore && poisoned s p a.size then
    let u := ((poisonAt s p a.size).getD 0) * 8
    let s := rasRecord s u (rasUnit s u) 3 (some (lcore s))
    let s := s.modCx x (·.dropAcc a.id)
    takeTrap s x ⟨0x30, 0, false, 0, uceVal (a.va - BitVec.ofNat 56 (p - u)) (rasUnit s u)⟩
  else match a.op with
    | .read => take s (readHome s p a.size)
    | .write d =>
      let s := writeHome s (.core a.world) p a.size d
      if (portOf a.home).isSome then s.modCx x fun c => (c.modAcc a.id ({ · with sent := true })).wroteRoot a.home
      else s.modCx x (·.dropAcc a.id)
    | .atomic op v cmp =>
      let old := readHome s p a.size
      let s := writeHome s (.core a.world) p a.size (atomNew op a.size old v cmp)
      let s := hitCheck s (actsFor s x) p a.size (accWriter s x 3 a)
      take (s.modCx x (·.wroteRoot a.home)) old

/-- Perform access number `id` of context `x` if it may be (R107, R110). -/
def performId (s : State) (x : CtxId) (id : Nat) : State :=
  match (s.cx x).acc.find? (·.id == id) with
  | none => s
  | some a => if mayPerform (s.cx x) a then performAcc s x a else s

/-- The value that a landed load or atomic puts in its register. -/
def Acc.result (a : Acc) : Word :=
  if a.sext then ((a.val.setWidth (8 * a.size)).signExtend 64) else a.val

/-- The row that a repair entry steers (R175): kind and row number, for a vault row 768·bank + row. -/
def repairRow (v : Word) : Option (Nat × Nat) :=
  let k := fldN v 60 3
  let r := fldN v 0 10
  if !bit v 63 then none
  else match k with
    | 0 => if r < 768 then some (0, 768 * fldN v 16 4 + r) else none
    | 1 => if r < 256 then some (1, r) else none
    | 2 => if r < 128 then some (2, r) else none
    | _ => none

/-- Repair entry `i` applies: no lower-numbered entry names its row (R175). -/
def repairActive (k : Core) (i : Nat) : Option (Nat × Nat) :=
  match repairRow (k.repair.toList.getD i 0) with
  | none => none
  | some r => if (List.range i).any fun j => repairRow (k.repair.toList.getD j 0) == some r then none else some r

/-- The spare row that register sr of context `x` is steered to (R175). -/
def steeredTo (k : Core) (x : CtxId) (r : BitVec 6) : Option (Fin 16) :=
  (List.finRange 16).find? fun i => repairActive k i.val == some (1, 64 * x.val + r.toNat)

/-- Every access under way keeps the row that its register has now (R174, entry 101). -/
def Ctx.fixRows (c : Ctx) (k : Core) (x : CtxId) : Ctx :=
  { c with acc := c.acc.map fun a => match a.dest, a.row with | some d, none => { a with row := some (steeredTo k x d) } | _, _ => a }

/-- Write scalar register row `r` of context `x`, or the spare row that it names, where the model keeps it now (R175): a steered
register and its spare are exchanged. -/
def setRow (s : State) (x : CtxId) (d : BitVec 6) (r : Option (Fin 16)) (v : Word) : State :=
  if d = 0 then s
  else match r with
  | none => match steeredTo s.core x d with
    | none => s.modCx x (·.setReg d v)
    | some i => s.modCore fun k => { k with spareS := k.spareS.set i.val v }
  | some i => match repairActive s.core i.val with
    | some (1, n) => s.modCx (Fin.ofNat 4 (n / 64)) (·.setReg (BitVec.ofNat 6 n) v)
    | _ => s.modCore fun k => { k with spareS := k.spareS.set i.val v }

/-- Access `a` of context `x` lands: its register takes the value (R52, R164, R167, R198), and it is gone. -/
def landAcc (s : State) (x : CtxId) (a : Acc) : State :=
  let s := match a.dest, a.row with | some d, some r => setRow s x d r a.result | _, _ => s
  s.modCx x fun c =>
    let c := c.dropAcc a.id
    let c := match a.dest, a.row with | some d, none => c.setReg d a.result | _, _ => c
    match a.test with | some (p, th) => c.setPred p (decide (th.toNat ≤ a.val.toNat)) | none => c

/-- The context issues nothing until its loads have landed: for a trap (R358), a raised line (R354), a STOPREQ (R333), a HALT, or
a change of mode (R49, R55; entry 8). -/
def draining (s : State) (x : CtxId) : Bool :=
  let c := s.cx x
  c.trap.isSome || c.landing || c.halted || lineStops s x

/-- A performed load or atomic may land: a scoreboarded one at any time, an exposed one at its issue cycle (R52), or when the
context only waits for it. -/
def mayLand (s : State) (x : CtxId) (a : Acc) : Bool :=
  a.done && (match a.due with | none => true | some n => decide (n ≤ (s.cx x).issue) || draining s x)

/-- Land access number `id` if it may (R52). -/
def landId (s : State) (x : CtxId) (id : Nat) : State :=
  match (s.cx x).acc.find? (·.id == id) with
  | none => s
  | some a => if mayLand s x a then landAcc s x a else s

/-- The root ports that context `x` has written send a zero-length read, unless one is under way (R126). -/
def askRoots (s : State) (x : CtxId) : State :=
  let c := s.cx x
  let l := (List.range 4).filter fun i => bit c.rootW i && !bit c.zlr i
  (s.modCx x fun c => { c with zlr := c.zlr ||| c.rootW }).modPkg fun p =>
    { p with out := p.out ++ l.map fun i => .zeroRead (Fin.ofNat 4 i) }

/-- Perform the first access of `x` that may be performed. An SCPOST that only the root ports keep has them asked (R126,
R198). -/
def performAny (s : State) (x : CtxId) : State :=
  match (s.cx x).acc.find? (mayPerform (s.cx x)) with
  | none => if (s.cx x).acc.any (·.post) then askRoots s x else s
  | some a => performAcc s x a

/-- Land the first access of `x` that may land. -/
def landAny (s : State) (x : CtxId) : State :=
  match (s.cx x).acc.find? (mayLand s x) with | none => s | some a => landAcc s x a

/-- The first access of a queue that has not left it leaves, if it may (R110). -/
def leaveAny (s : State) (x : CtxId) (load : Bool) : State :=
  match (s.cx x).acc.find? fun a => a.isLoad == load && !a.left && !a.done with
  | none => s
  | some a => if mayLeave (s.cx x) a then s.modCx x (·.leave [a]) else s

/-- What is on its way through port `p` has been performed there (R124 to R126): a peer has acknowledged its writes; a root
port's device has taken them, and a zero-length read behind them has completed. A watermark follows (R128). -/
def Ctx.delivered (c : Ctx) (p : Nat) : Ctx :=
  let mask : BitVec 4 := if p < 4 then ~~~(1#4 <<< p) else BitVec.allOnes 4
  Ctx.followMark { c with
    acc := c.acc.filter fun a => !(a.sent && portOf a.home == some p)
    rootW := c.rootW &&& (mask ||| ~~~c.zlr ||| c.rootN)
    rootN := c.rootN &&& mask
    zlr := c.zlr &&& mask
    q := c.q.map fun q => { q with run := q.run.map fun r => { r with posts := r.posts.filter (· != p) } } }

/-- The other end of port `p` answers (R124 to R126, R190). -/
def deliver (s : State) (p : Nat) : State :=
  let s := ctxs.foldl (fun s x => s.modCx x (·.delivered p)) s
  s.modPkg fun k => { k with packets := k.packets.map fun q => { q with posts := q.posts.filter (· != p) } }

/-! ### Engine units (R108, R389, R395) -/

/-- A store of [va, va + n) reaches a chain between its CLINK and the completion of its run, or a LINK that the run has followed
(R395, reason 1). -/
def chainHit (c : Ctx) (va n : Nat) : Bool :=
  let hit (b : VAddr) (k : Nat) : Bool := decide (va < b.toNat + 64 * k) && decide (b.toNat < va + n)
  (match (c.eq .cpe).chain with | none => false | some h => hit h.base h.count || h.links.any (hit · 1)) ||
    (c.eq .cpe).pend.any fun p => match p.link with | none => false | some (b, k) => hit b k

/-- ALIGN of an address that is not a multiple of `n` (R389), which no access through the pinned set raises (R357). -/
def alignFlt (s : State) (x : CtxId) (n kind : Nat) (va : VAddr) : Option Flt :=
  if va.toNat % n ≠ 0 ∧ (inPins (s.cx x) va).isNone then some (accFlt 0x10 kind va) else none

/-- The checks of one engine unit or fetch (R389): address or fault; through the pinned set there is none (R357). -/
def unitReach (s : State) (x : CtxId) (kind : Nat) (va : VAddr) : Except Flt Tr :=
  match xlate s x kind va with
  | .error f => .error f
  | .ok t =>
    if (inPins (s.cx x) va).isSome then .ok t
    else match ndRefused s t.pa.toNat with
    | some f => .error f
    | none =>
      match actsFor s x with
      | some l => if remoteRefused s l t.pa.toNat then .error (accFlt 0x16 kind va) else .ok t
      | none => .ok t

/-- The requests that the core has outstanding (R21): accesses of its contexts not performed, and writes of entries on their way
to a window. -/
def outstanding (s : State) : Nat :=
  (ctxs.map fun x => ((s.cx x).acc.filter (!·.done)).length + (engines.map fun e => match (s.eq x e).run with
    | some r => r.posts.length | none => 0).sum).sum

/-- The core has 2048 requests outstanding, and accepts no further (R21). -/
def accFull (s : State) : Bool := decide (2048 ≤ outstanding s)

/-- The unit is made now: its checks, the hold of a manual near-DRAM bank (R99), and the core's limit of requests (R21). -/
def unitCheck (s : State) (x : CtxId) (kind : Nat) (va : VAddr) : Except Flt Tr :=
  match unitReach s x kind va with
  | .error f => .error f
  | .ok t => if ndHold s t.pa.toNat || accFull s then .error heldFlt else .ok t

/-- A poisoned word that an entry consumed is recorded (R412), outcome 3. -/
def ueNote (s : State) (x : CtxId) (f : Flt) : State :=
  if f.cause = 0x30 then
    match xlate s x 5 (fld f.val 0 56) with
    | .ok t => rasRecord s t.pa.toNat (fldN f.val 56 4) 3 (some (lcore s))
    | .error _ => s
  else s

/-- An entry faults (R351), or its section could not be loaded back and its launch is aborted (R398): the cause 0 that a
unit reports for the latter carries the physical address, and the action is taken here. A held unit changes nothing. -/
def unitFault (s : State) (x : CtxId) (e : Eng) (f : Flt) : State :=
  if f = heldFlt then s
  else if f.cause = 0 then (sectionFor s x f.val.toNat).1 else entryFault (ueNote s x f) x e f

/-- An engine reads `n` bytes that lie in one page (R108): bytes, and whether a word was poisoned. -/
def engRead (s : State) (x : CtxId) (va : VAddr) (n : Nat) : Except Flt (State × List Byte) :=
  if n = 0 then .ok (s, [])
  else match unitCheck s x 5 va with
  | .error f => .error f
  | .ok t =>
    let s := tlbFill s x va t
    let (s, ok) := sectionFor s x t.pa.toNat
    if !ok then .error ⟨0, t.pa.setWidth 64⟩
    else .ok (s, homeBytes s t.pa.toNat n)

/-- The first poisoned word in the range an engine reads, as a virtual address and its unit. -/
def engPoison (s : State) (x : CtxId) (va : VAddr) (n : Nat) : Option (VAddr × Nat) :=
  match xlate s x 5 va with
  | .error _ => none
  | .ok t => (poisonAt s t.pa.toNat n).map fun u => (va + BitVec.ofNat 56 (8 * u) - BitVec.ofNat 56 t.pa.toNat, rasUnit s (8 * u))

/-- An entry has one more write to home `h` on its way (R117, R190). -/
def Run.post (r : Run) (h : Home) : Run :=
  match portOf h with | some p => { r with posts := p :: r.posts } | none => r

/-- An engine writes `bs`, which lie in one page, at `va` (R108): section action, bytes, watch entries, watchpoints. They belong to
a unit whose lowest address is `u`, when it is not their own. -/
def engPiece (s : State) (x : CtxId) (e : Eng) (seq : Word) (u : Option Nat) (va : VAddr) (bs : List Byte) : Except Flt State :=
  if bs.isEmpty then .ok s
  else match unitCheck s x 6 va with
  | .error f => .error f
  | .ok t =>
    let s := tlbFill s x va t
    let (s, ok) := sectionFor s x t.pa.toNat
    if !ok then .error ⟨0, t.pa.setWidth 64⟩
    else
      let a := t.pa.toNat
      let h := homeOf s a
      let s := homeStore s (.core t.world) a bs
      let s := s.modEq x e fun q => { q with run := q.run.map (·.post h) }
      .ok (engCheck s x (actsFor s x) (u.getD a) a bs.length e (entryName s x (engNum e) seq))

/-- An engine writes `bs`, which lie in one page, at `va` (R108). -/
def engWrite (s : State) (x : CtxId) (e : Eng) (seq : Word) (va : VAddr) (bs : List Byte) : Except Flt State :=
  engPiece s x e seq none va bs

/-- Cut [va, va + n) where pages and 64-byte lines end: pieces of at most 64 bytes. -/
def pieces : Nat → Nat → Nat → List (Nat × Nat)
  | 0, _, _ => []
  | k + 1, va, n =>
    if n = 0 then [] else
    let m := min n (64 - va % 64)
    (va, m) :: pieces k (va + m) (n - m)

/-- Read a range piece by piece, stopping at the first unit that fails (R389); `strict` consumes poison (R409). -/
def engReadAll (s : State) (x : CtxId) (strict : Bool) (va : VAddr) (n : Nat) : Except Flt (State × List Byte) :=
  (pieces (n / 64 + 2) va.toNat n).foldl (fun r p => match r with
    | .error f => .error f
    | .ok (s, bs) =>
      match engRead s x (BitVec.ofNat 56 p.1) p.2 with
      | .error f => .error f
      | .ok (s, b) =>
        match (if strict then engPoison s x (BitVec.ofNat 56 p.1) p.2 else none) with
        | some (v, u) => .error ⟨0x30, uceVal v u⟩
        | none => .ok (s, bs ++ b)) (.ok (s, []))

/-- The lowest physical address of a unit of the CPE that is written in the pieces `ps` (R435). -/
def unitLow (s : State) (x : CtxId) (e : Eng) (ps : List (Nat × Nat)) : Option Nat :=
  if e = .cpe then (ps.filterMap fun p => match xlate s x 6 (BitVec.ofNat 56 p.1) with
    | .ok t => some t.pa.toNat | .error _ => none).min? else none

/-- Write a range piece by piece (R389); units before a failing one stay. What the CPE writes so is one beat (R435). -/
def engWriteAll (s : State) (x : CtxId) (e : Eng) (seq : Word) (va : VAddr) (bs : List Byte) : State × Option Flt :=
  let ps := pieces (bs.length / 64 + 2) va.toNat bs.length
  let u := unitLow s x e ps
  ps.foldl (fun r p => match r with
    | (s, some f) => (s, some f)
    | (s, none) =>
      match engPiece s x e seq u (BitVec.ofNat 56 p.1) ((bs.drop (p.1 - va.toNat)).take p.2) with
      | .ok s => (s, none)
      | .error f => (s, some f)) (if e = .cpe && !bs.isEmpty then beatPassed s x else s, none)

end Sys2Proof.Machine
end

