-- ==== Sys2Proof/Machine/Operands.lean ====
section
/-! DEFINITION. How a sequencer instruction reads its operands and ends: register hazards (R51, R196), effective
addresses (R164 to R167), fetch lines and arrivals (R132 to R135, R371, R372), the hardware-loop end step (R162), and
the three ways to end: retire, wait, fault. -/
namespace Sys2Proof.Machine

open Bits

/-! ### Fetch lines (R132 to R135) -/

/-- The 128 bytes of a line in memory, as one number. -/
def lineAt (s : State) (a : Nat) : BitVec 1024 := BitVec.ofNat 1024 (numAt s a 128)

/-- The content of a line that the core may execute: its fetched copy, or memory; either when they differ (R135;
entry 11). -/
def lineSeen (s : State) (a : BitVec 52) : BitVec 1024 :=
  match s.core.icache.find? (·.1 == a) with
  | none => lineAt s a.toNat
  | some (_, l) => if l = lineAt s a.toNat then l else if Config.choice s.tick then l else lineAt s a.toNat

/-- The translation of a fetch at `pc` by context `x`, or its access fault (R389, kind 4). -/
def fetchAt (s : State) (x : CtxId) (pc : VAddr) : Except Flt Tr := unitReach s x 4 pc

/-- The line that a translated address lies in. -/
def Tr.line (t : Tr) : BitVec 52 := BitVec.ofNat 52 (t.pa.toNat / 128 * 128)

/-- The line of `pc` for context `x`, its section made the launch's (R92), or the access fault of its fetch; cause 0 stands for
a section that is not loaded back (R398). -/
def fetchLine (s : State) (x : CtxId) (pc : VAddr) : Except Flt (BitVec 52 × BitVec 1024) :=
  match fetchAt s x pc with
  | .error f => .error f
  | .ok t =>
    let (u, ok) := sectionFor s x t.pa.toNat
    if ok then .ok (t.line, lineSeen u t.line) else .error ⟨0, t.pa.setWidth 64⟩

/-- The header of a line (R132). -/
def header (l : BitVec 1024) : Word := fld l 0 64
/-- Header KIND is a code line (R132). -/
def isCode (h : Word) : Bool := fld h 62 2 == 0
/-- BTM bit of word `i` (R132). -/
def btm (h : Word) (i : Nat) : Bool := bit h (32 + i)
/-- SMAP bit of word `i` (R132). -/
def smap (h : Word) (i : Nat) : Bool := bit h i
/-- Word `i` of a line. -/
def lineWord (l : BitVec 1024) (i : Nat) : IWord := fld l (64 + 32 * i) 32
/-- The word number of an instruction address (R134). -/
def wordOf (pc : VAddr) : Nat := (pc.toNat % 128 - 8) / 4

/-- An address of the form A + 8 + 4i (R159, R372). -/
def wellPlaced (pc : VAddr) : Bool := pc.toNat % 4 == 0 && decide (8 ≤ pc.toNat % 128)

/-- TARGET with its kind (R370). -/
def targetFlt (kind : Nat) (t : VAddr) : Flt := ⟨0x03, BitVec.ofNat 8 kind ++ t⟩

/-- The arrival of R134 on a word without its branch-target or start-map bit (R372); kind 3 for a malformed address. An
arrival on a line that is not code, or cannot be fetched, is left to the fetch (R371). -/
def targetCheck (s : State) (x : CtxId) (t : VAddr) : Option Flt :=
  if !wellPlaced t then some (targetFlt 3 t)
  else match fetchLine s x t with
    | .error _ => none
    | .ok (_, l) =>
      let h := header l
      if !isCode h then none
      else if !btm h (wordOf t) then some (targetFlt 1 t)
      else if !smap h (wordOf t) then some (targetFlt 2 t)
      else none

/-! ### Hazards (R51, R196) -/

/-- A scoreboarded result or a token register keeps sr pending (R51, R119, R166, R196). -/
def Ctx.pendS (c : Ctx) (r : BitVec 6) : Bool :=
  r != 0 && (bit c.tkpend r.toNat || c.acc.any fun a => a.dest == some r && a.due.isNone)

/-- A SCTEST keeps pr pending (R198). -/
def Ctx.pendP (c : Ctx) (r : BitVec 5) : Bool := r != 0 && c.acc.any fun a => match a.test with | some (p, _) => p == r | none => false

/-- Some of the registers are pending for the context that issues. -/
def hazard (s : State) (rs : List (BitVec 6)) (ps : List (BitVec 5)) : Bool :=
  let c := s.cx s.core.cur
  rs.any c.pendS || ps.any c.pendP

/-! ### How an instruction ends -/

/-- What an instruction comes to: it retires in `s`; it retires and transfers to a target; it waits, for the flag of
R337, or until its exposed loads have landed too; it faults, in the state it issued in or in one in which the access actions of
R92 have been taken; or it does not retire and the machine is left in `s` (a trap or an abort came first). -/
inductive Res where
  | done (s : State)
  | jump (s : State) (t : VAddr) (exempt : Bool)
  | wait (f : Nat)
  | rest (f : Nat)
  | fault (f : Flt)
  | faultIn (s : State) (f : Flt)
  | stay (s : State)

/-- The steps the core and the package blocks take by themselves while an instruction waits (entry 2). -/
def serviceMoves : List Move :=
  (ctxs.flatMap fun x => [Auto.perform x, .land x, .trap x, .save x] ++
    (Eng.seq :: engines).flatMap fun e => [Auto.work x e, .complete x e, .start x e]).map Move.auto ++
  ((List.range 16).map fun p => Move.auto (.deliver (Fin.ofNat 16 p))) ++
  ((List.range 16).flatMap fun n => [Move.auto (.hub (Fin.ofNat 16 n))]) ++
  ((List.range 18).map fun n => Move.auto (.take (Fin.ofNat 18 n))) ++
  [.auto .attest, .auto .change, .auto .scanPost, .auto .accept, .auto .placement, .auto .completion, .auto .watch, .auto .waggle, .auto .wake]

/-- The context that issues waits for flag `f` (R337): nothing of it retires, and the others are tried in this cycle (R33). -/
def waitFor (s : State) (f : Nat) : State :=
  (s.modCx s.core.cur ({ · with wait := some f })).modCore fun k => { k with tried := k.cur :: k.tried }

/-- The end rule of the hardware loops for an instruction at `pc` (R162): the context after it, the next address, and
whether it is a back-edge. -/
def endStep (c : Ctx) (pc next : VAddr) : Ctx × VAddr × Bool :=
  let l0 := c.loops.get 0
  let l1 := c.loops.get 1
  let inner := l0.act && l0.fin == pc
  let outer := l1.act && l1.fin == pc
  let n0 := l0.count - 1
  let n1 := l1.count - 1
  if inner && n0 != 0 then ({ c with loops := c.loops.set 0 { l0 with count := n0 } }, l0.start, true)
  else
    let c := if inner then { c with loops := c.loops.set 0 { l0 with count := n0, act := false } } else c
    if outer && n1 != 0 then ({ c with loops := c.loops.set 1 { l1 with count := n1 } }, l1.start, true)
    else
      let c := if outer then { c with loops := c.loops.set 1 { l1 with count := n1, act := false } } else c
      (c, next, false)

/-- One issue cycle of the context passes (R52), in which it issues from the line at its PC (R55). -/
def Ctx.issued (c : Ctx) (pc : VAddr) : Ctx :=
  { c with pc := pc, issue := c.issue + 1, wait := none, landing := false, prevMode := some c.exposed }

/-- The context that issues has issued (R33, R54): it is the last that did, and it holds the exposed slot exactly when it
issued from an exposed line. -/
def Core.issuedBy (k : Core) (m : Bool) : Core :=
  { k with last := k.cur, tried := [], exp := if m then some k.cur else if k.exp = some k.cur then none else k.exp }

/-- The instruction of the context that issues has issued, and the context goes on at `pc`. -/
def State.issued (s : State) (pc : VAddr) : State :=
  (s.modCx s.core.cur (·.issued pc)).modCore (·.issuedBy (s.cx s.core.cur).exposed)

/-- An instruction of `w` words, begun in `s0`, retires in `s` without taking a transfer: the end step, with the arrival
check of a back-edge (R134, R162, R372). -/
def finish (s0 : State) (w : Nat) (s : State) : State :=
  let x := s0.core.cur
  let c := s.cx x
  let pc := (s0.cx x).pc
  let (c', t, back) := endStep c pc (slotAdd pc w)
  match (if back then targetCheck s0 x t else none) with
  | some f => preciseFault s0 f
  | none => (s.setCx x c').issued t

/-- The fault of the end step of an instruction of `w` words that retires without a transfer (R162, R372). -/
def endFault (s : State) (w : Nat) : Option Flt :=
  let x := s.core.cur
  let pc := (s.cx x).pc
  let (_, t, back) := endStep (s.cx x) pc (slotAdd pc w)
  if back then targetCheck s x t else none

/-- The fault that an instruction of `w` words raises, which breaks a rule with cause `f`: TARGET of a back-edge at it comes first
(R368). -/
def firstFault (s : State) (w : Nat) (f : Flt) : Flt := (endFault s w).getD f

/-- The end of an instruction of `w` words that issued in `s`. -/
def retire (s : State) (w : Nat) (r : Res) : Host.Outcome State Fault Refusal :=
  match r with
  | .done s' => .next (finish s w s')
  | .jump s' t exempt =>
    match (if exempt then none else targetCheck s s.core.cur t) with
    | some f => .next (preciseFault s f)
    | none => .next (s'.issued t)
  | .wait f => .next (waitFor s f)
  | .rest f => .next ((waitFor s f).modCx s.core.cur ({ · with landing := true }))
  | .fault f => .next (preciseFault s (firstFault s w f))
  | .faultIn s' f => .next (preciseFault s' (firstFault s w f))
  | .stay s' => .next s'

/-! ### Register forms -/

/-- sd receives `v`, once the registers it reads and sd are not pending (R51, R153). -/
def regResult (s : State) (reads : List (BitVec 6)) (d : BitVec 6) (v : Word) : Res :=
  if hazard s (d :: reads) [] then .wait 15 else .done (s.setReg d v)

/-- A three-register form (R153). -/
def aluR (s : State) (d a b : BitVec 6) (f : Word → Word → Word) : Res := regResult s [a, b] d (f (s.reg a) (s.reg b))

/-- A unary form (R153). -/
def aluU (s : State) (d a : BitVec 6) (f : Word → Word) : Res := regResult s [a] d (f (s.reg a))

/-- imm14 of format I (R136, R155). -/
def imm14 (i : BitVec 14) : Word := i.signExtend 64
/-- imm6 of format P (R136, R157). -/
def imm6 (i : BitVec 6) : Word := i.signExtend 64

/-- An immediate form (R155). -/
def aluI (s : State) (d a : BitVec 6) (i : BitVec 14) (f : Word → Word → Word) : Res :=
  regResult s [a] d (f (s.reg a) (imm14 i))

/-- pd receives `v` (R158). -/
def predResult (s : State) (rs : List (BitVec 6)) (ps : List (BitVec 5)) (d : BitVec 5) (v : Bool) : Res :=
  if hazard s rs (d :: ps) then .wait 15 else .done (s.setPred d v)

/-- A predicate compare (R137, R157). -/
def compareP (s : State) (p : BitVec 5) (n : BitVec 1) (rs : List (BitVec 6)) (cc f : BitVec 4) (a b : Word) : Res :=
  predResult s rs [] p (combine f (s.pred p) (condHolds cc a b ^^ bit n 0))

/-- The address of the instruction that issues. -/
def curPc (s : State) : VAddr := (s.cx s.core.cur).pc

/-! ### Effective addresses (R164 to R167) -/

/-- s[base] + off14 × size, modulo 2^56 (R164). -/
def eaOff (s : State) (b : BitVec 6) (o : BitVec 14) (lsize : Nat) : VAddr :=
  va56 (s.reg b + (imm14 o <<< lsize))

/-- s[a] + s[b], modulo 2^56 (R164, R166). -/
def eaIdx (s : State) (a b : BitVec 6) : VAddr := va56 (s.reg a + s.reg b)

end Sys2Proof.Machine
end

