-- ==== Sys2Proof/Machine/Control.lean ====
section
/-! DEFINITION. The meanings of the control transfers and of LOOP (R159 to R162, R372, R376). -/
namespace Sys2Proof.Machine

open Bits

/-- The address of the instruction after the one that issues, `w` words long (R134, R159). -/
def nextPc (s : State) (w : Nat) : VAddr := slotAdd (curPc s) w

/-- A transfer of format B is taken when p xor N (R138). -/
def takenB (s : State) (p : BitVec 5) (n : BitVec 1) : Bool := s.pred p ^^ bit n 0

/-- The target of format B (R138). -/
def targetB (s : State) (o : BitVec 20) : VAddr := slotAdd (curPc s) o.toInt

/-- BR (R159). -/
def execBr (p : BitVec 5) (n : BitVec 1) (o : BitVec 20) (s : State) : Host.Outcome State Fault Refusal :=
  retire s 1 (if hazard s [] [p] then .wait 15 else if takenB s p n then .jump s (targetB s o) false else .done s)

/-- CALL: a taken call writes the address of the next instruction to s63 (R159). -/
def execCall (p : BitVec 5) (n : BitVec 1) (o : BitVec 20) (s : State) : Host.Outcome State Fault Refusal :=
  retire s 1 (if hazard s [63] [p] then .wait 15
    else if takenB s p n then .jump (s.setReg 63 ((nextPc s 1).setWidth 64)) (targetB s o) false else .done s)

/-- JMP: PC := s[a] (R159). -/
def execJmp (a : BitVec 6) (s : State) : Host.Outcome State Fault Refusal :=
  retire s 1 (if hazard s [a] [] then .wait 15 else .jump s (va56 (s.reg a)) false)

/-- JALR: t := s[a]; s[d] := the address of the next instruction; PC := t (R159). -/
def execJalr (d a : BitVec 6) (s : State) : Host.Outcome State Fault Refusal :=
  retire s 1 (if hazard s [d, a] [] then .wait 15
    else .jump (s.setReg d ((nextPc s 1).setWidth 64)) (va56 (s.reg a)) false)

/-- The count of LOOP, at most 2^32 − 1 (R161). -/
def loopCount (w : Word) : BitVec 32 := if w.toNat < 2 ^ 32 then w.setWidth 32 else BitVec.allOnes 32

/-- The word at an address begins an instruction: its SMAP bit, once its line is fetched (R376). -/
def startsInstr (s : State) (t : VAddr) : Except Flt (Bool × Nat) :=
  match fetchLine s s.core.cur t with
  | .error f => .error f
  | .ok (_, l) => .ok (smap (header l) (wordOf t), if isLong (lineWord l (wordOf t)) then 2 else 1)

/-- MISUSE with its code, object and detail (R370, R381). -/
def misuse (code obj : Nat) (detail : BitVec 32) : Flt := ⟨0x06, 0#16 ++ detail ++ BitVec.ofNat 8 obj ++ BitVec.ofNat 8 code⟩

/-- HLFIN[0] ≤ HLFIN[1] after arming level `l` with final address `t`, while the other level is active (R376). -/
def nestOk (c : Ctx) (l : BitVec 1) (t : VAddr) : Bool :=
  if l = 0 then !(c.loops.get 1).act || decide (t.toNat ≤ (c.loops.get 1).fin.toNat)
  else !(c.loops.get 0).act || decide ((c.loops.get 0).fin.toNat ≤ t.toNat)

/-- LOOP (R161, R376): a wrong nesting ranks before an access fault of the line that holds its target (R368). -/
def execLoop (l : BitVec 1) (a : BitVec 6) (i : BitVec 14) (s : State) : Host.Outcome State Fault Refusal :=
  retire s 1 (
    let t := slotAdd (curPc s) (i.toInt)
    let n := loopCount (s.reg a)
    if hazard s [a] [] then .wait 15
    else match startsInstr s t with
    | .error f =>
      if f.cause = 0 then .stay (sectionFor s s.core.cur f.val.toNat).1
      else if n = 0 then .stay (preciseFault s f)
      else .fault (if nestOk (s.cx s.core.cur) l t = false then misuse 0x19 l.toNat 0 else f)
    | .ok (start, w) =>
      if !start then
        let f := misuse 0x18 0 (BitVec.ofNat 32 (slotOf t))
        if n = 0 then .stay (preciseFault s f) else .fault f
      else if n = 0 then .jump s (slotAdd t w) true
      else if !nestOk (s.cx s.core.cur) l t then .fault (misuse 0x19 l.toNat 0)
      else .done (s.modCx s.core.cur fun c =>
        { c with loops := c.loops.set l.toNat ⟨true, n, nextPc s 1, t⟩ (by have := l.isLt; omega) }))

end Sys2Proof.Machine
end

