-- ==== Sys2Proof/Machine/LoadStore.lean ====
section
/-! DEFINITION. The meanings of loads, stores, volatile accesses, atomics and MARK (R110 to R114, R119, R164 to R168,
R203, R389, R392, R395), and the near-DRAM commands (R98, R99, R169, R393). -/
namespace Sys2Proof.Machine

open Bits

/-! ### Issue of an access -/

/-- QUEUE with its reason and address (R390, R395). -/
def queueFlt (reason : Nat) (a : VAddr) : Flt := ⟨0x19, fld a 0 48 ++ 0#8 ++ BitVec.ofNat 8 reason⟩

/-- Channel `i` is armed and its watermark, base and limit (R202). -/
def Ctx.chan (c : Ctx) (i : Nat) : Bool × Nat × Nat × Nat :=
  let w := c.wm.toList.getD i 0
  (bit w 63, fldN w 0 56, (c.wmbase.toList.getD i 0).toNat, (c.wmlim.toList.getD i 0).toNat)

/-- A load of [x, x + n) waits for a channel (R203). -/
def wmStall (c : Ctx) (x n : Nat) : Bool :=
  (List.range 8).any fun i =>
    let (arm, wm, base, lim) := c.chan i
    arm && decide (x < lim) && decide (base < x + n) && decide (wm < min (x + n) lim)

/-- A store of [x, x + n) reaches an armed range at or above its watermark (R395, reason 2). -/
def wmForbids (c : Ctx) (x n : Nat) : Bool :=
  (List.range 8).any fun i =>
    let (arm, wm, base, lim) := c.chan i
    arm && decide (x < lim) && decide (max base wm < x + n)

/-- The checks of an access of `2 ^ lsize` bytes by context `x` at `va` (R389): kind 1 load, 2 store, 3 atomic.
Accesses through the pinned set raise none (R357). -/
def accCheckOf (s : State) (x : CtxId) (kind lsize : Nat) (va : VAddr) : Except Flt Tr :=
  if va.toNat % 2 ^ lsize ≠ 0 ∧ (inPins (s.cx x) va).isNone then .error (accFlt 0x10 kind va)
  else match xlate s x kind va with
  | .error f => .error f
  | .ok t =>
    if (inPins (s.cx x) va).isSome then .ok t
    else match ndRefused s t.pa.toNat with
    | some f => .error f
    | none =>
      match actsFor s x with
      | some l => if remoteRefused s l t.pa.toNat then .error (accFlt 0x16 kind va) else .ok t
      | none => .ok t

/-- The checks of a scalar access of the context that issues. -/
def accCheck (s : State) (kind lsize : Nat) (va : VAddr) : Except Flt Tr := accCheckOf s s.core.cur kind lsize va

/-- The issue cycle at which an exposed-mode load lands (R52, R98): 14 cycles for the own vault, 40 for the open row of a
bank that is manual for the context; none for every other load. -/
def landingCycle (s : State) (a : Nat) : Option Nat :=
  let c := s.cx s.core.cur
  if !c.exposed then none
  else match rowOf a with
  | .vault k => if k = ownCol s then some (c.issue + 14) else none
  | .ndram _ =>
    match ownNd s a with
    | some (i, _) => if (ndBank s i).holder = some s.core.cur then some (c.issue + 40) else none
    | none => none
  | _ => none

/-- Put an access in its queue (R110). -/
def pushAcc (s : State) (va : VAddr) (t : Tr) (a : Acc) : State :=
  (tlbFill s s.core.cur va t).modCx s.core.cur fun c =>
    { c with acc := c.acc ++ [{ a with id := c.nextAcc }], nextAcc := c.nextAcc + 1 }

/-- An access as it is issued. -/
def newAcc (s : State) (op : AccessOp) (va : VAddr) (t : Tr) (lsize : Fin 4) (vol : Bool) : Acc :=
  { id := 0, op := op, va := va, pa := t.pa, home := homeOf s t.pa.toNat, lsize := lsize, vol := vol || t.device,
    world := t.world, dest := none, sext := false, row := none, left := false, ord := 0, sent := false, done := false, val := 0,
    due := none, post := false, held := false,
    pc := curPc s, test := none }

/-- A load of sd from `va` (R164 to R166, R203). A load of volatile class, also by its page, is scoreboarded
(entry 106). -/
def loadRes (s : State) (rs : List (BitVec 6)) (d : BitVec 6) (va : VAddr) (lsize : Fin 4) (sext vol : Bool) : Res :=
  if hazard s rs [] then .wait 15
  else match accCheck s 1 lsize.val va with
  | .error f => if hazard s [d] [] then .wait 15 else .fault f
  | .ok t =>
    if wmStall (s.cx s.core.cur) va.toNat (2 ^ lsize.val) then .wait 9
    else if hazard s [d] [] || accFull s || ndHold s t.pa.toNat then .wait 15
    else
      let a := newAcc s .read va t lsize vol
      .done (pushAcc s va t { a with dest := some d, sext := sext,
                                     due := if a.vol then none else landingCycle s t.pa.toNat })

/-- A store enters the store queue (R343): its watchpoint records are written first; with STOP it is held and its launch
is stopped, with the store's address as its PC. -/
def pushStore (s : State) (va : VAddr) (t : Tr) (a : Acc) : State :=
  let p := t.pa.toNat
  if (dwAll s p a.size false).isEmpty then pushAcc s va t a
  else
    let stop := dwStops s p a.size false
    let s := pushAcc (dwCheck s p a.size (accWriter s s.core.cur 1 a)) va t { a with held := stop }
    if stop then stopGo (s.modCx s.core.cur ({ · with svpc := some (curPc s) })) (s.cx s.core.cur).lid else s

/-- A store of the low bytes of `v` at `va` (R164 to R166, R395). -/
def storeRes (s : State) (rs : List (BitVec 6)) (v : Word) (va : VAddr) (lsize : Fin 4) (vol : Bool) : Res :=
  let c := s.cx s.core.cur
  if hazard s rs [] then .wait 15
  else match accCheck s 2 lsize.val va with
  | .error f => .fault f
  | .ok t =>
    if (inPins c va).isNone && chainHit c va.toNat (2 ^ lsize.val) then .fault (queueFlt 1 va)
    else if (inPins c va).isNone && wmForbids c va.toNat (2 ^ lsize.val) then .fault (queueFlt 2 va)
    else if accFull s || ndHold s t.pa.toNat then .wait 15
    else .done (pushStore s va t (newAcc s (.write v) va t lsize vol))

/-- An atomic of sd at `va` (R119, R167): its operand, and for a compare-and-swap its comparand s[d]. -/
def atomicRes (s : State) (op : AtomOp) (d a b : BitVec 6) (w : BitVec 1) : Res :=
  let lsize : Fin 4 := if w = 1 then 2 else 3
  let va := va56 (s.reg a)
  if hazard s [d, a, b] [] then .wait 15
  else match accCheck s 3 lsize.val va with
  | .error f => .fault f
  | .ok t =>
    if (inPins (s.cx s.core.cur) va).isNone && chainHit (s.cx s.core.cur) va.toNat (2 ^ lsize.val) then .fault (queueFlt 1 va)
    else if accFull s || ndHold s t.pa.toNat then .wait 15
    else .done (pushAcc s va t { newAcc s (.atomic op (s.reg b) (s.reg d)) va t lsize false with
      dest := some d, sext := w == 1 })

/-! ### Loads and stores (R164, R165) -/

/-- LDD: s[d] := 8 bytes at s[b] + off14 × size (R164). -/
def execLdd (d b : BitVec 6) (o : BitVec 14) (s : State) : Host.Outcome State Fault Refusal :=
  retire s 1 (loadRes s [b] d (eaOff s b o 3) 3 true false)

/-- LDW: s[d] := 4 bytes, sign-extended at s[b] + off14 × size (R164). -/
def execLdw (d b : BitVec 6) (o : BitVec 14) (s : State) : Host.Outcome State Fault Refusal :=
  retire s 1 (loadRes s [b] d (eaOff s b o 2) 2 true false)

/-- STD: 8 bytes of s[s] at s[b] + off14 × size (R164). -/
def execStd (r b : BitVec 6) (o : BitVec 14) (s : State) : Host.Outcome State Fault Refusal :=
  retire s 1 (storeRes s [r, b] (s.reg r) (eaOff s b o 3) 3 false)

/-- STW: 4 bytes of s[s] at s[b] + off14 × size (R164). -/
def execStw (r b : BitVec 6) (o : BitVec 14) (s : State) : Host.Outcome State Fault Refusal :=
  retire s 1 (storeRes s [r, b] (s.reg r) (eaOff s b o 2) 2 false)

/-- LDBX: s[d] := 1 bytes at s[a] + s[b], sign-extended (R164). -/
def execLdbx (d a b : BitVec 6) (s : State) : Host.Outcome State Fault Refusal :=
  retire s 1 (loadRes s [a, b] d (eaIdx s a b) 0 true false)

/-- LDBUX: s[d] := 1 bytes at s[a] + s[b], zero-extended (R164). -/
def execLdbux (d a b : BitVec 6) (s : State) : Host.Outcome State Fault Refusal :=
  retire s 1 (loadRes s [a, b] d (eaIdx s a b) 0 false false)

/-- LDHX: s[d] := 2 bytes at s[a] + s[b], sign-extended (R164). -/
def execLdhx (d a b : BitVec 6) (s : State) : Host.Outcome State Fault Refusal :=
  retire s 1 (loadRes s [a, b] d (eaIdx s a b) 1 true false)

/-- LDHUX: s[d] := 2 bytes at s[a] + s[b], zero-extended (R164). -/
def execLdhux (d a b : BitVec 6) (s : State) : Host.Outcome State Fault Refusal :=
  retire s 1 (loadRes s [a, b] d (eaIdx s a b) 1 false false)

/-- LDWX: s[d] := 4 bytes at s[a] + s[b], sign-extended (R164). -/
def execLdwx (d a b : BitVec 6) (s : State) : Host.Outcome State Fault Refusal :=
  retire s 1 (loadRes s [a, b] d (eaIdx s a b) 2 true false)

/-- LDWUX: s[d] := 4 bytes at s[a] + s[b], zero-extended (R164). -/
def execLdwux (d a b : BitVec 6) (s : State) : Host.Outcome State Fault Refusal :=
  retire s 1 (loadRes s [a, b] d (eaIdx s a b) 2 false false)

/-- STBX: the low 1 bytes of s[s] at s[a] + s[b] (R164). -/
def execStbx (r a b : BitVec 6) (s : State) : Host.Outcome State Fault Refusal :=
  retire s 1 (storeRes s [r, a, b] (s.reg r) (eaIdx s a b) 0 false)

/-- STHX: the low 2 bytes of s[s] at s[a] + s[b] (R164). -/
def execSthx (r a b : BitVec 6) (s : State) : Host.Outcome State Fault Refusal :=
  retire s 1 (storeRes s [r, a, b] (s.reg r) (eaIdx s a b) 1 false)

/-- STWX: the low 4 bytes of s[s] at s[a] + s[b] (R164). -/
def execStwx (r a b : BitVec 6) (s : State) : Host.Outcome State Fault Refusal :=
  retire s 1 (storeRes s [r, a, b] (s.reg r) (eaIdx s a b) 2 false)

/-! ### Volatile accesses (R166) -/

/-- VLDB: a volatile load of 1 bytes, zero-extended (R113, R166). -/
def execVldb (d a b : BitVec 6) (s : State) : Host.Outcome State Fault Refusal :=
  retire s 1 (loadRes s [a, b] d (eaIdx s a b) 0 false true)

/-- VLDH: a volatile load of 2 bytes, zero-extended (R113, R166). -/
def execVldh (d a b : BitVec 6) (s : State) : Host.Outcome State Fault Refusal :=
  retire s 1 (loadRes s [a, b] d (eaIdx s a b) 1 false true)

/-- VLDW: a volatile load of 4 bytes, zero-extended (R113, R166). -/
def execVldw (d a b : BitVec 6) (s : State) : Host.Outcome State Fault Refusal :=
  retire s 1 (loadRes s [a, b] d (eaIdx s a b) 2 false true)

/-- VLDD: a volatile load of 8 bytes, zero-extended (R113, R166). -/
def execVldd (d a b : BitVec 6) (s : State) : Host.Outcome State Fault Refusal :=
  retire s 1 (loadRes s [a, b] d (eaIdx s a b) 3 false true)

/-- VSTB: a volatile store of 1 bytes (R113, R166). -/
def execVstb (r a b : BitVec 6) (s : State) : Host.Outcome State Fault Refusal :=
  retire s 1 (storeRes s [r, a, b] (s.reg r) (eaIdx s a b) 0 true)

/-- VSTH: a volatile store of 2 bytes (R113, R166). -/
def execVsth (r a b : BitVec 6) (s : State) : Host.Outcome State Fault Refusal :=
  retire s 1 (storeRes s [r, a, b] (s.reg r) (eaIdx s a b) 1 true)

/-- VSTW: a volatile store of 4 bytes (R113, R166). -/
def execVstw (r a b : BitVec 6) (s : State) : Host.Outcome State Fault Refusal :=
  retire s 1 (storeRes s [r, a, b] (s.reg r) (eaIdx s a b) 2 true)

/-- VSTD: a volatile store of 8 bytes (R113, R166). -/
def execVstd (r a b : BitVec 6) (s : State) : Host.Outcome State Fault Refusal :=
  retire s 1 (storeRes s [r, a, b] (s.reg r) (eaIdx s a b) 3 true)

/-! ### Atomics (R167) -/

/-- ASWP (R119, R167). -/
def execAswp (d a b : BitVec 6) (w : BitVec 1) (s : State) : Host.Outcome State Fault Refusal :=
  retire s 1 (atomicRes s .swp d a b w)

/-- AADD (R119, R167). -/
def execAadd (d a b : BitVec 6) (w : BitVec 1) (s : State) : Host.Outcome State Fault Refusal :=
  retire s 1 (atomicRes s .add d a b w)

/-- AAND (R119, R167). -/
def execAand (d a b : BitVec 6) (w : BitVec 1) (s : State) : Host.Outcome State Fault Refusal :=
  retire s 1 (atomicRes s .and d a b w)

/-- AOR (R119, R167). -/
def execAor (d a b : BitVec 6) (w : BitVec 1) (s : State) : Host.Outcome State Fault Refusal :=
  retire s 1 (atomicRes s .or d a b w)

/-- AXOR (R119, R167). -/
def execAxor (d a b : BitVec 6) (w : BitVec 1) (s : State) : Host.Outcome State Fault Refusal :=
  retire s 1 (atomicRes s .xor d a b w)

/-- AMAX (R119, R167). -/
def execAmax (d a b : BitVec 6) (w : BitVec 1) (s : State) : Host.Outcome State Fault Refusal :=
  retire s 1 (atomicRes s .max d a b w)

/-- AMIN (R119, R167). -/
def execAmin (d a b : BitVec 6) (w : BitVec 1) (s : State) : Host.Outcome State Fault Refusal :=
  retire s 1 (atomicRes s .min d a b w)

/-- AMAXU (R119, R167). -/
def execAmaxu (d a b : BitVec 6) (w : BitVec 1) (s : State) : Host.Outcome State Fault Refusal :=
  retire s 1 (atomicRes s .maxu d a b w)

/-- AMINU (R119, R167). -/
def execAminu (d a b : BitVec 6) (w : BitVec 1) (s : State) : Host.Outcome State Fault Refusal :=
  retire s 1 (atomicRes s .minu d a b w)

/-- ACAS (R119, R167). -/
def execAcas (d a b : BitVec 6) (w : BitVec 1) (s : State) : Host.Outcome State Fault Refusal :=
  retire s 1 (atomicRes s .cas d a b w)

/-! ### MARK (R114, R126) -/

/-- MARK (R114, R126): waits until every earlier access has left its queue and those whose home is in scope are performed; with
system scope, the root ports that the context has written send a zero-length read, and it waits for them too. -/
def execMark (scope : BitVec 6) (s : State) : Host.Outcome State Fault Refusal :=
  retire s 1 (
    let x := s.core.cur
    let c := s.cx x
    if !canLeave c || c.acc.any fun a => !a.done && !a.sent && inScope s scope.toNat a.home then .wait 15
    else if scope = 5 ∧ c.rootW ≠ 0 then .stay (waitFor (askRoots s x) 15)
    else if c.acc.any fun a => !a.done && inScope s scope.toNat a.home then .wait 15
    else .done (s.modCx x (·.allLeft)))

/-! ### Near-DRAM commands (R169, R393) -/

/-- The bank and row that a command names, or its NDRAM fault (R393, subcodes 1 and 2). -/
def ndTarget (s : State) (a : BitVec 6) : Except Flt (Nat × BitVec 13) :=
  let va := va56 (s.reg a)
  match xlate s s.core.cur 1 va with
  | .error f => .error f
  | .ok t =>
    match ownNd s t.pa.toNat with
    | none =>
      let off := (t.pa.toNat % 0x10000000)
      .error ⟨0x15, ndVal 2 (off / 0x800 % 4) (BitVec.ofNat 13 (off / 0x2000)) 0⟩
    | some (i, row) =>
      if (ndBank s i).holder = some s.core.cur then .ok (i, row) else .error ⟨0x15, ndVal 1 i row 0⟩

/-- Earlier accesses of the context to the bank are not all performed (R169). -/
def bankBusy (s : State) (i : Nat) : Bool :=
  (s.cx s.core.cur).acc.any fun a => !a.done && ((ownNd s a.pa.toNat).map (·.1)) == some i

/-- No access that a context of the core has issued to the bank is on its way (R98). -/
def bankIdle (s : State) (i : Nat) : Bool :=
  ctxs.all fun x => (s.cx x).acc.all fun a => a.done || ((ownNd s a.pa.toNat).map (·.1)) != some i

/-- Replace near-DRAM bank `i`. -/
def setNd (s : State) (i : Nat) (b : NdBank) : State := s.modCore fun k => { k with nd := k.nd.setIfInBounds i b }

/-- ACT opens the row of s[a] (R99, R169): 12 ns after the PRE, and not while a REF runs. -/
def execAct (a : BitVec 6) (s : State) : Host.Outcome State Fault Refusal :=
  retire s 1 (
    if hazard s [a] [] then .wait 15
    else match ndTarget s a with
    | .error f => .fault f
    | .ok (i, row) =>
      let b := ndBank s i
      if b.row.isSome then .fault ⟨0x15, ndVal 3 i row 0⟩
      else if bankBusy s i || decide ((now s).toNat < b.preAt.toNat + 12) || decide ((now s).toNat < b.busy.toNat) then .wait 15
      else .done (setNd s i { b with row := some row, actAt := now s }))

/-- PRE closes the open row of the bank (R99, R169): 32 ns after the ACT. -/
def execPre (a : BitVec 6) (s : State) : Host.Outcome State Fault Refusal :=
  retire s 1 (
    if hazard s [a] [] then .wait 15
    else match ndTarget s a with
    | .error f => .fault f
    | .ok (i, _) =>
      let b := ndBank s i
      if bankBusy s i || (b.row.isSome && decide ((now s).toNat < b.actAt.toNat + 32)) || decide ((now s).toNat < b.busy.toNat) then .wait 15
      else .done (setNd s i { b with row := none, preAt := now s }))

/-- Errors of the row that a refresh of a manual bank corrects (R408): as many of its 256 words as a free word says. -/
def rowErrors (s : State) : Nat := fldN (freeWord s 0x300) 0 16 % 257

/-- REF refreshes the bank's next row (R99, R169): the bank is precharged first, it is busy for 110 ns, and a new refresh
interval starts. The errors it finds are corrected and counted (R408). -/
def execRef (a : BitVec 6) (s : State) : Host.Outcome State Fault Refusal :=
  retire s 1 (
    if hazard s [a] [] then .wait 15
    else match ndTarget s a with
    | .error f => .fault f
    | .ok (i, _) =>
      let b := ndBank s i
      if bankBusy s i || (b.row.isSome && decide ((now s).toNat < b.actAt.toNat + 32)) || decide ((now s).toNat < b.busy.toNat) then .wait 15
      else .done (countCEs (setNd s i { b with row := none, preAt := if b.row.isSome then now s else b.preAt,
                                               refrow := b.refrow + 1, refAt := now s, busy := now s + 110 }) 1 (rowErrors s)))

end Sys2Proof.Machine
end

