-- ==== Sys2Proof/Machine/Nest.lean ====
section
/-! DEFINITION. The matrix loop nest held in MXC0 to MXC9 (R145, R222): its levels, its index tuples, and the slots and
banks that its steps reach (R224, R227, R380). -/
namespace Sys2Proof.Machine

open Bits

/-- A level of the nest (R145). -/
structure NLevel where
  count : Nat
  sa    : Int
  sb    : Int
  sacc  : Int
  fk    : Bool
  lk    : Bool
  tsl   : Bool
deriving DecidableEq, Repr

/-- A committed configuration MXC0 to MXC9 (R223). -/
abbrev NestCfg := Vector Word 10

/-- Level `n` of a nest; a COUNT of 0 or 1 gives one iteration (R145). -/
def NestCfg.level (c : NestCfg) (n : Nat) : NLevel :=
  let w := c.toList.getD n 0
  { count := max (fldN w 0 16) 1, sa := (fld w 16 8).toInt, sb := (fld w 24 8).toInt, sacc := (fld w 32 8).toInt,
    fk := bit w 40, lk := bit w 41, tsl := bit w 42 }

/-- The six levels, innermost first. -/
def NestCfg.levels (c : NestCfg) : List NLevel := (List.range 6).map c.level

/-- Number of steps of the nest (R224). -/
def NestCfg.steps (c : NestCfg) : Nat := (c.levels.map (·.count)).foldl (· * ·) 1

/-- The indices i0 to i5 of linear step `k`, i0 fastest (R224). -/
def NestCfg.indices (c : NestCfg) (k : Nat) : List Nat :=
  (c.levels.foldl (fun (r : Nat × List Nat) l => (r.1 / l.count, r.2 ++ [r.1 % l.count])) (k, [])).2

/-- A field of MXCn. -/
def NestCfg.get' (c : NestCfg) (n lo len : Nat) : Nat := fldN (c.toList.getD n 0) lo len

/-- AFMT, BFMT (R222). -/
def NestCfg.afmt (c : NestCfg) : Nat := c.get' 7 0 5
/-- BFMT (R222). -/
def NestCfg.bfmt (c : NestCfg) : Nat := c.get' 7 8 5
/-- SPB: the B slots hold the sparse form (R222). -/
def NestCfg.spb (c : NestCfg) : Bool := c.get' 7 13 1 == 1
/-- LR: low-rank correction on (R222). -/
def NestCfg.lr (c : NestCfg) : Bool := c.get' 7 14 1 == 1
/-- RANK (R222). -/
def NestCfg.rank (c : NestCfg) : Nat := c.get' 8 0 6
/-- VSL (R222). -/
def NestCfg.vsl (c : NestCfg) : Nat := c.get' 8 8 6
/-- USL (R222). -/
def NestCfg.usl (c : NestCfg) : Nat := c.get' 8 16 6
/-- LB (R222). -/
def NestCfg.lb (c : NestCfg) : Nat := c.get' 8 24 3
/-- EOP (R222). -/
def NestCfg.eop (c : NestCfg) : Nat := c.get' 9 0 3
/-- EREG (R222). -/
def NestCfg.ereg (c : NestCfg) : Nat := c.get' 9 8 5

/-- Tile K of a format class (R210): 64, 128 or 256. -/
def tileK (f : Nat) : Nat := if f = 2 then 64 else if f = 5 ∨ f = 6 then 128 else 256

/-- base + Σ stride·index, modulo `m` (R145). -/
def strided (m base : Nat) (ss : List Int) (is : List Nat) : Nat :=
  ((base : Int) + ((ss.zip is).map fun p => p.1 * (p.2 : Int)).foldl (· + ·) 0).emod (m : Int) |>.toNat

/-- The A slot, B slot and bank of a step (R145). -/
def NestCfg.place (c : NestCfg) (is : List Nat) : Nat × Nat × Nat :=
  (strided 64 (c.get' 6 0 6) (c.levels.map (·.sa)) is, strided 64 (c.get' 6 8 6) (c.levels.map (·.sb)) is,
   strided 32 (c.get' 6 16 5) (c.levels.map (·.sacc)) is)

/-- kidx: the linear index over the levels with FK or LK set, inner fastest (R227). -/
def NestCfg.kidx (c : NestCfg) (is : List Nat) : Nat :=
  ((c.levels.zip is).foldl (fun (r : Nat × Nat) p =>
    if p.1.fk || p.1.lk then (r.1 + r.2 * p.2, r.2 * p.1.count) else r) (0, 1)).1

/-- First-K step (R224). -/
def NestCfg.first (c : NestCfg) (is : List Nat) : Bool :=
  c.levels.any (·.fk) && (c.levels.zip is).all fun p => !p.1.fk || p.2 == 0

/-- Last-K step (R224). -/
def NestCfg.last (c : NestCfg) (is : List Nat) : Bool :=
  c.levels.any (·.lk) && (c.levels.zip is).all fun p => !p.1.lk || p.2 + 1 == p.1.count

/-- The V slots of a step with A slots of format `f` (R227). -/
def NestCfg.vslots (c : NestCfg) (is : List Nat) : List Nat :=
  let n := tileK c.afmt / 64
  (List.range n).map fun j => (c.vsl + n * c.kidx is + j) % 64

/-- Values reached by adding stride·i, i below the count, to those of `l`, modulo `m`. -/
def spread (m : Nat) (l : List Nat) (stride : Int) (count : Nat) : List Nat :=
  (l.flatMap fun (b : Nat) => (List.range (min count m)).map fun (i : Nat) => (((b : Int) + stride * (i : Int)).emod m).toNat).eraseDups

/-- The set of slots or banks over all index tuples, from a base. -/
def reach (m base : Nat) (ls : List (Int × Nat)) : List Nat := ls.foldl (fun l p => spread m l p.1 p.2) [base]

/-- Every slot that some step of the nest reads (R380), as a set. -/
def NestCfg.slotSet (c : NestCfg) : List Nat :=
  let n := tileK c.afmt / 64
  let ks := (c.levels.filter fun l => l.fk || l.lk).map (·.count) |>.foldl (· * ·) 1
  (reach 64 (c.get' 6 0 6) (c.levels.map fun l => (l.sa, l.count)) ++
   reach 64 (c.get' 6 8 6) (c.levels.map fun l => (l.sb, l.count)) ++
   (if c.lr then c.usl :: reach 64 c.vsl [((n : Int), ks), (1, n)] else [])).eraseDups

/-- Every bank that some step of the nest updates (R380). -/
def NestCfg.bankSet (c : NestCfg) : List Nat := reach 32 (c.get' 6 16 5) (c.levels.map fun l => (l.sacc, l.count))

/-- A list of numbers as a bit set. -/
def bits (n : Nat) (l : List Nat) : BitVec n := l.foldl (fun m i => m ||| BitVec.ofNat n (2 ^ (i % n))) 0

end Sys2Proof.Machine
end

