-- ==== Sys2Proof/Machine/Queue.lean ====
section
/-! DEFINITION. Appending an entry (R37, R38, R141, R142, R180, R196, R378, R379, R380): the header, the ring slot, the
store of the 64 bytes, and what the append makes known to the interlocks. -/
namespace Sys2Proof.Machine

open Bits

/-! ### The header (R38, R141, R142) -/

/-- BoundOf(CB) in units of 64 cycles (R142). -/
def boundOf (cb : BitVec 8) : Nat :=
  let e := fldN cb 4 4
  let m := fldN cb 0 4
  if e = 0 then m else (16 + m) * 2 ^ (e - 1)

/-- The header of an entry that context `c` appends (R38, R141). -/
def mkHeader (c : Ctx) (e : Eng) (code : BitVec 8) (sync : BitVec 16) (bound : Nat) (nr : Bool) (treg : BitVec 6) : Word :=
  let i := engNum e - 1
  0#8 ++ (0#2 ++ treg) ++ BitVec.ofNat 16 bound ++ b1 (bit c.efl (8 + i)) ++ b1 (bit c.efl (16 + i)) ++
    b1 (nr || bit c.efl (24 + i)) ++ b1 (bit c.efl i) ++ sync ++ b1 c.world ++ BitVec.ofNat 3 (engNum e) ++ code

/-- The four fields of SYNC (R141): POP0, POP1, POP2, PUSH. -/
def syncFields (w : BitVec 16) : List Nat := [fldN w 0 4, fldN w 4 4, fldN w 8 4, fldN w 12 4]

/-- A pop or push field that names no engine, or the entry's own (R379). -/
def syncBad (e : Eng) (w : BitVec 16) : Bool :=
  (syncFields w).any fun f => (decide (7 ≤ f) && decide (f ≤ 14)) || f == engNum e

/-- Two instruction words as TVAL gives them (R370). -/
def wordsVal (w0 w1 : IWord) : Word := w1 ++ w0

/-! ### The ring (R35, R37) -/

/-- The slot after `t`; slot 255 holds the LINK (R37). -/
def nextSlot (t : BitVec 8) : BitVec 8 := if t = 254 then 0 else t + 1

/-- Slot `n` still holds an entry: one not started, or one retained in the window (R37, R416). -/
def slotBusy (q : EngQ) (n : BitVec 8) : Bool := q.pend.any (·.slot == n) || q.window.any (·.slot == some n)

/-- The address of ring slot `n`. -/
def ringAddr (q : EngQ) (n : BitVec 8) : VAddr := va56 q.qbase + BitVec.ofNat 56 (64 * n.toNat)

/-- The head has reached the tail, slot 255 being the LINK to slot 0 (R35, R37). -/
def EngQ.atTail (q : EngQ) : Bool :=
  va56 q.qhead == ringAddr q q.qtail || (va56 q.qhead == ringAddr q 255 && q.qtail == 0)

/-- The queue is empty, every entry has completed, and so every retained entry may retire (R35, R417). -/
def EngQ.quiet (q : EngQ) : Bool := q.pend.isEmpty && q.run.isNone && q.chain.isNone && q.atTail

/-- Access `b`, unperformed, touches one of the `n` bytes at physical address `p` (R111). -/
def touches (p n : Nat) (b : Acc) : Bool := !b.done && decide (b.pa.toNat < p + n) && decide (p < b.pa.toNat + b.size)

/-- Earlier accesses of the context come before an access to `n` bytes that the instruction performs itself (R110, R111). -/
def accWaits (c : Ctx) (a : Acc) (n : Nat) : Bool :=
  !clear c { a with id := c.nextAcc } || c.acc.any (touches a.pa.toNat n)

/-- An access that the instruction performs itself leaves its queue, and those before it in the queue with it (R110). -/
def Ctx.direct (c : Ctx) (a : Acc) : Ctx := c.leave (leavers c { a with id := c.nextAcc })

/-- Slots that are not FREE (R380). -/
def claimed (s : State) : BitVec 64 := bits 64 ((List.range 64).filter fun i => (s.slot (BitVec.ofNat 6 i)).state != 0)
/-- Banks that are not FREE (R380). -/
def allocated (s : State) : BitVec 32 := bits 32 ((List.range 32).filter fun i => (s.bank (BitVec.ofNat 5 i)).state != 0)

/-- The ring of the context that issues has no slot for another entry on engine `e` (R37). -/
def ringFull (s : State) (e : Eng) : Bool := let q := s.eq s.core.cur e; slotBusy q (nextSlot q.qtail)

/-- Append an entry whose header, operand bytes and interlock record are given by the sequence number (R37). The entry
is a store of the context; nothing happens when it cannot be made. `k` numbers are consumed. -/
def appendEntry (s : State) (e : Eng) (hdr : Word) (body : List Byte) (k : Nat) (info : Word → Pend) : Res :=
  let x := s.core.cur
  let c := s.cx x
  let q := c.eq e
  let va := ringAddr q q.qtail
  if ringFull s e then .wait 15
  else match accCheck s 2 3 va with
  | .error f => .fault f
  | .ok t =>
    let a := newAcc s (.write 0) va t 3 false
    let who := accWriter s x 1 a
    if accWaits c a 64 then .wait 15
    else if storeHeld s x t.pa.toNat 64 then .stay (holdStore s x t.pa.toNat 64 who)
    else
      let seq := q.qlast + 1
      let (s, ok) := sectionFor ((tlbFill s x va t).modCx x (·.direct a)) x t.pa.toNat
      if !ok then .stay s
      else
        let bytes := toBytes hdr 8 ++ toBytes seq 8 ++ body ++ List.replicate (48 - body.length) 0
        let s := noteStore s x t.pa.toNat 64 who
        let s := rawStore s t.pa.toNat bytes
        let s := s.modEq x e fun q => { q with
          qtail := nextSlot q.qtail
          qlast := q.qlast + BitVec.ofNat 64 k
          pend := q.pend ++ [{ info seq with
            seq := seq, slot := q.qtail, rel := c.nextAcc, lent := c.v.lent
            slots := (info seq).slots &&& claimed s, banks := (info seq).banks &&& allocated s
            names := (info seq).banks }] }
        .done (s.modCx x fun c => { c with nextAcc := c.nextAcc + 1 })

/-- An interlock record that names nothing. -/
def Pend.plain : Pend := ⟨0, 0, 0, 0, 0, 0, 0, none, none, none, none, Vector.replicate 4 false⟩

/-- The engine of a format E major opcode (R141). -/
def engOp (e : Eng) : BitVec 6 :=
  match e with | .cpe => 0x20 | .gxe => 0x21 | .mxe => 0x22 | .vxe => 0x23 | .opp => 0x24 | .clp => 0x25 | .seq => 0x20

/-- An engine command (R141, R180): it waits for its operands and token register and for room in the ring, and is then checked
(R368): SYNC, then the append. `body` gives
bytes 16 to 63 and `info` what the interlocks learn, from the operand values. -/
def command (s : State) (e : Eng) (cmd : BitVec 7) (sync : BitVec 16) (a b c t : BitVec 6) (cb : BitVec 8) (nr : Bool)
    (b40 : List Byte) (info : State → Word → Word → Word → Pend) : Res :=
  let cx := s.cx s.core.cur
  if hazard s [a, b, c, t] [] || ringFull s e then .wait 15
  else if syncBad e sync then
    .fault ⟨0x07, wordsVal (mkE0 (engOp e) (BitVec.ofNat 3 (engNum e)) cmd sync) (mkE1 a b c t cb)⟩
  else
    let va := s.reg a
    let vb := s.reg b
    let vc := s.reg c
    let hdr := mkHeader cx e (0#1 ++ cmd) sync (boundOf cb) nr t
    match appendEntry s e hdr (toBytes va 8 ++ toBytes vb 8 ++ toBytes vc 8 ++ b40) 1 (fun _ => info s va vb vc) with
    | .done s => .done (s.modCx s.core.cur fun c =>
        { c with efl := setFld c.efl (engNum e - 1) 0#1
                 tkpend := if t = 0 then c.tkpend else setFld c.tkpend t.toNat 1#1 })
    | r => r

/-! ### Slots, banks and registers that entries name (R238, R380) -/

/-- The set with only `i`. -/
def oneBit (n i : Nat) : BitVec n := bits n [i]

/-- A CPS or GEXP names the slot of s[b]. -/
def namesSlot (_ : State) (_ b _ : Word) : Pend := { Pend.plain with slots := oneBit 64 (fldN b 0 6) }

/-- The band of a row word (R219). -/
def rowBand (a : Word) : BitVec 6 := b1 (decide (32 ≤ fldN a 5 6)) ++ fld a 0 5

/-- An ADRAIN names the bank and band of its row word. -/
def namesBand (_ : State) (a _ _ : Word) : Pend :=
  { Pend.plain with banks := oneBit 32 (fldN a 0 5), band := some (rowBand a) }

/-- An AREAD also makes its destination registers pending (R219). -/
def namesRead (s : State) (a b c : Word) : Pend :=
  { namesBand s a b c with vregs := BitVec.ofNat 32 ((2 ^ (fldN a 11 5 + 1) - 1) * 2 ^ fldN b 0 5) }

/-- Nothing is named. -/
def namesNone (_ : State) (_ _ _ : Word) : Pend := .plain

/-- A micro-order names vd as a written register (R238): every op but VST, VSCT, VSTBS, VDEFER, the loop ops, VNOP, the
compares and the mask ops other than VMPOP. -/
def writesVd (w : IWord) : Bool :=
  let o := (uop w).toNat
  !([0x00, 0x1A, 0x1B, 0x1C, 0x34, 0x35, 0x68, 0x69, 0x6A, 0x6B, 0x6C, 0x6D, 0x6F, 0x71, 0x73, 0x75, 0x79, 0x7A, 0x7B].contains o)

/-- The write set W[t] of a table (R238). -/
def writeSet (t : Table) : BitVec 32 :=
  (t.code.toList.take t.len).foldl (fun m w => if writesVd w then m ||| oneBit 32 (ud w).toNat else m) 0

/-- A table, by a two-bit number. -/
def Ctx.table (c : Ctx) (t : Nat) : Table := c.v.tables.toList.getD t .reset

/-- A run of a table whose VTLD, appended before it, is still to complete: the registers it will name are not known yet
(R235, R238; entry 96). -/
def unloadedRun : List Pend → Bool
  | [] => false
  | p :: l => (match p.tbl with | none => false | some t => l.any (·.runs == some t)) || unloadedRun l

/-- A VRUN names its table, whose W[t] is pending, and for a drain run the registers that it fills (R238). -/
def namesRun (_ : State) (a _ d : Word) : Pend :=
  let fills : BitVec 32 := if bit a 2 then BitVec.ofNat 32 (15 * 2 ^ fldN d 0 5) ||| oneBit 32 (fldN d 5 5) else 0
  { Pend.plain with vregs := fills, runs := some (Fin.ofNat 4 (fldN a 0 2)) }

/-- A VTLD names the table it loads. -/
def namesTable (_ : State) (a _ _ : Word) : Pend := { Pend.plain with tbl := some (Fin.ofNat 4 (fldN a 0 2)) }

/-- The vector registers of a context that an entry keeps pending: its own, and W[t] of the table that it runs (R238). -/
def Ctx.pendOf (c : Ctx) (p : Pend) : BitVec 32 :=
  p.vregs ||| (match p.runs with | none => 0 | some t => writeSet (c.table t.val))

/-- The vector registers of a context that entries keep pending (R238, R219). -/
def Ctx.vpend (c : Ctx) : BitVec 32 :=
  engines.foldl (fun m e => (c.eq e).records.foldl (fun m p => m ||| c.pendOf p) m) 0

/-- Which registers are pending waits on a VTLD (R238; entry 96). -/
def Ctx.vunknown (c : Ctx) : Bool := unloadedRun (c.eq .vxe).records

/-- The started entry of the CPE is an ADRAIN, which a chain may hold (R201, R220). -/
def Ctx.inDrain (c : Ctx) : Bool := (c.eq .cpe).run.any fun r => fldN r.hdr 0 8 == 3

/-- The context still has an AREAD or ADRAIN to complete (R216, R82). -/
def Ctx.reading (c : Ctx) : Bool := c.inDrain || engines.any fun e => (c.eq e).records.any fun p => p.band.isSome

/-- An MGO names every slot and bank that a step of its committed nest reaches (R380). -/
def namesNest (n : NestCfg) : Pend := { Pend.plain with slots := bits 64 n.slotSet, banks := bits 32 n.bankSet }

/-- The queue records of the core's contexts. -/
def unstarted (s : State) : List Pend := ctxs.flatMap fun x => engines.flatMap fun e => ((s.cx x).eq e).pend

/-- The nests retained in the MXE windows of the core (R420). -/
def keptNests (s : State) : List NestCfg := ctxs.flatMap fun x => (((s.cx x).eq .mxe).window.filterMap (·.nest))

/-- Slots that CLAIM and CLAIMP pass over: unstarted entries (R380) or retained MXE entries (R420) name them. -/
def heldSlots (s : State) : BitVec 64 :=
  (keptNests s).foldl (fun m n => m ||| bits 64 n.slotSet) ((unstarted s).foldl (fun m p => m ||| p.slots) 0)

/-- Banks that ABANK passes over (R380, R420). -/
def heldBanks (s : State) : BitVec 32 :=
  let read := ctxs.flatMap fun x => ((s.cx x).eq .mxe).window.filterMap (·.bank)
  (keptNests s).foldl (fun m n => m ||| bits 32 n.bankSet) ((unstarted s).foldl (fun m p => m ||| p.banks) (bits 32 (read.map (·.toNat))))

end Sys2Proof.Machine
end

