-- ==== Sys2Proof/Machine/Scalar.lean ====
section
/-! DEFINITION. The meanings of the integer register, immediate, long-immediate and predicate forms (R153 to R158). -/
namespace Sys2Proof.Machine

open Bits

/-! ### Values (R153 to R156) -/

/-- The shift count of a register form: the low six bits (R153). -/
def shamt (b : Word) : Nat := fldN b 0 6
/-- Sat64 of a signed exact value (R154). -/
def sat64 (v : Int) : Word :=
  if v < -(2 ^ 63) then BitVec.ofInt 64 (-(2 ^ 63)) else if 2 ^ 63 ≤ v then BitVec.ofInt 64 (2 ^ 63 - 1) else BitVec.ofInt 64 v
/-- Signed quotient, truncated toward zero; all ones for a divisor of 0, −2^63 for −2^63 by −1 (R153, R154). -/
def divS (a b : Word) : Word := if b = 0 then BitVec.allOnes 64 else BitVec.ofInt 64 (a.toInt.tdiv b.toInt)
/-- Unsigned quotient; all ones for a divisor of 0 (R154). -/
def divU (a b : Word) : Word := if b = 0 then BitVec.allOnes 64 else BitVec.ofNat 64 (a.toNat / b.toNat)
/-- Signed remainder with the sign of `a`; `a` for a divisor of 0 (R154). -/
def remS (a b : Word) : Word := if b = 0 then a else BitVec.ofInt 64 (a.toInt.tmod b.toInt)
/-- Unsigned remainder; `a` for a divisor of 0 (R154). -/
def remU (a b : Word) : Word := if b = 0 then a else BitVec.ofNat 64 (a.toNat % b.toNat)
/-- High 64 bits of a product (R153). -/
def mulHigh (x y : Int) : Word := BitVec.ofInt 64 ((x * y) / 2 ^ 64)
/-- Leading zeros among the low `n` bits (R153). -/
def clzN (w : Word) : Nat → Nat
  | 0 => 0
  | n + 1 => if bit w n then 0 else 1 + clzN w n
/-- Trailing zeros from bit `i`, `n` bits left (R153). -/
def ctzN (w : Word) (i : Nat) : Nat → Nat
  | 0 => 0
  | n + 1 => if bit w i then 0 else 1 + ctzN w (i + 1) n
/-- One bits among the low `n` bits (R153). -/
def popN (w : Word) : Nat → Nat
  | 0 => 0
  | n + 1 => (if bit w n then 1 else 0) + popN w n
/-- The bytes of a word in reverse order (R153). -/
def bswap64 (w : Word) : Word :=
  fld w 0 8 ++ fld w 8 8 ++ fld w 16 8 ++ fld w 24 8 ++ fld w 32 8 ++ fld w 40 8 ++ fld w 48 8 ++ fld w 56 8
/-- The low `n` bits sign-extended (R153). -/
def sextLow (n : Nat) (w : Word) : Word := (w.setWidth n).signExtend 64

/-! ### Register forms (R153) -/

/-- NOP (R153): no effect but the retirement. -/
def execNop (s : State) : Host.Outcome State Fault Refusal := retire s 1 (.done s)

/-- RDSTR: s[d] := PKG.STROKE.COUNT (R130, R153). -/
def execRdstr (d : BitVec 6) (s : State) : Host.Outcome State Fault Refusal := retire s 1 (regResult s [] d (now s))

/-- ADD: s[d] := s[a] + s[b], modulo 2^64 (R153, R154). -/
def execAdd (d a b : BitVec 6) (s : State) : Host.Outcome State Fault Refusal :=
  retire s 1 (aluR s d a b (fun x y => x + y))

/-- SUB: s[d] := s[a] − s[b], modulo 2^64 (R153, R154). -/
def execSub (d a b : BitVec 6) (s : State) : Host.Outcome State Fault Refusal :=
  retire s 1 (aluR s d a b (fun x y => x - y))

/-- AND: s[d] := s[a] and s[b] (R153, R154). -/
def execAnd (d a b : BitVec 6) (s : State) : Host.Outcome State Fault Refusal :=
  retire s 1 (aluR s d a b (fun x y => x &&& y))

/-- OR: s[d] := s[a] or s[b] (R153, R154). -/
def execOr (d a b : BitVec 6) (s : State) : Host.Outcome State Fault Refusal :=
  retire s 1 (aluR s d a b (fun x y => x ||| y))

/-- XOR: s[d] := s[a] xor s[b] (R153, R154). -/
def execXor (d a b : BitVec 6) (s : State) : Host.Outcome State Fault Refusal :=
  retire s 1 (aluR s d a b (fun x y => x ^^^ y))

/-- ANDN: s[d] := s[a] and not s[b] (R153, R154). -/
def execAndn (d a b : BitVec 6) (s : State) : Host.Outcome State Fault Refusal :=
  retire s 1 (aluR s d a b (fun x y => x &&& ~~~y))

/-- SLL: s[d] := s[a] shifted left (R153, R154). -/
def execSll (d a b : BitVec 6) (s : State) : Host.Outcome State Fault Refusal :=
  retire s 1 (aluR s d a b (fun x y => x <<< shamt y))

/-- SRL: s[d] := s[a] shifted right, zeros in (R153, R154). -/
def execSrl (d a b : BitVec 6) (s : State) : Host.Outcome State Fault Refusal :=
  retire s 1 (aluR s d a b (fun x y => x >>> shamt y))

/-- SRA: s[d] := s[a] shifted right, sign in (R153, R154). -/
def execSra (d a b : BitVec 6) (s : State) : Host.Outcome State Fault Refusal :=
  retire s 1 (aluR s d a b (fun x y => x.sshiftRight (shamt y)))

/-- ROR: s[d] := s[a] rotated right (R153, R154). -/
def execRor (d a b : BitVec 6) (s : State) : Host.Outcome State Fault Refusal :=
  retire s 1 (aluR s d a b (fun x y => x.rotateRight (shamt y)))

/-- MIN: s[d] := signed minimum (R153, R154). -/
def execMin (d a b : BitVec 6) (s : State) : Host.Outcome State Fault Refusal :=
  retire s 1 (aluR s d a b (fun x y => if x.slt y then x else y))

/-- MAX: s[d] := signed maximum (R153, R154). -/
def execMax (d a b : BitVec 6) (s : State) : Host.Outcome State Fault Refusal :=
  retire s 1 (aluR s d a b (fun x y => if x.slt y then y else x))

/-- MINU: s[d] := unsigned minimum (R153, R154). -/
def execMinu (d a b : BitVec 6) (s : State) : Host.Outcome State Fault Refusal :=
  retire s 1 (aluR s d a b (fun x y => if x.ult y then x else y))

/-- MAXU: s[d] := unsigned maximum (R153, R154). -/
def execMaxu (d a b : BitVec 6) (s : State) : Host.Outcome State Fault Refusal :=
  retire s 1 (aluR s d a b (fun x y => if x.ult y then y else x))

/-- ADDW: s[d] := the low 32 bits of the sum, sign-extended (R153, R154). -/
def execAddw (d a b : BitVec 6) (s : State) : Host.Outcome State Fault Refusal :=
  retire s 1 (aluR s d a b (fun x y => sextLow 32 (x + y)))

/-- SUBW: s[d] := the low 32 bits of the difference, sign-extended (R153, R154). -/
def execSubw (d a b : BitVec 6) (s : State) : Host.Outcome State Fault Refusal :=
  retire s 1 (aluR s d a b (fun x y => sextLow 32 (x - y)))

/-- ADDS: s[d] := Sat64 of the signed sum (R153, R154). -/
def execAdds (d a b : BitVec 6) (s : State) : Host.Outcome State Fault Refusal :=
  retire s 1 (aluR s d a b (fun x y => sat64 (x.toInt + y.toInt)))

/-- SUBS: s[d] := Sat64 of the signed difference (R153, R154). -/
def execSubs (d a b : BitVec 6) (s : State) : Host.Outcome State Fault Refusal :=
  retire s 1 (aluR s d a b (fun x y => sat64 (x.toInt - y.toInt)))

/-- MUL: s[d] := low 64 bits of the product (R153, R154). -/
def execMul (d a b : BitVec 6) (s : State) : Host.Outcome State Fault Refusal :=
  retire s 1 (aluR s d a b (fun x y => x * y))

/-- MULH: s[d] := high 64 bits, signed × signed (R153, R154). -/
def execMulh (d a b : BitVec 6) (s : State) : Host.Outcome State Fault Refusal :=
  retire s 1 (aluR s d a b (fun x y => mulHigh x.toInt y.toInt))

/-- MULHU: s[d] := high 64 bits, unsigned × unsigned (R153, R154). -/
def execMulhu (d a b : BitVec 6) (s : State) : Host.Outcome State Fault Refusal :=
  retire s 1 (aluR s d a b (fun x y => mulHigh x.toNat y.toNat))

/-- MULHSU: s[d] := high 64 bits, signed × unsigned (R153, R154). -/
def execMulhsu (d a b : BitVec 6) (s : State) : Host.Outcome State Fault Refusal :=
  retire s 1 (aluR s d a b (fun x y => mulHigh x.toInt y.toNat))

/-- DIV: s[d] := signed quotient (R153, R154). -/
def execDiv (d a b : BitVec 6) (s : State) : Host.Outcome State Fault Refusal :=
  retire s 1 (aluR s d a b (divS))

/-- DIVU: s[d] := unsigned quotient (R153, R154). -/
def execDivu (d a b : BitVec 6) (s : State) : Host.Outcome State Fault Refusal :=
  retire s 1 (aluR s d a b (divU))

/-- REM: s[d] := signed remainder (R153, R154). -/
def execRem (d a b : BitVec 6) (s : State) : Host.Outcome State Fault Refusal :=
  retire s 1 (aluR s d a b (remS))

/-- REMU: s[d] := unsigned remainder (R153, R154). -/
def execRemu (d a b : BitVec 6) (s : State) : Host.Outcome State Fault Refusal :=
  retire s 1 (aluR s d a b (remU))

/-- CLZ: s[d] := count of leading zeros (R153). -/
def execClz (d a : BitVec 6) (s : State) : Host.Outcome State Fault Refusal :=
  retire s 1 (aluU s d a (fun x => BitVec.ofNat 64 (clzN x 64)))

/-- CTZ: s[d] := count of trailing zeros (R153). -/
def execCtz (d a : BitVec 6) (s : State) : Host.Outcome State Fault Refusal :=
  retire s 1 (aluU s d a (fun x => BitVec.ofNat 64 (ctzN x 0 64)))

/-- POPC: s[d] := count of one bits (R153). -/
def execPopc (d a : BitVec 6) (s : State) : Host.Outcome State Fault Refusal :=
  retire s 1 (aluU s d a (fun x => BitVec.ofNat 64 (popN x 64)))

/-- SEXTB: s[d] := low 8 bits sign-extended (R153). -/
def execSextb (d a : BitVec 6) (s : State) : Host.Outcome State Fault Refusal :=
  retire s 1 (aluU s d a (sextLow 8))

/-- SEXTH: s[d] := low 16 bits sign-extended (R153). -/
def execSexth (d a : BitVec 6) (s : State) : Host.Outcome State Fault Refusal :=
  retire s 1 (aluU s d a (sextLow 16))

/-- SEXTW: s[d] := low 32 bits sign-extended (R153). -/
def execSextw (d a : BitVec 6) (s : State) : Host.Outcome State Fault Refusal :=
  retire s 1 (aluU s d a (sextLow 32))

/-- ZEXTW: s[d] := low 32 bits zero-extended (R153). -/
def execZextw (d a : BitVec 6) (s : State) : Host.Outcome State Fault Refusal :=
  retire s 1 (aluU s d a (fun x => (x.setWidth 32).setWidth 64))

/-- BSWAP: s[d] := byte order reversed (R153). -/
def execBswap (d a : BitVec 6) (s : State) : Host.Outcome State Fault Refusal :=
  retire s 1 (aluU s d a (bswap64))

/-! ### Immediate and long forms (R155, R156) -/

/-- ADDI: s[d] := s[a] + imm, modulo 2^64 (R155). -/
def execAddi (d a : BitVec 6) (i : BitVec 14) (s : State) : Host.Outcome State Fault Refusal :=
  retire s 1 (aluI s d a i (fun x y => x + y))

/-- ANDI: s[d] := s[a] and imm (R155). -/
def execAndi (d a : BitVec 6) (i : BitVec 14) (s : State) : Host.Outcome State Fault Refusal :=
  retire s 1 (aluI s d a i (fun x y => x &&& y))

/-- ORI: s[d] := s[a] or imm (R155). -/
def execOri (d a : BitVec 6) (i : BitVec 14) (s : State) : Host.Outcome State Fault Refusal :=
  retire s 1 (aluI s d a i (fun x y => x ||| y))

/-- XORI: s[d] := s[a] xor imm (R155). -/
def execXori (d a : BitVec 6) (i : BitVec 14) (s : State) : Host.Outcome State Fault Refusal :=
  retire s 1 (aluI s d a i (fun x y => x ^^^ y))

/-- MULI: s[d] := low 64 bits of s[a] × imm (R155). -/
def execMuli (d a : BitVec 6) (i : BitVec 14) (s : State) : Host.Outcome State Fault Refusal :=
  retire s 1 (aluI s d a i (fun x y => x * y))

/-- SLLI: s[d] := s[a] shifted left by imm (R155). -/
def execSlli (d a i : BitVec 6) (s : State) : Host.Outcome State Fault Refusal :=
  retire s 1 (aluU s d a (fun x => x <<< i.toNat))

/-- SRLI: s[d] := s[a] shifted right by imm, zeros in (R155). -/
def execSrli (d a i : BitVec 6) (s : State) : Host.Outcome State Fault Refusal :=
  retire s 1 (aluU s d a (fun x => x >>> i.toNat))

/-- SRAI: s[d] := s[a] shifted right by imm, sign in (R155). -/
def execSrai (d a i : BitVec 6) (s : State) : Host.Outcome State Fault Refusal :=
  retire s 1 (aluU s d a (fun x => x.sshiftRight i.toNat))

/-- LI: s[d] := SignExtend64(imm) (R156). -/
def execLi (d : BitVec 6) (imm : BitVec 42) (s : State) : Host.Outcome State Fault Refusal :=
  retire s 2 (regResult s [] d (imm.signExtend 64))

/-- ADDLI: s[d] := s[a] + SignExtend64(imm), modulo 2^64 (R156). -/
def execAddli (d a : BitVec 6) (imm : BitVec 42) (s : State) : Host.Outcome State Fault Refusal :=
  retire s 2 (aluU s d a (fun x => x + imm.signExtend 64))

/-- LIU: s[d] := imm[21:0] over the low 42 bits of s[a] (R156). -/
def execLiu (d a : BitVec 6) (imm : BitVec 22) (s : State) : Host.Outcome State Fault Refusal :=
  retire s 2 (aluU s d a (fun x => imm ++ fld x 0 42))

/-! ### Predicates (R157, R158) -/

/-- CMP: 64-bit compare of s[a] with s[b] (R157). -/
def execCmp (p : BitVec 5) (n : BitVec 1) (a b : BitVec 6) (c f : BitVec 4) (s : State) : Host.Outcome State Fault Refusal :=
  retire s 1 (compareP s p n [a, b] c f (s.reg a) (s.reg b))

/-- CMPI: 64-bit compare of s[a] with imm6 (R157). -/
def execCmpi (p : BitVec 5) (n : BitVec 1) (a i : BitVec 6) (c f : BitVec 4) (s : State) : Host.Outcome State Fault Refusal :=
  retire s 1 (compareP s p n [a] c f (s.reg a) (imm6 i))

/-- CMPW: compare of the sign-extended low words of s[a] and s[b] (R157). -/
def execCmpw (p : BitVec 5) (n : BitVec 1) (a b : BitVec 6) (c f : BitVec 4) (s : State) : Host.Outcome State Fault Refusal :=
  retire s 1 (compareP s p n [a, b] c f (sextLow 32 (s.reg a)) (sextLow 32 (s.reg b)))

/-- CMPWI: compare of the sign-extended low word of s[a] with imm6 (R157). -/
def execCmpwi (p : BitVec 5) (n : BitVec 1) (a i : BitVec 6) (c f : BitVec 4) (s : State) : Host.Outcome State Fault Refusal :=
  retire s 1 (compareP s p n [a] c f (sextLow 32 (s.reg a)) (imm6 i))

/-- PAND: p[d] := p[a] and p[b] (R158). -/
def execPand (d a b : BitVec 5) (s : State) : Host.Outcome State Fault Refusal :=
  retire s 1 (predResult s [] [a, b] d (s.pred a && s.pred b))

/-- POR: p[d] := p[a] or p[b] (R158). -/
def execPor (d a b : BitVec 5) (s : State) : Host.Outcome State Fault Refusal :=
  retire s 1 (predResult s [] [a, b] d (s.pred a || s.pred b))

/-- PXOR: p[d] := p[a] xor p[b] (R158). -/
def execPxor (d a b : BitVec 5) (s : State) : Host.Outcome State Fault Refusal :=
  retire s 1 (predResult s [] [a, b] d (s.pred a ^^ s.pred b))

/-- PANDN: p[d] := p[a] and not p[b] (R158). -/
def execPandn (d a b : BitVec 5) (s : State) : Host.Outcome State Fault Refusal :=
  retire s 1 (predResult s [] [a, b] d (s.pred a && !s.pred b))

/-- PTOS: s[d] := p[a] ? 1 : 0 (R158). -/
def execPtos (d : BitVec 6) (a : BitVec 5) (s : State) : Host.Outcome State Fault Refusal :=
  retire s 1 (if hazard s [d] [a] then .wait 15 else .done (s.setReg d (if s.pred a then 1 else 0)))

/-- STOP: p[d] := (s[a] ≠ 0) (R158). -/
def execStop (d : BitVec 5) (a : BitVec 6) (s : State) : Host.Outcome State Fault Refusal :=
  retire s 1 (predResult s [a] [] d (s.reg a != 0))

/-- The predicates as one word, bit i = p[i]; bit 0 reads 1 (R158). -/
def Ctx.predWord (c : Ctx) : Word :=
  (List.range 32).foldl (fun w i => if c.pred (BitVec.ofNat 5 i) then w ||| BitVec.twoPow 64 i else w) 0

/-- p1 to p31 from the bits of a word (R158). -/
def Ctx.setPreds (c : Ctx) (w : Word) : Ctx :=
  { c with p := Vector.ofFn fun i => if i.val = 0 then c.p.get 0 else bit w i.val }

/-- All predicate numbers. -/
def preds : List (BitVec 5) := (List.range 32).map (BitVec.ofNat 5)

/-- PRD: s[d] := the predicates as one word (R158). -/
def execPrd (d : BitVec 6) (s : State) : Host.Outcome State Fault Refusal :=
  retire s 1 (if hazard s [d] preds then .wait 15 else .done (s.setReg d (s.cx s.core.cur).predWord))

/-- PWR: p[i] := s[a][i], i = 1 to 31 (R158). -/
def execPwr (a : BitVec 6) (s : State) : Host.Outcome State Fault Refusal :=
  retire s 1 (if hazard s [a] preds then .wait 15 else .done (s.modCx s.core.cur (·.setPreds (s.reg a))))

/-- SEL: s[d] := p[N] ? s[a] : s[b] (R158). -/
def execSel (d a b : BitVec 6) (p : BitVec 5) (s : State) : Host.Outcome State Fault Refusal :=
  retire s 1 (if hazard s [d, a, b] [p] then .wait 15 else .done (s.setReg d (if s.pred p then s.reg a else s.reg b)))

end Sys2Proof.Machine
end

