-- ==== Sys2Proof/Machine/Sync.lean ====
section
/-! DEFINITION. Token instructions (R195, R196, R379), sequence counters (R197, R198), chains (R200), watermarks (R204),
and watch entries (R208, R209, R300, R310, R406). -/
namespace Sys2Proof.Machine

open Bits

/-! ### Tokens (R195) -/

/-- Every access of the context has been performed (R195). -/
def Ctx.allDone (c : Ctx) : Bool := c.acc.all (·.done)

/-- SYNC with the words of an R-format instruction of opcode 0x28 (R370, R379). -/
def syncFlt (fn : BitVec 8) (d a b : BitVec 6) : Flt := ⟨0x07, wordsVal (mkR 0x28 d a b fn) 0⟩

/-- An engine 1 to 6 (R195). -/
def engineNamed (e : BitVec 6) : Bool := decide (1 ≤ e.toNat) && decide (e.toNat ≤ 6)

/-- TKWAIT: takes a token of TQ[e,0] once there is one (R195). -/
def execTkwait (e : BitVec 6) (s : State) : Host.Outcome State Fault Refusal :=
  retire s 1 (
    let x := s.core.cur
    let n := (s.cx x).tokens e.toNat 0
    if !engineNamed e then .fault (syncFlt 0x00 0 0 e)
    else if n = 0 then .wait e.toNat
    else .done (s.modCx x (·.setTokens e.toNat 0 (n - 1))))

/-- TKSEND: adds a token to TQ[0,e] once it has room and every earlier access is performed (R195). -/
def execTksend (e : BitVec 6) (s : State) : Host.Outcome State Fault Refusal :=
  retire s 1 (
    let x := s.core.cur
    let c := s.cx x
    let n := c.tokens 0 e.toNat
    if !engineNamed e then .fault (syncFlt 0x01 0 0 e)
    else if 15 ≤ n then .wait 7
    else if !c.allDone then .wait 15
    else .done (s.modCx x (·.setTokens 0 e.toNat (n + 1))))

/-- TKCNT: s[d] := tokens in TQ[a,b] (R195). -/
def execTkcnt (d a b : BitVec 6) (s : State) : Host.Outcome State Fault Refusal :=
  retire s 1 (
    if hazard s [d] [] then .wait 15
    else if 6 < a.toNat ∨ 6 < b.toNat ∨ a = b then .fault (syncFlt 0x02 d a b)
    else regResult s [] d (BitVec.ofNat 64 ((s.cx s.core.cur).tokens a.toNat b.toNat)))

/-! ### Reads that an instruction makes at the home -/

/-- Read `n` bytes of memory at a checked address for the context that issues: the bytes, or the state after an action
or an error that comes first (R92, R107, R409). -/
def homeRead (s : State) (va : VAddr) (t : Tr) (n : Nat) : Except State (State × List Byte) :=
  let x := s.core.cur
  let p := t.pa.toNat
  let (s, ok) := sectionFor ((tlbFill s x va t).modCx x (·.direct (newAcc s .read va t 3 false))) x p
  if !ok then .error s
  else match poisonAt s p n with
  | some u =>
    let a := 8 * u
    let s := rasRecord s a (rasUnit s a) 3 (some (lcore s))
    .error (takeTrap s x ⟨0x30, 0, false, 0, uceVal (va + BitVec.ofNat 56 a - BitVec.ofNat 56 p) (rasUnit s a)⟩)
  | none => .ok (s, homeBytes s p n)

/-- Earlier accesses that a read of `n` bytes by the issuing instruction comes after (R110, R111). -/
def readWaits (s : State) (va : VAddr) (t : Tr) (n : Nat) : Bool :=
  accWaits (s.cx s.core.cur) (newAcc s .read va t 3 false) n

/-! ### Sequence counters (R197, R198) -/

/-- SCPOST: an atomic add in the store queue, performed after every earlier access of the context (R198). -/
def execScpost (a b : BitVec 6) (s : State) : Host.Outcome State Fault Refusal :=
  retire s 1 (
    let va := va56 (s.reg a)
    if hazard s [a, b] [] then .wait 15
    else match accCheck s 3 3 va with
    | .error f => .fault f
    | .ok t =>
      if (inPins (s.cx s.core.cur) va).isNone && chainHit (s.cx s.core.cur) va.toNat 8 then .fault (queueFlt 1 va)
      else if accFull s || ndHold s t.pa.toNat then .wait 15
      else .done (pushAcc s va t { newAcc s (.atomic .add (s.reg b) 0) va t 3 false with post := true }))

/-- SCWAIT: waits until the counter at s[a] is at least s[b] (R198). -/
def execScwait (a b : BitVec 6) (s : State) : Host.Outcome State Fault Refusal :=
  retire s 1 (
    let va := va56 (s.reg a)
    if hazard s [a, b] [] then .wait 15
    else match accCheck s 1 3 va with
    | .error f => .fault f
    | .ok t =>
      if readWaits s va t 8 || ndHold s t.pa.toNat then .wait 8
      else match homeRead s va t 8 with
      | .error s' => .stay s'
      | .ok (s', bs) => if (s.reg b).toNat ≤ ofBytes bs then .done s' else .stay (waitFor s' 8))

/-- SCTEST: p[d] := counter at s[a] ≥ s[b], one read at home (R198). -/
def execSctest (p : BitVec 5) (a b : BitVec 6) (s : State) : Host.Outcome State Fault Refusal :=
  retire s 1 (
    let va := va56 (s.reg a)
    if hazard s [a, b] [p] then .wait 15
    else match accCheck s 1 3 va with
    | .error f => .fault f
    | .ok t =>
      if accFull s || ndHold s t.pa.toNat then .wait 15
      else .done (pushAcc s va t { newAcc s .read va t 3 false with test := some (p, s.reg b) }))

/-! ### Chains (R200, R201) -/

/-- LIMIT for a field at byte `off` of an entry, or of a descriptor or packet (R390). -/
def limitFlt (off : Nat) (desc : Bool) (v : Word) : Flt :=
  ⟨0x17, fld v 0 48 ++ 0#7 ++ b1 desc ++ BitVec.ofNat 8 off⟩

/-- CLINK: a held link for the n entries from s[a] (R200). Its other header fields are those of entry 109. -/
def execClink (a b : BitVec 6) (s : State) : Host.Outcome State Fault Refusal :=
  retire s 1 (
    let c := s.cx s.core.cur
    let va := va56 (s.reg a)
    let n := (s.reg b).toNat
    if hazard s [a, b] [] || ringFull s .cpe then .wait 15
    else if va.toNat % 64 ≠ 0 then .fault (accFlt 0x10 5 va)
    else if n = 0 ∨ 65535 < n then .fault (limitFlt 24 false (s.reg b))
    else appendEntry s .cpe (0#16 ++ 0#16 ++ 0#4 ++ 0xFFFF#16 ++ b1 c.world ++ 3#3 ++ 0xFE#8)
      (toBytes (s.reg a) 8 ++ toBytes (s.reg b) 8) n (fun _ => { Pend.plain with link := some (va, n) }))

/-- CKICK: CTX.KICK.COUNT := min(COUNT + s[a], 65535) (R197). -/
def execCkick (a : BitVec 6) (s : State) : Host.Outcome State Fault Refusal :=
  retire s 1 (
    if hazard s [a] [] then .wait 15
    else .done (s.modCx s.core.cur fun c => { c with kick := BitVec.ofNat 16 (min (c.kick.toNat + (s.reg a).toNat) 65535) }))

/-! ### Watermarks (R204) -/

/-- Channel `i` is disarmed. -/
def Ctx.disarm (c : Ctx) (i : Nat) : Ctx := { c with wm := c.wm.mapIdx fun j w => if j = i then setFld w 63 0#1 else w }

/-- WMWAIT: waits until the channel is disarmed or WM ≥ s[a] (R204). -/
def execWmwait (a ch : BitVec 6) (s : State) : Host.Outcome State Fault Refusal :=
  retire s 1 (
    let (arm, wm, _, _) := (s.cx s.core.cur).chan ch.toNat
    if hazard s [a] [] then .wait 15
    else if arm && decide (wm < (s.reg a).toNat) then .wait 9
    else .done s)

/-- WMDIS: disarms the channel once its range is full (R204). -/
def execWmdis (ch : BitVec 6) (s : State) : Host.Outcome State Fault Refusal :=
  retire s 1 (
    let (arm, wm, _, lim) := (s.cx s.core.cur).chan ch.toNat
    if arm && decide (wm < lim) then .wait 9
    else .done (s.modCx s.core.cur (·.disarm ch.toNat)))

/-! ### Watch entries (R208, R300, R310, R406) -/

/-- Entries of a watch table; 0 for a number that names no table (R208, R299). -/
def watchSize (t : Nat) : Nat := if t < 8 then 1024 else if 16 ≤ t ∧ t < 144 then 64 else 0

/-- The watch table of a physical address (R299). -/
def watchTable (a : Nat) : Option Nat :=
  match rowOf a with | .hbm g => some g | .vault k | .ndram k => some (16 + k) | _ => none

/-- A group field within the limits of R30 and the unit range of its level (R29). -/
def groupOk (g : BitVec 16) : Bool :=
  fldN g 12 4 == 0 && decide (fldN g 3 9 <
    (match fldN g 0 3 with | 0 => 512 | 1 => 128 | 2 => 16 | 3 => 8 | 4 => 1 | _ => 0))

/-- All bytes of a range are zero; the offset of the first that is not. -/
def firstNonzero (d : List Byte) (off n : Nat) : Option Nat :=
  ((List.range n).find? fun i => d.getD (off + i) 0 != 0).map (off + ·)

/-- LIMIT for the field at `off` of `n` bytes of a descriptor (R390). -/
def descLimit (d : List Byte) (off n : Nat) : Flt := limitFlt off true (BitVec.ofNat 64 (dfield d off n))

/-- LIMIT for the first nonzero byte of a reserved range. -/
def reservedLimit (d : List Byte) (off n : Nat) : Option Flt := (firstNonzero d off n).map fun o => descLimit d o 1

/-- The first fault of a list. -/
def firstFlt (l : List (Option Flt)) : Option Flt := l.findSome? id

/-- A fault under a condition. -/
def fltIf (b : Bool) (f : Flt) : Option Flt := if b then some f else none

/-- The limits of R300 beside LSIZE and BASE. -/
def watchLimits (d : List Byte) : Option Flt :=
  firstFlt [fltIf (16 ≤ dfield d 9 1) (descLimit d 9 1), fltIf (!groupOk (BitVec.ofNat 16 (dfield d 10 2))) (descLimit d 10 2),
    reservedLimit d 14 2, fltIf (dfield d 12 2 != 0 && dfield d 16 4 == 0) (descLimit d 16 4), reservedLimit d 20 4,
    fltIf (dfield d 24 8 % 128 != 0) (descLimit d 24 8), reservedLimit d 32 32]

/-- The range a watch descriptor names (R300, R406): its physical base, or the fault. Access causes come before LIMIT
(R368). -/
def watchRange (s : State) (x : CtxId) (d : List Byte) : Except Flt Nat :=
  let base : VAddr := BitVec.ofNat 56 (dfield d 0 8)
  let ls := dfield d 8 1
  if ls < 6 ∨ 20 < ls then .error (descLimit d 8 1)
  else if base.toNat % 2 ^ ls ≠ 0 then .error (accFlt 0x10 1 base)
  else
    let parts := (List.range ((2 ^ ls + 0x3FFF) / 0x4000)).map fun i => base + BitVec.ofNat 56 (0x4000 * i)
    match parts.findSome? fun v => match xlate s x 1 v with | .error f => some f | .ok _ => none with
    | some f => .error f
    | none =>
      match xlate s x 1 base with
      | .error f => .error f
      | .ok t =>
        if (watchTable t.pa.toNat).isNone then .error (accFlt 0x14 1 base)
        else match watchLimits d with
        | some f => .error f
        | none =>
          if 2 ^ t.lsize < t.pa.toNat % 2 ^ t.lsize + 2 ^ ls then .error (descLimit d 8 1) else .ok t.pa.toNat

/-- A handle (R208). -/
def handle (t i : Nat) : Word := BitVec.ofNat 64 (t * 2 ^ 16 + i)

/-- A free entry of a table: the lowest index (entry 23). -/
def freeEntry (s : State) (t : Nat) : Option Nat :=
  (List.range (watchSize t)).find? fun i => !s.pkg.watch.any fun w => w.tbl == t && w.idx == i

/-- The entry that a descriptor installs (R300, R310). -/
def newWatch (s : State) (c : Ctx) (d : List Byte) (t i pa : Nat) : Watch :=
  { tbl := t, idx := i, state := 1, pa := BitVec.ofNat 52 pa, lsize := dfield d 8 1,
    prio := BitVec.ofNat 4 (dfield d 9 1), group := BitVec.ofNat 16 (dfield d 10 2),
    budget := BitVec.ofNat 16 (dfield d 12 2), period := BitVec.ofNat 32 (dfield d 16 4),
    ldesc := BitVec.ofNat 64 (dfield d 24 8), world := c.world, root := c.troot, fires := 0, cnt := 0, bm := 0, due := 0,
    used := 0, start := now s, wdis := false, live := 0 }

/-- WSET: installs the descriptor at s[a]; s[d] := handle, or ones when the table is full (R208, R406). -/
def execWset (d a : BitVec 6) (s : State) : Host.Outcome State Fault Refusal :=
  retire s 1 (
    let x := s.core.cur
    let va := va56 (s.reg a)
    if hazard s [d, a] [] then .wait 15
    else match accCheck s 1 6 va with
    | .error f => .fault f
    | .ok t =>
      if readWaits s va t 64 || ndHold s t.pa.toNat then .wait 15
      else match homeRead s va t 64 with
      | .error s' => .stay s'
      | .ok (s', bs) =>
        match watchRange s' x bs with
        | .error f => .faultIn s' f
        | .ok pa =>
          let tb := (watchTable pa).getD 0
          match freeEntry s' tb with
          | none => .done (s'.setReg d (BitVec.allOnes 64))
          | some i =>
            .done ((s'.modPkg fun p => { p with watch := p.watch ++ [newWatch s' (s'.cx x) bs tb i pa] }).setReg d (handle tb i)))

/-- The entry that a handle names: LIMIT for a malformed handle (R208, R390). -/
def handleFlt (h : Word) : Option Flt :=
  if h.toNat / 2 ^ 24 ≠ 0 ∨ (watchSize (fldN h 16 8) ≤ fldN h 0 16) then some (limitFlt 0xFF false h) else none

/-- The watch entry of a handle; none when it is FREE. -/
def watchOf (s : State) (h : Word) : Option Watch :=
  s.pkg.watch.find? fun w => w.tbl == fldN h 16 8 && w.idx == fldN h 0 16

/-- WDIS at the entry (R310); none: FREE. -/
def Watch.disable (w : Watch) : Option Watch :=
  if w.state = 2 then some { w with wdis := true }
  else if w.live = 0 then none else some { w with state := 3 }

/-- WDIS of the entry that a handle names. -/
def disableAt (h : Word) (w : Watch) : Option Watch :=
  if w.tbl == fldN h 16 8 && w.idx == fldN h 0 16 then w.disable else some w

/-- The state word of an entry (R309). -/
def Watch.word (w : Watch) : Word :=
  w.fires ++ (if w.state = 2 then BitVec.ofNat 16 (min w.cnt.toNat 65535) else 0#16) ++ 0#12 ++ b1 (w.live != 0) ++ w.state

/-- WDIS: disables the entry of handle s[a] (R208, R310). -/
def execWdis (a : BitVec 6) (s : State) : Host.Outcome State Fault Refusal :=
  retire s 1 (
    let h := s.reg a
    if hazard s [a] [] then .wait 15
    else match handleFlt h with
    | some f => .fault f
    | none => .done (s.modPkg fun p => { p with watch := p.watch.filterMap (disableAt h) }))

/-- WSTAT: s[d] := state word of the entry of handle s[a]; 0 for a FREE entry (R208, R309). -/
def execWstat (d a : BitVec 6) (s : State) : Host.Outcome State Fault Refusal :=
  retire s 1 (
    let h := s.reg a
    if hazard s [d, a] [] then .wait 15
    else match handleFlt h with
    | some f => .fault f
    | none => regResult s [a] d (((watchOf s h).map (·.word)).getD 0))

end Sys2Proof.Machine
end

