-- ==== Sys2Proof/Machine/Comb.lean ====
section
/-! DEFINITION. Comb slots (R211 to R214, R380, R420), accumulator banks and bands (R215 to R217), bank moves (R57, R228),
CBLD (R230), and tag and scale instructions (R81, R82). -/
namespace Sys2Proof.Machine

open Bits

/-! ### Comb slots (R212, R213) -/

/-- Slot `i` may be claimed: FREE, and no entry still names it (R380, R420). -/
def slotFree (s : State) (i : Nat) : Bool := (s.slot (BitVec.ofNat 6 i)).state == 0 && !bit (heldSlots s) i

/-- Claim slot `i` for context `x`. -/
def claimSlot (s : State) (x : CtxId) (i : Nat) (pair : Bool) : State :=
  s.setSlot (BitVec.ofNat 6 i) { s.slot (BitVec.ofNat 6 i) with state := 1, own := x, pair := pair }

/-- CLAIM: the lowest-numbered FREE slot (R212). -/
def execClaim (d : BitVec 6) (s : State) : Host.Outcome State Fault Refusal :=
  retire s 1 (
    match (List.range 64).find? (slotFree s) with
    | none => .wait 10
    | some i => if hazard s [d] [] then .wait 15 else .done ((claimSlot s s.core.cur i false).setReg d (BitVec.ofNat 64 i)))

/-- CLAIMP: the lowest even slot n with n and n + 1 FREE (R211, R212). -/
def execClaimp (d : BitVec 6) (s : State) : Host.Outcome State Fault Refusal :=
  retire s 1 (
    match (List.range 32).find? (fun i => slotFree s (2 * i) && slotFree s (2 * i + 1)) with
    | none => .wait 10
    | some i =>
      if hazard s [d] [] then .wait 15
      else .done ((claimSlot (claimSlot s s.core.cur (2 * i) true) s.core.cur (2 * i + 1) true).setReg d (BitVec.ofNat 64 (2 * i))))

/-- State and owner of a slot as the detail of MISUSE 0x01 and 0x03 (R381). -/
def slotDetail (v : Slot) : BitVec 32 := 0#27 ++ BitVec.ofNat 2 v.own.val ++ v.state

/-- RELS of slot `i` (R211, R214): a pair is freed whole. -/
def relsSlot (s : State) (i : BitVec 6) : State :=
  let s' := s.setSlot i (s.slot i).release
  if (s.slot i).pair then s'.setSlot (i + 1) (s'.slot (i + 1)).release else s'

/-- MISUSE 0x23 for a register operand (R381). -/
def reservedOperand (v : Word) : Flt := misuse 0x23 0 (fld v 0 32)

/-- RELS (R212, R214, R381). -/
def execRels (a : BitVec 6) (s : State) : Host.Outcome State Fault Refusal :=
  retire s 1 (
    let v := s.reg a
    let i : BitVec 6 := fld v 0 6
    let t := s.slot i
    if hazard s [a] [] then .wait 15
    else if 64 ≤ v.toNat then .fault (reservedOperand v)
    else if t.state = 0 ∨ t.own ≠ s.core.cur then .fault (misuse 0x03 i.toNat (slotDetail t))
    else if t.pair && bit i 0 then .fault (misuse 0x02 i.toNat 0)
    else .done (relsSlot s i))

/-- The slot state word (R213). -/
def Slot.word (v : Slot) : Word :=
  v.live ++ v.tag ++ 0#7 ++ b1 v.pair ++ b1 v.relp ++ BitVec.ofNat 2 v.own.val ++ 0#2 ++ v.state

/-- SLOTST: s[d] := state word of slot s[a][5:0] (R213, R381). -/
def execSlotst (d a : BitVec 6) (s : State) : Host.Outcome State Fault Refusal :=
  retire s 1 (
    let v := s.reg a
    if hazard s [d, a] [] then .wait 15
    else if 64 ≤ v.toNat then .fault (reservedOperand v)
    else .done (s.setReg d (s.slot (fld v 0 6)).word))

/-! ### Accumulator banks (R215 to R217) -/

/-- ABANK: the lowest-numbered FREE bank, at +0, tag 0, scale 1.0 (R215, R216). -/
def execAbank (d : BitVec 6) (s : State) : Host.Outcome State Fault Refusal :=
  retire s 1 (
    let x := s.core.cur
    let held := heldBanks s
    match (List.range 32).find? (fun i => (s.bank (BitVec.ofNat 5 i)).state == 0 && !bit held i) with
    | none => .wait 11
    | some i =>
      if hazard s [d] [] then .wait 15
      else .done ((s.setBank (BitVec.ofNat 5 i) { Bank.reset with state := 1, alc := x, own := Vector.replicate 2 x }).setReg d
        (BitVec.ofNat 64 i)))

/-- The number and band of a bank word (R215). -/
def bankOf (v : Word) : BitVec 5 := fld v 0 5

/-- AFREE by the allocator (R216, R382). -/
def execAfree (a : BitVec 6) (s : State) : Host.Outcome State Fault Refusal :=
  retire s 1 (
    let v := s.reg a
    let i := bankOf v
    let b := s.bank i
    if hazard s [a] [] then .wait 15
    else if 32 ≤ v.toNat then .fault (reservedOperand v)
    else if b.state = 0 ∨ b.alc ≠ s.core.cur then .fault (misuse 0x0B i.toNat (0#28 ++ BitVec.ofNat 2 b.alc.val ++ 0#2))
    else if b.state = 2 then .done s
    else .done (settleBank (s.setBank i (b.freeing (s.eq s.core.cur .mxe).qlast)) i))

/-- The band of a bank word, 0 or 1. -/
def bandOf (v : Word) : Fin 2 := if bit v 5 then 1 else 0

/-- The context owns the band (R216). -/
def Bank.owns (b : Bank) (x : CtxId) (i : Fin 2) : Bool := b.state != 0 && !b.rel.get i && b.own.get i == x

/-- ABAND: gives the band to context s[b][1:0] once the context's reads and drains are complete (R216). -/
def execAband (a b : BitVec 6) (s : State) : Host.Outcome State Fault Refusal :=
  retire s 1 (
    let x := s.core.cur
    let v := s.reg a
    let y := s.reg b
    let i := bankOf v
    let k := s.bank i
    let bad := misuse 0x0A i.toNat (0#31 ++ b1 (bit v 5))
    if (s.cx x).reading then .wait 11
    else if hazard s [a, b] [] then .wait 15
    else if 64 ≤ v.toNat then .fault (reservedOperand v)
    else if 4 ≤ y.toNat ∨ !k.owns x (bandOf v) then .fault bad
    else .done (s.setBank i { k with own := k.own.set (bandOf v).val (Fin.ofNat 4 y.toNat) }))

/-- ARELB: releases the band (R216). -/
def execArelb (a : BitVec 6) (s : State) : Host.Outcome State Fault Refusal :=
  retire s 1 (
    let x := s.core.cur
    let v := s.reg a
    let i := bankOf v
    let k := s.bank i
    if (s.cx x).reading then .wait 11
    else if hazard s [a] [] then .wait 15
    else if 64 ≤ v.toNat then .fault (reservedOperand v)
    else if !k.owns x (bandOf v) then .fault (misuse 0x0A i.toNat (0#31 ++ b1 (bit v 5)))
    else .done (settleBank (s.setBank i (k.relBand (bandOf v))) i))

/-- The bank state word (R217). -/
def Bank.word (b : Bank) : Word :=
  0#16 ++ b.ts ++ BitVec.ofNat 2 (b.own.get 1).val ++ b1 (b.rel.get 1) ++ BitVec.ofNat 2 (b.own.get 0).val ++ b1 (b.rel.get 0)
    ++ b1 b.emit ++ BitVec.ofNat 2 b.alc.val ++ b.state ++ fld b.tag 0 5

/-- ABST: s[d] := state word of bank s[a][4:0] (R217). -/
def execAbst (d a : BitVec 6) (s : State) : Host.Outcome State Fault Refusal :=
  retire s 1 (
    let v := s.reg a
    if hazard s [d, a] [] then .wait 15
    else if 64 ≤ v.toNat then .fault (reservedOperand v)
    else .done (s.setReg d (s.bank (bankOf v)).word))

/-! ### Bank moves (R57, R228, R381, R382) -/

/-- The vector registers of bank `b` with a pending result (R57). -/
def bankPending (c : Ctx) (b : Nat) : Option Nat := ((List.range 4).map (4 * b + ·)).find? fun r => bit c.vpend r

/-- Move vector bank `b` to the MXE slot or back; while what a run will name waits on a VTLD, so does the move (entry 96). -/
def moveBank (s : State) (b : BitVec 6) (lent : Bool) : Res :=
  let c := s.cx s.core.cur
  match bankPending c b.toNat with
  | some r => .fault (misuse 0x10 b.toNat (BitVec.ofNat 32 r))
  | none => if c.vunknown then .wait 15 else .done (s.modCx s.core.cur fun c => { c with v := { c.v with lent := c.v.lent.setIfInBounds (b.toNat - 4) lent } })

/-- LEND (R57, R228). -/
def execLend (b : BitVec 6) (s : State) : Host.Outcome State Fault Refusal := retire s 1 (moveBank s b true)

/-- RETURN (R57, R228). -/
def execRetBank (b : BitVec 6) (s : State) : Host.Outcome State Fault Refusal := retire s 1 (moveBank s b false)

/-! ### CBLD (R230) -/

/-- CBLD: appends an MXE entry of code 0x10 (R230). -/
def execCbld (a b : BitVec 6) (s : State) : Host.Outcome State Fault Refusal :=
  retire s 1 (
    let c := s.cx s.core.cur
    let v := s.reg a
    if hazard s [a, b] [] || ringFull s .mxe then .wait 15
    else if 8 ≤ v.toNat then .fault (reservedOperand v)
    else match appendEntry s .mxe (mkHeader c .mxe 0x10 0xFFFF 0 false 0) (toBytes v 8 ++ toBytes (s.reg b) 8) 1
        (fun _ => .plain) with
      | .done s => .done (s.modCx s.core.cur fun c => { c with efl := setFld c.efl 0 0#1 })
      | r => r)

/-! ### Tags and scales (R81, R82) -/

/-- Vector register `r` of context `x`. -/
def Ctx.vreg (c : Ctx) (r : BitVec 5) : VReg := c.v.regs[r.toNat]'r.isLt

/-- Replace it. -/
def Ctx.setVreg (c : Ctx) (r : BitVec 5) (v : VReg) : Ctx :=
  { c with v := { c.v with regs := c.v.regs.set r.toNat v r.isLt } }

/-- The operand T selects an accumulator bank (R81). -/
def isBank (t : BitVec 6) : Bool := bit t 5

/-- A tag or scale instruction waits for pending results (R82). -/
def tagWaits (c : Ctx) (t : BitVec 6) : Bool :=
  if isBank t then c.reading || !(c.eq .mxe).pend.isEmpty || (c.eq .mxe).run.isSome
  else c.vunknown || bit c.vpend (fldN t 0 5)

/-- A read of a bank's tag or scale: by its allocator or the owner of a band (R381, code 0x0C). -/
def mayReadTag (b : Bank) (x : CtxId) : Bool := b.alc == x || b.owns x 0 || b.owns x 1
/-- A write of a bank's tag or scale: by its allocator while it owns both bands (R381, code 0x0C). -/
def mayWriteTag (b : Bank) (x : CtxId) : Bool := b.alc == x && b.owns x 0 && b.owns x 1

/-- TAGGET and TSCGET (R82): `f` and `g` read a vector register and a bank. -/
def tagRead (s : State) (d t : BitVec 6) (f : VReg → Word) (g : Bank → Word) : Res :=
  let x := s.core.cur
  let c := s.cx x
  let i : BitVec 5 := fld t 0 5
  if hazard s [d] [] || tagWaits c t then .wait 15
  else if isBank t then
    let b := s.bank i
    if b.state = 0 then .done ((s.modCx x (·.setFlags 0 aUnalloc)).setReg d 0)
    else if mayReadTag b x then .done (s.setReg d (g b))
    else .fault (misuse 0x0C i.toNat 0)
  else .done (s.setReg d (f (c.vreg i)))

/-- TAGSET and TSCSET (R82), with the fault of a bad tag value (R378). -/
def tagWrite (s : State) (t b : BitVec 6) (bad : Option Flt) (f : VReg → VReg) (g : Bank → Bank) : Res :=
  let x := s.core.cur
  let c := s.cx x
  let i : BitVec 5 := fld t 0 5
  let k := s.bank i
  if hazard s [b] [] || tagWaits c t then .wait 15
  else if isBank t && k.state != 0 && !mayWriteTag k x then .fault (misuse 0x0C i.toNat 0)
  else match bad with
  | some e => .fault e
  | none =>
    if isBank t then (if k.state = 0 then .done s else .done (s.setBank i (g k)))
    else .done (s.modCx x (·.setVreg i (f (c.vreg i))))

/-- TAGCHK with the tag found, the operand, the reason and the step (R370). -/
def tagFlt (tag : BitVec 16) (operand reason step : Nat) : Flt :=
  ⟨0x05, 0#24 ++ BitVec.ofNat 8 step ++ BitVec.ofNat 8 reason ++ BitVec.ofNat 8 operand ++ tag⟩

/-- TAGGET (R82). -/
def execTagget (d t : BitVec 6) (s : State) : Host.Outcome State Fault Refusal :=
  retire s 1 (tagRead s d t (fun v => v.tag.setWidth 64) (fun b => b.tag.setWidth 64))

/-- TAGSET (R82); a value with [15:12] nonzero or FMT above 14 fails the tag check, reason 7 (R378). The
operand is 3, as the tag comes from sb: the model's choice (entry 35). -/
def execTagset (t b : BitVec 6) (s : State) : Host.Outcome State Fault Refusal :=
  retire s 1 (
    let v : BitVec 16 := fld (s.reg b) 0 16
    tagWrite s t b (if fld v 12 4 ≠ 0 ∨ 14 < fldN v 0 5 then some (tagFlt v 3 7 0) else none)
      (fun r => { r with tag := v }) (fun k => { k with tag := v }))

/-- TSCGET (R82). -/
def execTscget (d t : BitVec 6) (s : State) : Host.Outcome State Fault Refusal :=
  retire s 1 (tagRead s d t (fun v => v.ts.setWidth 64) (fun b => b.ts.setWidth 64))

/-- TSCSET: the tensor scale, and TSP := 1 (R82). -/
def execTscset (t b : BitVec 6) (s : State) : Host.Outcome State Fault Refusal :=
  retire s 1 (
    let v : BitVec 32 := fld (s.reg b) 0 32
    tagWrite s t b none (fun r => { r with ts := v, tag := setFld r.tag 6 1#1 })
      (fun k => { k with ts := v, tag := setFld k.tag 6 1#1 }))

end Sys2Proof.Machine
end

