-- ==== Sys2Proof/Machine/Crw.lean ====
section
/-! DEFINITION. CRR and CRW (R7, R8, R35, R36, R73, R75, R87, R98, R143, R145, R163, R171, R172, R176, R178, R205, R218,
R222, R356, R357, R364, R374): the registers by number, which fields a write sets, and the writes that do more. -/
namespace Sys2Proof.Machine

open Bits

/-! ### Reads (R171, R205, R356) -/

/-- CTX.ESTAT[e] (R364). -/
def estat (q : EngQ) : Word :=
  let fault := q.run.any (·.fault.isSome)
  let busy := q.run.any fun r => r.fault.isNone
  let seq := match q.run with | some r => r.seq | none => q.qseq
  fld seq 0 48 ++ 0#12 ++ b1 fault ++ b1 q.stop ++ b1 busy ++ b1 q.quiet

/-- CTX.ID (R172). -/
def ctxId (s : State) (x : CtxId) : Word :=
  let c := s.cx x
  0#32 ++ c.lid ++ b1 c.world ++ 0#3 ++ lcore s ++ 0#1 ++ BitVec.ofNat 2 x.val

/-- CTX.HLCNT (R163). -/
def HwLoop.cnt (l : HwLoop) : Word := 0#31 ++ b1 l.act ++ l.count

/-- MXC10.BUSY (R222). -/
def busySets (c : Ctx) : Word := BitVec.ofNat 64 ((List.range 8).foldl (fun m k =>
  if ((c.shadow.toList.getD k none)).isSome then m + 2 ^ k else m) 0)

/-- The register with number `n` of context `x`; none for a number that R171, R205 and R356 do not list (R374). -/
def crRead (s : State) (x : CtxId) (n : Nat) : Option Word :=
  let c := s.cx x
  let q (i : Nat) : EngQ := c.q.toList.getD i .reset
  if n = 0x000 then some c.efl
  else if n = 0x001 then some c.troot
  else if n = 0x002 then some (c.ndman.setWidth 64)
  else if n = 0x003 then some (c.fmtst.setWidth 64)
  else if n = 0x004 then some (c.loops.get 0).cnt
  else if n = 0x005 then some (c.loops.get 1).cnt
  else if n = 0x006 then some ((c.loops.get 0).start.setWidth 64)
  else if n = 0x007 then some ((c.loops.get 1).start.setWidth 64)
  else if n = 0x008 then some ((c.loops.get 0).fin.setWidth 64)
  else if n = 0x009 then some ((c.loops.get 1).fin.setWidth 64)
  else if n = 0x00A then some (ctxId s x)
  else if 0x011 ≤ n ∧ n ≤ 0x016 then some (q (n - 0x010)).qbase
  else if 0x019 ≤ n ∧ n ≤ 0x01E then some (q (n - 0x018)).qhead
  else if 0x021 ≤ n ∧ n ≤ 0x026 then some ((q (n - 0x020)).qtail.setWidth 64)
  else if 0x029 ≤ n ∧ n ≤ 0x02E then some (q (n - 0x028)).qseq
  else if 0x031 ≤ n ∧ n ≤ 0x036 then some (q (n - 0x030)).qlast
  else if n = 0x040 then some c.tctl
  else if n = 0x041 then some c.tvec
  else if n = 0x042 then some c.thcode
  else if n = 0x043 then some c.thdata
  else if n = 0x044 then some c.trec
  else if n = 0x045 then some (c.tpc.setWidth 64)
  else if n = 0x046 then some c.tcause
  else if n = 0x047 then some c.tval
  else if 0x048 ≤ n ∧ n ≤ 0x04B then some (c.tscr.toList.getD (n - 0x048) 0)
  else if n = 0x04C then some c.tstat
  else if 0x051 ≤ n ∧ n ≤ 0x056 then some (estat (q (n - 0x050)))
  else if 0x080 ≤ n ∧ n < 0x088 then some (c.wm.toList.getD (n - 0x080) 0)
  else if 0x088 ≤ n ∧ n < 0x090 then some ((c.wmlim.toList.getD (n - 0x088) 0).setWidth 64)
  else if n = 0x090 then some (c.kick.setWidth 64)
  else if n = 0x091 then some c.tkpend
  else if 0x098 ≤ n ∧ n < 0x0A0 then some ((c.wmbase.toList.getD (n - 0x098) 0).setWidth 64)
  else if 0x0C0 ≤ n ∧ n < 0x0CA then some (c.mxc.toList.getD (n - 0x0C0) 0)
  else if n = 0x0CA then some (busySets c)
  else if n = 0x0CB then some (c.accf.setWidth 64)
  else if 0x0CC ≤ n ∧ n ≤ 0x0D7 then some 0
  else if n = 0x100 then some s.core.srseed
  else if n = 0x101 then some s.core.bistst
  else if n = 0x102 then some (scanWord s s.core.phys s.core.scanst)
  else if n = 0x103 then some s.core.scansig
  else if n = 0x104 then some s.core.cycle
  else none

/-! ### Which writes are illegal (R374) -/

/-- Every field of the register is RO and at least one is not reserved. -/
def crReadOnly (n : Nat) : Bool :=
  n == 0x00A || (decide (0x019 ≤ n) && decide (n ≤ 0x01E)) || (decide (0x021 ≤ n) && decide (n ≤ 0x026)) ||
    (decide (0x029 ≤ n) && decide (n ≤ 0x02E)) || (decide (0x031 ≤ n) && decide (n ≤ 0x036)) || n == 0x046 || n == 0x047 ||
    (decide (0x051 ≤ n) && decide (n ≤ 0x056)) || (decide (0x088 ≤ n) && decide (n < 0x090)) || n == 0x091 ||
    (decide (0x098 ≤ n) && decide (n < 0x0A0)) || n == 0x0CA || n == 0x102 || n == 0x103 || n == 0x104

/-- RW bits of MXCn (R145, R222). -/
def mxcMask (n : Nat) : Word :=
  if n < 6 then ones 42 0
  else if n = 6 then ones 20 16 ||| ones 13 8 ||| ones 5 0
  else if n = 7 then ones 14 8 ||| ones 4 0
  else if n = 8 then ones 26 24 ||| ones 21 16 ||| ones 13 8 ||| ones 5 0
  else if n = 9 then ones 12 8 ||| ones 2 0
  else 0

/-- RW bits of CTX.EFL (R143). -/
def eflMask : Word := ones 29 24 ||| ones 21 16 ||| ones 13 8 ||| ones 5 0

/-- A write of a loop register pair (R163). -/
def Ctx.setLoop (c : Ctx) (l : Fin 2) (f : HwLoop → HwLoop) : Ctx := { c with loops := c.loops.set l.val (f (c.loops.get l)) }

/-- A write of HLCNT (R163). -/
def HwLoop.setCnt (l : HwLoop) (v : Word) : HwLoop := { l with act := bit v 32, count := fld v 0 32 }

/-- Bits [55:2] of a written address (R163, R356). -/
def addr2 (v : Word) : VAddr := fld v 2 54 ++ 0#2

/-- A context register write that only sets fields (R7): those of numbers other than QBASE, NDMAN, TVEC. -/
def Ctx.crSet (c : Ctx) (n : Nat) (v : Word) : Ctx :=
  if n = 0x000 then { c with efl := v &&& eflMask }
  else if n = 0x001 then { c with troot := v &&& rootBits }
  else if n = 0x003 then { c with fmtst := c.fmtst &&& ~~~(fld v 0 3) }
  else if n = 0x004 then c.setLoop 0 (·.setCnt v)
  else if n = 0x005 then c.setLoop 1 (·.setCnt v)
  else if n = 0x006 then c.setLoop 0 ({ · with start := addr2 v })
  else if n = 0x007 then c.setLoop 1 ({ · with start := addr2 v })
  else if n = 0x008 then c.setLoop 0 ({ · with fin := addr2 v })
  else if n = 0x009 then c.setLoop 1 ({ · with fin := addr2 v })
  else if n = 0x040 then { c with tctl := v &&& 7 }
  else if n = 0x042 then { c with thcode := v &&& (ones 55 14 ||| ones 6 0) }
  else if n = 0x043 then { c with thdata := v &&& (ones 55 14 ||| ones 6 0) }
  else if n = 0x044 then { c with trec := v &&& ones 55 9 }
  else if n = 0x045 then { c with tpc := addr2 v }
  else if 0x048 ≤ n ∧ n ≤ 0x04B then { c with tscr := c.tscr.setIfInBounds (n - 0x048) v }
  else if n = 0x04C then { c with tstat := c.tstat &&& ~~~(v &&& (ones 4 4 ||| ones 2 2)) }
  else if 0x080 ≤ n ∧ n < 0x088 then (if bit v 63 then c.disarm (n - 0x080) else c)
  else if n = 0x090 then { c with kick := fld v 0 16 }
  else if 0x0C0 ≤ n ∧ n < 0x0CA then { c with mxc := c.mxc.setIfInBounds (n - 0x0C0) (v &&& mxcMask (n - 0x0C0)) }
  else if n = 0x0CB then { c with accf := c.accf &&& ~~~(fld v 0 2) }
  else c

/-- A core register write (R73, R176). -/
def coreSet (s : State) (n : Nat) (v : Word) (secure : Bool) : State :=
  if n = 0x100 ∧ secure then s.modCore ({ · with srseed := v &&& ones 31 0 })
  else if n = 0x101 then s.modCore ({ · with bistst := v &&& (ones 63 32 ||| ones 2 0) })
  else s

/-! ### Bytes an instruction stores at once -/

/-- Store `bs`, which lie in one page, at a checked address for context `x` (R35, R37): section action, watchpoints,
bytes; false: the section action ended in an abort. -/
def storeNow (s : State) (x : CtxId) (va : VAddr) (t : Tr) (bs : List Byte) : State × Bool :=
  let a := newAcc s (.write 0) va t 3 false
  let (s, ok) := sectionFor (tlbFill s x va t) x t.pa.toNat
  if !ok then (s, false)
  else (rawStore (noteStore s x t.pa.toNat bs.length (accWriter s x 1 a)) t.pa.toNat bs, true)

/-! ### QBASE (R35, R37) -/

/-- The LINK entry of slot 255, from slot 255 to slot 0 (R35; entry 24 for its other fields). -/
def linkEntry (c : Ctx) (e : Eng) (dst : Word) : List Byte :=
  toBytes (0#32 ++ 0#4 ++ 0xFFFF#16 ++ b1 c.world ++ BitVec.ofNat 3 (engNum e) ++ 0xFF#8) 8 ++ toBytes (0 : Word) 8 ++
    toBytes dst 8 ++ List.replicate 40 0

/-- The checks of a QBASE write for context `x` (R37): the whole 16 KiB ring with kinds 1 and 2, then the vault of the own
column. A ring in the column's near DRAM is outside that vault: the model's choice (entry 105). -/
def qbaseCheck (s : State) (x : CtxId) (v : Word) : Except Flt Tr :=
  let base := va56 (v &&& ones 55 14)
  match accCheckOf s x 1 3 base with
  | .error f => .error f
  | .ok _ =>
    match accCheckOf s x 2 3 base with
    | .error f => .error f
    | .ok t => if rowOf t.pa.toNat = .vault (ownCol s) then .ok t else .error (limitFlt 0xFF false v)

/-- The write of QBASE[e] after its checks and waits (R35): the LINK of slot 255, head and tail at slot 0; the next
entry that starts is a forced point. -/
def qbaseSet (s : State) (x : CtxId) (e : Eng) (v : Word) (t : Tr) : State × Bool :=
  let base := v &&& ones 55 14
  let t255 : Tr := { t with pa := t.pa + BitVec.ofNat 52 (64 * 255) }
  let (s, ok) := storeNow s x (va56 base + BitVec.ofNat 56 (64 * 255)) t255 (linkEntry (s.cx x) e base)
  if !ok then (s, false)
  else (s.modEq x e fun q => { q with qbase := base, qhead := base, qtail := 0, window := [], forced := true }, true)

/-- A CRW to CTX.QBASE[e]. -/
def qbaseRes (s : State) (e : Eng) (v : Word) : Res :=
  let x := s.core.cur
  match qbaseCheck s x v with
  | .error f => .fault f
  | .ok t =>
    let a := newAcc s (.write 0) (va56 v) { t with pa := t.pa + BitVec.ofNat 52 (64 * 255) } 3 false
    if !(s.eq x e).quiet || accWaits (s.cx x) a 64 then .wait 15
    else if storeHeld s x a.pa.toNat 64 then .stay (holdStore s x a.pa.toNat 64 (accWriter s x 1 a))
    else match qbaseSet s x e v t with
      | (s', true) => .done s'
      | (s', false) => .stay s'

/-! ### NDMAN (R98, R393) -/

/-- The banks that a write of NDMAN changes are not idle, or cannot be precharged yet (R98, R99). -/
def ndmanWaits (s : State) (x : CtxId) (v : BitVec 4) : Bool :=
  (List.range 4).any fun i =>
    let b := ndBank s i
    bit ((s.cx x).ndman ^^^ v) i && (!bankIdle s i || decide ((now s).toNat < b.busy.toNat) ||
      (b.row.isSome && decide ((now s).toNat < b.actAt.toNat + 32)))

/-- A bank that NDMAN sets while it is manual for another context (R393, subcode 5). -/
def ndmanClash (s : State) (x : CtxId) (v : BitVec 4) : Option Nat :=
  (List.range 4).find? fun i => bit v i && (ndBank s i).holder.any (· != x)

/-- The write of CTX.NDMAN (R98). -/
def ndmanSet (s : State) (x : CtxId) (v : BitVec 4) : State :=
  let old := (s.cx x).ndman
  let s := (List.range 4).foldl (fun s i =>
    let b := ndBank s i
    let closed := b.precharged (now s)
    if bit v i && !bit old i then setNd s i { closed with holder := some x, refAt := now s }
    else if !bit v i && bit old i then setNd s i { closed with holder := none }
    else s) s
  s.modCx x ({ · with ndman := v })

/-- A CRW to CTX.NDMAN. -/
def ndmanRes (s : State) (v : Word) : Res :=
  let x := s.core.cur
  match ndmanClash s x (fld v 0 4) with
  | some i => .fault ⟨0x15, ndVal 5 i 0 0⟩
  | none => if ndmanWaits s x (fld v 0 4) then .wait 15 else .done (ndmanSet s x (fld v 0 4))

/-! ### TVEC (R357) -/

/-- The 16 KiB units of a region register (R356). -/
def regionUnits (r : Word) : List VAddr :=
  (List.range (min (fldN r 0 7) 64)).map fun i => (fld r 14 42 ++ 0#14) + BitVec.ofNat 56 (0x4000 * i)

/-- [lo, lo + n) lies inside a region. -/
def inRegion (r : Word) (lo n : Nat) : Bool :=
  decide (fldN r 14 42 * 0x4000 ≤ lo) && decide (lo + n ≤ fldN r 14 42 * 0x4000 + 0x4000 * min (fldN r 0 7) 64)

/-- Translate a unit now, through the tables (R357). -/
def unitNow (s : State) (c : Ctx) (kind : Nat) (va : VAddr) : Option Tr :=
  match walk s c.troot c.world kind va with
  | .error _ => none
  | .ok t =>
    match checkTr s c.world t.world kind va (decodeAlias s t) with
    | .error _ => none
    | .ok t => some t

/-- The pins of units that all translate with every kind of `kinds`. -/
def pinsOf (s : State) (c : Ctx) (kinds : List Nat) : List VAddr → Option (List (Pin × Nat))
  | [] => some []
  | u :: us =>
    match kinds.mapM (unitNow s c · u), pinsOf s c kinds us with
    | some (t :: _), some ps => some ((⟨u, 14, t.pa, t.attr⟩, u.toNat / 2 ^ t.lsize * 64 + t.lsize) :: ps)
    | _, _ => none

/-- The installation checks (R357): the pinned set, or the number of the first check that fails. -/
def install (s : State) (c : Ctx) : Except Nat (List Pin) :=
  if !inRegion c.thcode (fldN c.tvec 7 49 * 128) 128 then .error 1
  else match pinsOf s c [4] (regionUnits c.thcode) with
  | none => .error 2
  | some code =>
    match pinsOf s c [1, 2] (regionUnits c.thdata) with
    | none => .error 3
    | some data =>
      if !inRegion c.thdata (fldN c.trec 9 47 * 512) 512 then .error 4
      else if 8 < ((code ++ data).map (·.2)).eraseDups.length then .error 5
      else .ok ((code ++ data).map (·.1))

/-- A write of CTX.TVEC performs the installation (R357). -/
def tvecSet (s : State) (x : CtxId) (v : Word) : State :=
  let c := { s.cx x with tvec := v &&& ones 55 7 }
  match install s c with
  | .ok ps => s.setCx x { c with pins := ps, tstat := setFld (setFld c.tstat 8 0#3) 1 1#1 }
  | .error n => s.setCx x { c with pins := [], tstat := setFld (setFld c.tstat 8 (BitVec.ofNat 3 n)) 1 0#1 }

/-! ### CRR and CRW -/

/-- The number s[a][11:0] when s[a][63:12] is zero. -/
def crNum (v : Word) : Option Nat := if v.toNat < 4096 then some v.toNat else none

/-- Engine of a queue register number. -/
def engAt (i : Nat) : Eng := match i with | 1 => .mxe | 2 => .vxe | 3 => .cpe | 4 => .gxe | 5 => .opp | _ => .clp

/-- ILLEGAL of an R-format instruction (R370). -/
def illegalR (op d a b : BitVec 6) (f : BitVec 8) : Flt := ⟨0x01, wordsVal (mkR op d a b f) 0⟩

/-- CRR: s[d] := CR(number) (R171, R374). -/
def execCrr (d a : BitVec 6) (s : State) : Host.Outcome State Fault Refusal :=
  retire s 1 (
    if hazard s [d, a] [] then .wait 15
    else match (crNum (s.reg a)).bind (crRead s s.core.cur) with
    | none => .fault (illegalR 0x38 d a 0 0)
    | some v => .done (s.setReg d v))

/-- CRW: CR(number) := s[b] under the access codes (R7, R171, R374). -/
def execCrw (a b : BitVec 6) (s : State) : Host.Outcome State Fault Refusal :=
  retire s 1 (
    let x := s.core.cur
    let v := s.reg b
    if hazard s [a, b] [] then .wait 15
    else match crNum (s.reg a) with
    | none => .fault (illegalR 0x38 0 a b 1)
    | some n =>
      if (crRead s x n).isNone || crReadOnly n then .fault (illegalR 0x38 0 a b 1)
      else if 0x011 ≤ n ∧ n ≤ 0x016 then qbaseRes s (engAt (n - 0x010)) v
      else if n = 0x002 then ndmanRes s v
      else if n = 0x041 then .done (tvecSet s x v)
      else if 0x100 ≤ n then .done (coreSet s n v (s.cx x).world)
      else .done (s.modCx x (·.crSet n v)))

end Sys2Proof.Machine
end

