-- ==== Sys2Proof/Machine/Save.lean ====
section
/-! DEFINITION. Loop records and launch images reached through a translation root (R43, R280, R281), the context save
and the resume (R287, R289 to R291, R366), and what a context releases (R50, R93). -/
namespace Sys2Proof.Machine

open Bits

/-! ### Accesses through a root -/

/-- Cut [va, va + n) at 16 KiB boundaries. -/
def pageCuts : Nat → Nat → Nat → List (Nat × Nat)
  | 0, _, _ => []
  | k + 1, va, n =>
    if n = 0 then [] else
    let m := min n (0x4000 - va % 0x4000)
    (va, m) :: pageCuts k (va + m) (n - m)

/-- The device reads `n` bytes at a virtual address through a root (R206, R281, R324), at their home (R106). A poisoned word that it
meets is consumed, which counts as a fault of the read (R409; entry 116). -/
def rootRead (s : State) (root : Word) (world : Bool) (va : VAddr) (n : Nat) : Except Flt (List Byte) :=
  (pageCuts (n / 0x4000 + 2) va.toNat n).foldl (fun r p => match r with
    | .error f => .error f
    | .ok bs =>
      match xlateRoot s root world 1 (BitVec.ofNat 56 p.1) with
      | .error f => .error f
      | .ok t => match poisonAt s t.pa.toNat p.2 with
        | some u => .error ⟨0x30, uceVal (BitVec.ofNat 56 (p.1 + 8 * u - t.pa.toNat)) (rasUnit s (8 * u))⟩
        | none => .ok (bs ++ homeBytes s t.pa.toNat p.2)) (.ok [])

/-- The event of a poisoned word that the device consumed through a root is recorded (R409, R412), outcome 3. -/
def rootSeen (s : State) (root : Word) (world : Bool) (f : Flt) : State :=
  if f.cause = 0x30 then
    match xlateRoot s root world 1 (fld f.val 0 56) with
    | .ok t => rasRecord s (t.pa.toNat / 8 * 8) (fldN f.val 56 4) 3 none
    | .error _ => s
  else s

/-- The fault of a device write of `va`, when it has one. -/
def rootCheck (s : State) (root : Word) (world : Bool) (kind : Nat) (va : VAddr) (n : Nat) : Option Flt :=
  (pageCuts (n / 0x4000 + 2) va.toNat n).findSome? fun p =>
    match xlateRoot s root world kind (BitVec.ofNat 56 p.1) with | .error f => some f | .ok _ => none

/-- Write bytes at a virtual address through a root; pages before one that faults stay written. -/
def rootWrite (s : State) (root : Word) (world : Bool) (va : VAddr) (bs : List Byte) : State × Option Flt :=
  (pageCuts (bs.length / 0x4000 + 2) va.toNat bs.length).foldl (fun r p => match r with
    | (s, some f) => (s, some f)
    | (s, none) =>
      match xlateRoot s root world 2 (BitVec.ofNat 56 p.1) with
      | .error f => (s, some f)
      | .ok t =>
        let b := (bs.drop (p.1 - va.toNat)).take p.2
        (devStore s t.world t.pa.toNat b, none)) (s, none)

/-! ### Loop records (R43) -/

/-- The root and world of a launch. -/
def launchRoot (s : State) (lid : BitVec 16) : Word × Bool :=
  match launchOf s lid with | some l => (l.root, l.world) | none => (0, false)

/-- Read from the save area of a task. -/
def areaRead (s : State) (t : Task) (off n : Nat) : Except Flt (List Byte) :=
  let r := launchRoot s t.lid
  rootRead s r.1 r.2 (t.area + BitVec.ofNat 56 off) n

/-- Write into the save area of a task. -/
def areaWrite (s : State) (t : Task) (off : Nat) (bs : List Byte) : State × Option Flt :=
  let r := launchRoot s t.lid
  rootWrite s r.1 r.2 (t.area + BitVec.ofNat 56 off) bs

/-- Fields of a loop record given as bytes (R43). -/
def recPro (d : List Byte) : VAddr := BitVec.ofNat 56 (dfield d 0 8)
/-- KERNEL (R43). -/
def recKer (d : List Byte) : VAddr := BitVec.ofNat 56 (dfield d 8 8)
/-- EPILOGUE (R43). -/
def recEpi (d : List Byte) : VAddr := BitVec.ofNat 56 (dfield d 16 8)
/-- TRIP (R43). -/
def recTrip (d : List Byte) : Nat := dfield d 24 8
/-- ITER (R43). -/
def recIter (d : List Byte) : Nat := dfield d 32 8
/-- ESTIM (R43). -/
def recEstim (d : List Byte) : Nat := dfield d 40 4
/-- PRIO (R43). -/
def recPrio (d : List Byte) : BitVec 4 := BitVec.ofNat 4 (dfield d 44 1)
/-- PERS (R43). -/
def recPers (d : List Byte) : Bool := dfield d 45 1 % 2 == 1
/-- RST (R43). -/
def recRst (d : List Byte) : Bool := dfield d 45 1 / 2 % 2 == 1
/-- CKPT (R43). -/
def recCkpt (d : List Byte) : Bool := dfield d 45 1 / 4 % 2 == 1
/-- NCTR (R43). -/
def recNctr (d : List Byte) : Nat := dfield d 46 1
/-- ARG (R43). -/
def recArg (d : List Byte) : Word := BitVec.ofNat 64 (dfield d 56 8)

/-- The loop record of a task. -/
def loopRecord (s : State) (t : Task) : Except Flt (List Byte) := areaRead s t 0 128

/-- The task of a context. -/
def ctxTask (s : State) (x : CtxId) : Option Task := (s.cx x).task.bind (taskOf s)

/-! ### What a context leaves (R50, R93, R361) -/

/-- A context without a task: state at creation, but the rows that the diagnostic arrays reach keep what they hold
(R174). -/
def freeCtx (s : State) (x : CtxId) : State :=
  let c := s.cx x
  let f := Ctx.create (fld s.core.srseed 0 32) x.val
  let s := s.setCx x { f with s := c.s, p := c.p, v := { f.v with regs := c.v.regs } }
  settleLines (if s.core.exp = some x then s.modCore ({ · with exp := none }) else s)

/-- Tasks of a launch that logical core `c` still holds, SUSPENDED ones that it left included (R93). -/
def lastOnCore (s : State) (lid : BitVec 16) (c : BitVec 9) : Bool :=
  !s.pkg.tasks.any fun t => t.lid == lid && t.core == some c

/-- Sections of physical core `p`, by number (R92). -/
def sectionsOf (p : Nat) : List Nat := (List.range 48).map (48 * p + ·)

/-- The sections of logical core `c` tagged `lid` become NONE, and the launch's out bits for the core are discarded
(R93). -/
def dropSections (s : State) (lid : BitVec 16) (c : BitVec 9) : State :=
  match lmap s c.toNat with
  | none => s
  | some p =>
    let s := (sectionsOf p.toNat).foldl (fun s n => if secTag s n = some lid then setSecTag s n none else s) s
    match outWord s lid c.toNat 2 with
    | .error f => imageFault s lid f
    | .ok a => devStore s (launchWorld s lid) a (List.replicate 8 0)

/-! ### The save image (R290) -/

/-- Bytes of a 64-bit number. -/
def w64 (n : Nat) : List Byte := toBytes (BitVec.ofNat 64 n) 8

/-- The phase code (R290). -/
def phaseCode : Phase → Nat | .pro => 0 | .ker => 1 | .epi => 2

/-- The slots a context owns (R289). -/
def slotsOwned (s : State) (x : CtxId) : List Nat :=
  (List.range 64).filter fun i => let v := s.slot (BitVec.ofNat 6 i); v.state != 0 && v.own == x

/-- The banks a context owns (R289). -/
def banksOwned (s : State) (x : CtxId) : List Nat :=
  (List.range 32).filter fun i => let b := s.bank (BitVec.ofNat 5 i); b.state != 0 && b.alc == x

/-- A slot record (R290; entry 25 for the places within its header). -/
def slotRecord (i : Nat) (v : Slot) : List Byte :=
  [BitVec.ofNat 8 i, v.state.setWidth 8, BitVec.ofNat 8 v.own.val, (b1 v.pair).setWidth 8] ++ toBytes v.tag 2 ++ [0, 0] ++
    toBytes v.ts 4 ++ toBytes v.live 4 ++ List.replicate 16 0 ++ toBytes v.data 8192 ++ toBytes v.side 256

/-- A bank record (R290; entry 25). -/
def bankRecord (i : Nat) (b : Bank) : List Byte :=
  [BitVec.ofNat 8 i, b.state.setWidth 8, BitVec.ofNat 8 b.alc.val,
    (0#1 ++ b1 (b.rel.get 1) ++ BitVec.ofNat 2 (b.own.get 1).val ++ 0#1 ++ b1 (b.rel.get 0) ++ BitVec.ofNat 2 (b.own.get 0).val),
    (b1 b.emit).setWidth 8, 0] ++ toBytes b.tag 2 ++ toBytes b.ts 4 ++ List.replicate 20 0 ++
    b.rows.toList.flatMap (toBytes · 256)

/-- The codebook tables last loaded by a CBLD of the launch (R290). -/
def cblMask (s : State) (lid : BitVec 16) : BitVec 8 :=
  bits 8 ((List.range 8).filter fun i => ((s.core.cbs.toList.getD i ⟨0, none, []⟩).lid == some lid))

/-- A loop level of a table, as two words (entry 25). -/
def TLoop.image (l : TLoop) : List Byte :=
  toBytes (0#31 ++ b1 l.act ++ l.count) 8 ++ toBytes (BitVec.ofNat 32 l.fin ++ BitVec.ofNat 32 l.start) 8

/-- B, the saved byte count (R289). -/
def savedBytes (ns nb : Nat) : Nat := 17664 + 8480 * ns + 16416 * nb

/-- Bytes 0x0088 to the end of the save area of context `x` (R290). -/
def saveImage (s : State) (x : CtxId) : List Byte :=
  let c := s.cx x
  let sl := slotsOwned s x
  let bk := banksOwned s x
  let cbl := cblMask s c.lid
  let claim := (c.eq .opp).claim
  toBytes (BitVec.ofNat 8 (phaseCode c.phase) ++ c.pc) 8
    ++ toBytes (0#26 ++ cbl ++ BitVec.ofNat 6 bk.length ++ BitVec.ofNat 7 sl.length ++ b1 c.world ++ c.lid) 8
    ++ w64 (savedBytes sl.length bk.length)
    ++ (match claim with | some (i, n, _) => w64 (2 ^ 63 + i.val) ++ toBytes n 8 | none => w64 0 ++ w64 0)
    ++ engines.flatMap (fun e => match (c.eq e).run with
        | some r => w64 ((if r.fault.isSome then 2 ^ 63 else 0) + (progressOf s e r).toNat) | none => w64 0)
    ++ List.replicate 32 0
    ++ (List.range 64).flatMap (fun i => toBytes (c.reg (BitVec.ofNat 6 i)) 8)
    ++ w64 ((List.range 32).foldl (fun m i => if c.pred (BitVec.ofNat 5 i) then m + 2 ^ i else m) 0)
    ++ c.v.masks.toList.flatMap (toBytes · 8)
    ++ toBytes c.tkpend 8 ++ ((List.range 49).filter fun i => i / 7 ≠ i % 7).map (fun i => (c.tq.toList.getD i 0).setWidth 8)
    ++ List.replicate 6 0
    ++ c.v.gen.toList.flatMap (toBytes · 4)
    ++ (List.range 0xE0).flatMap (fun n => toBytes ((crRead s x n).getD 0) 8)
    ++ c.shadow.toList.flatMap (fun h => match h with
        | some (cfg, _) => cfg.toList.flatMap (toBytes · 8) | none => List.replicate 80 0)
    ++ c.v.tables.toList.flatMap (fun t => t.bases.toList.flatMap fun b => toBytes b.addr 8 ++ toBytes b.tag 8)
    ++ c.v.tables.toList.flatMap (fun t => w64 t.len) ++ toBytes c.v.rc 8 ++ toBytes c.v.pr 8
    ++ c.v.loops.toList.flatMap (·.image) ++ toBytes c.v.dqbase 8 ++ toBytes c.v.dqhead 8 ++ toBytes c.v.dqtail 8
    ++ List.replicate 24 0
    ++ c.v.regs.toList.flatMap (fun r => toBytes r.tag 2 ++ [0, 0] ++ toBytes r.ts 4 ++ w64 0 ++ toBytes r.bs 16)
    ++ List.replicate 128 0
    ++ c.v.regs.toList.flatMap (fun r => toBytes r.data 256)
    ++ c.v.tables.toList.flatMap (fun t => t.code.toList.flatMap (toBytes · 4))
    ++ (List.range 8).flatMap (fun i =>
        if bit cbl i then toBytes (s.core.cbs.toList.getD i ⟨0, none, []⟩).data 32 else List.replicate 32 0)
    ++ sl.flatMap (fun i => slotRecord i (s.slot (BitVec.ofNat 6 i)))
    ++ bk.flatMap (fun i => bankRecord i (s.bank (BitVec.ofNat 5 i)))

/-! ### The save (R287, R289) -/

/-- A task of context `x` shares a band (R287). -/
def sharesBand (s : State) (x : CtxId) : Bool :=
  bankIds.any fun i =>
    let b := s.bank i
    b.state != 0 && [0, 1].any fun k => !b.rel.get k && (b.alc == x) != (b.own.get k == x)

/-- The reason code of a save (R290). -/
def SaveReason.code : SaveReason → Nat
  | .checkpoint => 0 | .rot => 1 | .reassign => 2 | .map => 3

/-- A plain load that a save discards (R289). -/
def discarded (a : Acc) : Bool := a.isLoad && !a.vol && a.test.isNone

/-- A load as a resume issues it again, with the time by which an exposed one then lands (R291). -/
def reissueDue (c : Ctx) (a : Acc) : Acc :=
  { a with due := a.due.map (· - c.issue), row := none, done := false, left := false, ord := 0, val := 0 }

/-- The context stops for a save (R289): SAVING, and the hang watchdog restarts (R421). Issued plain loads are discarded; the
resume issues them again (R291), before those that an earlier resume still has to issue. -/
def saveStart (s : State) (x : CtxId) (r : SaveReason) : State :=
  let c := s.cx x
  let s := match c.task with
    | some id => modTask s id fun t =>
        { t with state := .saving, reissue := (c.acc.filter discarded).map (reissueDue c) ++ t.reissue }
    | none => s
  unstartWaiting (s.modCx x fun c =>
    { c with saving := some r, hbeat := now s, wait := none, acc := c.acc.filter fun a => !discarded a }) x

/-- Steps 1 and 2 of the save are over: accesses performed, entries complete or faulted (R289, R366). -/
def saveReady (s : State) (x : CtxId) : Bool :=
  let c := s.cx x
  c.saving.isSome && c.acc.isEmpty && engines.all fun e => match (c.eq e).run with
    | none => true
    | some r => r.fault.isSome

/-- The save is abandoned (R366): STATE UNSAVED where it can be written, a record of kind 4, the launch aborted. -/
def saveAbandon (s : State) (x : CtxId) (cause : BitVec 8) (val : Word) : State :=
  match ctxTask s x with
  | none => s
  | some t =>
    let r := ((s.cx x).saving.map (·.code)).getD 0
    let s := (areaWrite s t 0x80 (w64 (2 + 256 * r))).1
    let s := faultLog s 4 cause 0 t.lid (entryName s x 0 0) ((s.cx x).pc.setWidth 64) 0 val (t.area.setWidth 64)
    abortLaunch s t.lid

/-- A stop record of a head saved faulted (R366). -/
def saveStopRecords (s : State) (x : CtxId) : State :=
  engines.foldl (fun s e => match (s.eq x e).run with
    | some r => if r.fault.isSome then
        writeStop s x e else s
    | none => s) s

/-- Windows empty and the next entry of every queue a forced point, when a context is saved (R416, R417). -/
def Ctx.parked (c : Ctx) : Ctx :=
  { c with q := c.q.map fun q => { q with window := [], forced := true, stop := false }, acc := [], wait := none,
           saving := none, line := false, wide := false, halted := false, svpc := none, prevMode := none, landing := false, ackrd := none, passed := none }

/-- Slots and banks that a save has written become FREE (R289, step 4). -/
def freeSaved (s : State) (sl bk : List Nat) : State :=
  let s := sl.foldl (fun s i => s.setSlot (BitVec.ofNat 6 i) (s.slot (BitVec.ofNat 6 i)).freed) s
  bk.foldl (fun s i => s.setBank (BitVec.ofNat 5 i) { s.bank (BitVec.ofNat 5 i) with state := 0 }) s

/-- Steps 3 to 5 of the save (R289, R290): the save area, STATE last; the task is SUSPENDED and its context free. -/
def saveFinish (s : State) (x : CtxId) : State :=
  match ctxTask s x with
  | none => s
  | some t =>
    let s := saveStopRecords (releaseNd s x) x
    let c := s.cx x
    let sl := slotsOwned s x
    let bk := banksOwned s x
    match areaWrite s t 0x88 (saveImage s x) with
    | (s, some f) => saveAbandon s x f.cause f.val
    | (s, none) =>
      match areaWrite s t 0x80 (w64 (1 + 256 * ((c.saving.map (·.code)).getD 0))) with
      | (s, some f) => saveAbandon s x f.cause f.val
      | (s, none) =>
        let s := freeSaved s sl bk
        let s := s.modPkg fun p => { p with clock := p.clock + 1 }
        let s := modTask s t.id fun t => { t with
          state := .suspended, ctx := none, chosen := none, readyAt := s.pkg.clock, kept := some c.parked,
          uslots := sl, ubanks := bk, ackver := c.ackver }
        freeCtx s x

/-! ### The resume (R291) -/

/-- Field `n` bytes at `off` of a save area as a word. -/
def aWord (d : List Byte) (off : Nat) : Word := BitVec.ofNat 64 (dfield d off 8)

/-- A context control register takes the value saved for it (R290, R291). -/
def Ctx.crLoad (c : Ctx) (n : Nat) (v : Word) : Ctx :=
  let qset (i : Nat) (f : EngQ → EngQ) : Ctx := { c with q := c.q.mapIdx fun j q => if j = i then f q else q }
  if n = 0x002 then { c with ndman := fld v 0 4 }
  else if n = 0x003 then { c with fmtst := fld v 0 3 }
  else if 0x011 ≤ n ∧ n ≤ 0x016 then qset (n - 0x010) ({ · with qbase := v })
  else if 0x019 ≤ n ∧ n ≤ 0x01E then qset (n - 0x018) ({ · with qhead := v })
  else if 0x021 ≤ n ∧ n ≤ 0x026 then qset (n - 0x020) ({ · with qtail := fld v 0 8 })
  else if 0x029 ≤ n ∧ n ≤ 0x02E then qset (n - 0x028) ({ · with qseq := v })
  else if 0x031 ≤ n ∧ n ≤ 0x036 then qset (n - 0x030) ({ · with qlast := v })
  else if n = 0x041 then { c with tvec := v }
  else if n = 0x046 then { c with tcause := v }
  else if n = 0x047 then { c with tval := v }
  else if n = 0x04C then { c with tstat := v }
  else if 0x080 ≤ n ∧ n < 0x088 then { c with wm := c.wm.setIfInBounds (n - 0x080) v }
  else if 0x088 ≤ n ∧ n < 0x090 then { c with wmlim := c.wmlim.setIfInBounds (n - 0x088) (va56 v) }
  else if n = 0x091 then { c with tkpend := v }
  else if 0x098 ≤ n ∧ n < 0x0A0 then { c with wmbase := c.wmbase.setIfInBounds (n - 0x098) (va56 v) }
  else if n = 0x0CB then { c with accf := fld v 0 2 }
  else c.crSet n v

/-- A vector register from a save area. -/
def vregOf (d : List Byte) (i : Nat) : VReg :=
  { data := BitVec.ofNat 2048 (dfield d (0x1400 + 256 * i) 256), tag := BitVec.ofNat 16 (dfield d (0xF80 + 32 * i) 2),
    ts := BitVec.ofNat 32 (dfield d (0xF84 + 32 * i) 4), bs := BitVec.ofNat 128 (dfield d (0xF90 + 32 * i) 16) }

/-- A table loop level from a save area. -/
def tloopOf (d : List Byte) (off : Nat) : TLoop :=
  let w := aWord d off
  ⟨bit w 32, fld w 0 32, dfield d (off + 8) 4, dfield d (off + 12) 4⟩

/-- A micro-order table from a save area. -/
def tableOf (d : List Byte) (t : Nat) : Table where
  len := dfield d (0xF00 + 8 * t) 8
  code := Vector.ofFn fun i => BitVec.ofNat 32 (dfield d (0x3400 + 1024 * t + 4 * i.val) 4)
  bases := Vector.ofFn fun b => ⟨BitVec.ofNat 56 (dfield d (0xE00 + 64 * t + 16 * b.val) 8),
    BitVec.ofNat 16 (dfield d (0xE08 + 64 * t + 16 * b.val) 2)⟩

/-- The vector state from a save area. -/
def vecOf (d : List Byte) (v : VecState) : VecState :=
  { v with
    regs := Vector.ofFn fun i => vregOf d i.val
    masks := Vector.ofFn fun i => if i.val = 0 then BitVec.allOnes 64 else aWord d (0x308 + 8 * i.val)
    gen := Vector.ofFn fun i => BitVec.ofNat 32 (dfield d (0x380 + 4 * i.val) 4)
    tables := Vector.ofFn fun i => tableOf d i.val
    rc := BitVec.ofNat 32 (dfield d 0xF20 4)
    pr := aWord d 0xF28
    loops := Vector.ofFn fun i => tloopOf d (0xF30 + 16 * i.val)
    dqbase := aWord d 0xF50, dqhead := aWord d 0xF58, dqtail := aWord d 0xF60 }

/-- A shadow set takes the values saved for it. -/
def shadowOf (d : List Byte) (k : Nat) (h : Option (Vector Word 10 × Word)) : Option (Vector Word 10 × Word) :=
  h.map fun p => (Vector.ofFn fun n => aWord d (0xB80 + 80 * k + 8 * n.val), p.2)

/-- Token-queue index of the `k`-th ordered pair (R290). -/
def pairIdx : List Nat := (List.range 49).filter fun i => i / 7 ≠ i % 7

/-- A context restored from a save area, over what the model keeps beside it (R291). -/
def ctxOf (d : List Byte) (k : Ctx) : Ctx :=
  let c := (List.range 0xE0).foldl (fun c n => c.crLoad n (aWord d (0x480 + 8 * n))) k
  { c with
    pc := BitVec.ofNat 56 (dfield d 0x88 7)
    phase := (match dfield d 0x8F 1 % 4 with | 0 => .pro | 1 => .ker | _ => .epi)
    s := Vector.ofFn fun i => if i.val = 0 then 0 else aWord d (0x100 + 8 * i.val)
    p := Vector.ofFn fun i => if i.val = 0 then false else dfield d 0x300 4 / 2 ^ i.val % 2 == 1
    tkpend := aWord d 0x348
    tq := Vector.ofFn fun i =>
      match pairIdx.findIdx? (· == i.val) with | some j => BitVec.ofNat 4 (dfield d (0x350 + j) 1) | none => 0
    v := vecOf d k.v
    shadow := c.shadow.mapIdx fun i h => shadowOf d i h }

/-- A slot from its record. -/
def slotOf' (d : List Byte) (x : CtxId) (v : Slot) : Slot :=
  { v with state := BitVec.ofNat 3 (dfield d 1 1), own := x, pair := dfield d 3 1 == 1, tag := BitVec.ofNat 16 (dfield d 4 2),
           ts := BitVec.ofNat 32 (dfield d 8 4), live := BitVec.ofNat 32 (dfield d 12 4), relp := false,
           data := BitVec.ofNat 65536 (dfield d 32 8192), side := BitVec.ofNat 2048 (dfield d 8224 256), fills := v.fills + 1 }

/-- A bank from its record; its allocator and owner is the context that resumes. -/
def bankOf' (d : List Byte) (x : CtxId) (b : Bank) : Bank :=
  let r := dfield d 3 1
  { b with state := BitVec.ofNat 2 (dfield d 1 1), alc := x, own := Vector.replicate 2 x,
           rel := #v[r / 4 % 2 == 1, r / 64 % 2 == 1], emit := dfield d 4 1 == 1, tag := BitVec.ofNat 16 (dfield d 6 2),
           ts := BitVec.ofNat 32 (dfield d 8 4),
           rows := Vector.ofFn fun i => BitVec.ofNat 2048 (dfield d (32 + 256 * i.val) 256) }

/-- A near-DRAM bank that `man` names is manual for `x` from `t`, its row closed. -/
def NdBank.retake (b : NdBank) (man : Bool) (x : CtxId) (t : Word) : NdBank :=
  if man then { b with holder := some x, row := none, preAt := t, refAt := t } else b

/-- Near-DRAM banks of CTX.NDMAN are manual again, rows closed, each refresh interval starting now (R98). -/
def retakeNd (s : State) (x : CtxId) : State :=
  let m := (s.cx x).ndman
  let nd := s.core.nd.mapIdx fun i b => b.retake (bit m i) x (now s)
  s.modCore ({ · with nd := nd })

/-- Section `i` moves from the launch's image for logical core `c`, which the map no longer holds, to its image for `d`
(R93, R329). -/
def imageFollow (s : State) (lid : BitVec 16) (c d i : Nat) : State :=
  match outBit s lid c i with
  | .error f => imageFault s lid f
  | .ok false => s
  | .ok true =>
    let page (j : Nat) : Except Flt (Nat × Nat) :=
      match xlateRoot s (ctl s oSpRoot) (launchWorld s lid) 1 (imgVa s lid c (i * 0x10000 + j * 0x4000)),
        xlateRoot s (ctl s oSpRoot) (launchWorld s lid) 2 (imgVa s lid d (i * 0x10000 + j * 0x4000)) with
      | .ok a, .ok b => .ok (a.pa.toNat, b.pa.toNat)
      | .error f, _ => .error f
      | _, .error f => .error f
    match (List.range 4).mapM page with
    | .error f => lostSection s lid d i f
    | .ok ps => setOutBit (setOutBit (ps.foldl (fun s p => memCopy s (launchWorld s lid) p.1 p.2 0x4000) s) lid c i false) lid d i true

/-- Sections tagged for the launch follow a task from logical core `c` to `d` (R93, R398). -/
def migrate (s : State) (lid : BitVec 16) (c d : BitVec 9) : State :=
  match (if c = d then none else some ()), lmap s d.toNat with
  | some (), some q =>
    let s := (sectionsOf q.toNat).foldl (fun s n => if secTag s n = some lid then setSecTag s n none else s) s
    match lmap s c.toNat with
    | none => (List.range 48).foldl (fun s i => imageFollow s lid c.toNat d.toNat i) s
    | some p => (sectionsOf p.toNat).foldl (fun s n =>
        if secTag s n ≠ some lid then s
        else
          let base := vaultBase (n / 192) + n % 192 * 0x10000
          let s := setSecTag s n none
          match sectionMove s lid d.toNat (n % 48) base true with
          | .ok s => setOutBit s lid d.toNat (n % 48) true
          | .error f => lostSection s lid d.toNat (n % 48) f) s
  | _, _ => s

/-- The accesses that a resume issues again, as the first of the context: they keep their place before the appends that
follow them (R116, R291). -/
def reissued (c : Ctx) (l : List Acc) : Ctx :=
  { c with acc := c.acc ++ l.map fun a => { a with due := a.due.map (· + c.issue) } }

/-- A load as it is issued again: checked and translated anew (R291, R389). -/
def retranslated (s : State) (x : CtxId) (a : Acc) : Except Flt Acc :=
  match accCheckOf s x 1 a.lsize.val a.va with
  | .error f => .error f
  | .ok t => .ok { a with pa := t.pa, home := homeOf s t.pa.toNat, vol := t.device, world := t.world }

/-- Restore a SUSPENDED task on context `x` of the modelled core (R291). The sections have moved. -/
def restore (s : State) (t : Task) (x : CtxId) : Except Flt State :=
  match areaRead s t 0 0x4500 with
  | .error f => .error f
  | .ok d =>
    match areaRead s t 0x4500 (8480 * t.uslots.length + 16416 * t.ubanks.length) with
    | .error f => .error f
    | .ok r =>
      let cbl := dfield d 0x90 8 / 2 ^ 30 % 256
      let c := ctxOf d ((t.kept.getD (Ctx.create 0 0)))
      let s := s.setCx x { c with task := some t.id, hbeat := now s }
      let s := t.uslots.zipIdx.foldl (fun s e =>
        s.setSlot (BitVec.ofNat 6 e.1) (slotOf' ((r.drop (8480 * e.2)).take 8480) x (s.slot (BitVec.ofNat 6 e.1)))) s
      let s := t.ubanks.zipIdx.foldl (fun s e =>
        s.setBank (BitVec.ofNat 5 e.1) (bankOf' ((r.drop (8480 * t.uslots.length + 16416 * e.2)).take 16416) x
          (s.bank (BitVec.ofNat 5 e.1)))) s
      let cbs := s.core.cbs.mapIdx fun i b =>
        if cbl / 2 ^ i % 2 = 1 then ⟨BitVec.ofNat 256 (dfield d (0x4400 + 32 * i) 32), some t.lid, b.past.filter (·.task == some t.id)⟩
        else if b.lid = some t.lid then { b with lid := none } else b
      let s := s.modCore ({ · with cbs := cbs })
      match areaWrite (retakeNd s x) t 0x80 (w64 0) with
      | (s, some f) => let _ := s; .error f
      | (s, none) => .ok s

/-- The loads that a task has still to issue again. -/
def setReissue (s : State) (x : CtxId) (l : List Acc) : State :=
  match (s.cx x).task with | some id => modTask s id ({ · with reissue := l }) | none => s

/-- The loads of a resumed task issue again, as many as the core accepts (R21); one that faults is an imprecise trap at the saved
PC (R291). -/
def reissueLoads (s : State) (x : CtxId) (l : List Acc) : State :=
  match l.mapM (retranslated s x) with
  | .error f => takeTrap (setReissue s x l) x ⟨f.cause, 0, false, 0, f.val⟩
  | .ok k =>
    let room := 2048 - outstanding s
    setReissue (s.modCx x (reissued · (k.take room))) x (l.drop room)

end Sys2Proof.Machine
end

