-- ==== Sys2Proof/Machine/Sched.lean ====
section
/-! DEFINITION. The stage scheduler: target groups (R29 to R31, R318), scans of a core as the scheduler sees them (R177,
R431), power gating (R296, R297), readiness (R44, R282), placement (R283, R284, R291, R345), pre-emption (R285 to R288),
rendezvous (R121), launches (R279 to R281, R293, R397), and stage reassignment (R294). -/
namespace Sys2Proof.Machine

open Bits

/-! ### Groups (R29 to R31) -/

/-- A core serves tasks of a world: its block world, and no change of it waits (R318). -/
def servesWorld (s : State) (c : BitVec 9) (w : Bool) : Bool :=
  let b := WorldBlock.core (BitVec.ofNat 9 (physOf s c))
  blockWorld s b == w && !blockChanging s b

/-- The cores of a target group for a launch of world `w`, ascending (R31, R318). -/
def groupCores (s : State) (g : BitVec 16) (w : Bool) : List (BitVec 9) :=
  logicals.filter fun c => coreLive s c && inGroup s g c && blockWorld s (.core (BitVec.ofNat 9 (physOf s c))) == w

/-- Clusters of some cores, ascending. -/
def clustersOf (s : State) (cs : List (BitVec 9)) : List Nat := (List.range 16).filter fun k => cs.any fun c => clusterOf s c == k

/-- Logical core `c` is the modelled core. -/
def isMine (s : State) (c : BitVec 9) : Bool := lmap s c.toNat == some s.core.phys

/-! ### Tasks on cores -/

/-- The task that holds context `x` of logical core `c`. -/
def holder (s : State) (c : BitVec 9) (x : CtxId) : Option Task :=
  s.pkg.tasks.find? fun t => t.core == some c && t.ctx == some x

/-- Contexts of a core that hold a task. -/
def heldCount (s : State) (c : BitVec 9) : Nat := (ctxs.filter fun x => (holder s c x).isSome).length

/-- The launch of a task. -/
def taskLaunch (s : State) (t : Task) : Option Launch := launchOf s t.lid

/-- The world of a task. -/
def taskWorld (s : State) (t : Task) : Bool := launchWorld s t.lid

/-- The target group of a task. -/
def taskGroup (s : State) (t : Task) : BitVec 16 := ((taskLaunch s t).map (·.group)).getD 0

/-! ### Scans (R177, R431, R432) -/

/-- CORE.SCANST of physical core `p` is written. -/
def setScanst (s : State) (p : BitVec 9) (v : Word) : State :=
  if p = s.core.phys then s.modCore ({ · with scanst := v }) else setCtl s (0x3000010 + 0x100 * p.toNat) v

/-- The scan of a logical core in DRAIN or RUN. -/
def scanOf (s : State) (c : BitVec 9) : Option Scan := s.pkg.scans.find? fun k => k.core == c && (k.state == 1 || k.state == 2)

/-- Its RUN has ended: nothing aborts it any more, and it ends in PASS or FAIL (R177, R433). -/
def scanOver (s : State) (k : Scan) : Bool := k.state == 2 && decide (100 * k.npat.toNat ≤ ((now s) - k.start).toNat)

/-- Every context holds its reset values, with the comb and the accumulators (R177, at PASS, FAIL and ABORT from RUN). -/
def scanResetAll (s : State) : State :=
  s.modCore fun k => { k with ctx := Vector.ofFn fun x => Ctx.create (fld k.srseed 0 32) x.val
                              slots := Vector.replicate 64 .reset, banks := Vector.replicate 32 .reset, exp := none }

/-- The contexts without a task and the slots and banks that none owns hold their reset values (R177, ABORT from
DRAIN). -/
def scanResetIdle (s : State) : State :=
  let ctx := s.core.ctx.mapIdx fun i c => if c.task.isSome then c else Ctx.create (fld s.core.srseed 0 32) i
  s.modCore fun k => { k with ctx := ctx
                              slots := k.slots.map fun v => if v.state = 0 then Slot.reset else v
                              banks := k.banks.map fun b => if b.state = 0 then Bank.reset else b }

/-- The scan stops in state ABORT (R177, R431): SCANST, then the reset values; DONE is posted later. -/
def scanStop (s : State) (k : Scan) : State :=
  let w := setFld (scanWord s k.phys 0) 0 5#3
  let s := setScanst s k.phys w
  let s := if k.phys = s.core.phys then (if k.state = 2 then scanResetAll s else scanResetIdle s) else s
  s.modPkg fun p => { p with scans := p.scans.filter fun j => j.core != k.core }

/-- The post of 1 to a scan's DONE (R177). -/
def scanPost (s : State) (k : Scan) : State :=
  match postRoot s k.root k.world k.done 1 with | .ok s => s | .error _ => s

/-! ### Power gating (R296, R297) -/

/-- The 64 cycles of GATING have passed (R297). -/
def Core.gateDue (k : Core) : Bool := decide (64 ≤ (k.cycle - k.gateAt).toNat)

/-- A wake message to logical core `c` (R296, R297): ON stays ON and its count restarts, GATING is aborted, or past its last cycle
the message stays in the mailbox; GATED goes to WAKING. -/
def wake (s : State) (c : BitVec 9) : State :=
  if !isMine s c then s
  else match s.core.gate with
    | .on => s.modCore ({ · with idle := 0 })
    | .gating => s.modCore fun k => if k.gateDue then { k with mailbox := true } else { k with gate := .on, idle := 0, mailbox := false }
    | .gated => s.modCore fun k => { k with gate := .waking, mailbox := true }
    | .waking => s

/-! ### Readiness (R44, R282) -/

/-- The counters of a loop record: address and threshold (R43). -/
def counters (d : List Byte) : List (VAddr × Nat) :=
  (List.range (recNctr d)).map fun i => (BitVec.ofNat 56 (dfield d (64 + 16 * i) 8), dfield d (72 + 16 * i) 8)

/-- The test of R44. -/
def testReady (s : State) (t : Task) : Except Flt Bool :=
  let r := launchRoot s t.lid
  match loopRecord s t with
  | .error f => .error f
  | .ok d => (counters d).foldl (fun b c => match b with
      | .error f => .error f
      | .ok false => .ok false
      | .ok true =>
        match rootRead s r.1 r.2 c.1 8 with
        | .error f => .error f
        | .ok v => .ok (decide (c.2 ≤ ofBytes v))) (.ok true)

/-- A fault of the device for an accepted launch (R397): a record of kind 6, and the launch is aborted. A poisoned word that it met is
recorded too (R412). -/
def launchFault (s : State) (lid : BitVec 16) (f : Flt) : State :=
  abortLaunch (faultLog (rootSeen s (launchRoot s lid).1 (launchRoot s lid).2 f) 6 f.cause 0 lid 0 0 0 f.val (f.val &&& ones 55 0)) lid

/-- The clock of the ready lists advances. -/
def State.tock (s : State) : State := s.modPkg fun p => { p with clock := p.clock + 1 }

/-- A CREATED task is tested (R282). -/
def checkReady (s : State) (id : Nat) : State :=
  match taskOf s id with
  | none => s
  | some t =>
    if t.state ≠ .created then s
    else match testReady s t with
      | .error f => launchFault s t.lid f
      | .ok false => s
      | .ok true =>
        let s := s.tock
        modTask s id fun t => { t with state := .ready, readyAt := s.pkg.clock }

/-! ### CBAR (R121) -/

/-- Rendezvous completed of a launch in a cluster. -/
def cbarDone (s : State) (lid : BitVec 16) (k : Nat) : Nat :=
  match s.pkg.cbarGen.find? fun e => e.1 == lid && e.2.1 == k with | some e => e.2.2 | none => 0

/-- The task is a member of cluster `k` (R121). -/
def memberOf (s : State) (k : Nat) (t : Task) : Bool :=
  match t.core with
  | some c => clusterOf s c == k
  | none => (clustersOf s (groupCores s (taskGroup s t) (taskWorld s t))).contains k

/-- The members of a launch in a cluster (R121). -/
def members (s : State) (lid : BitVec 16) (k : Nat) : List Task :=
  s.pkg.tasks.filter fun t => t.lid == lid && memberOf s k t

/-- The rendezvous of a launch in a cluster completes once every member has reached it (R121). -/
def rendezvous (s : State) (lid : BitVec 16) (k : Nat) : State :=
  let g := cbarDone s lid k
  let ms := members s lid k
  if !ms.isEmpty && ms.all fun t => decide (g < t.cbar) then
    s.modPkg fun p => { p with cbarGen := (lid, k, g + 1) :: p.cbarGen.filter fun e => !(e.1 == lid && e.2.1 == k) }
  else s

/-- The rendezvous of a launch in every cluster. -/
def rendezvousAll (s : State) (lid : BitVec 16) : State := (List.range 16).foldl (rendezvous · lid) s

/-! ### Placement (R283, R284, R291, R345) -/

/-- Columns' dispatch threshold; 0 behaves as 1 (R278). -/
def colThr (s : State) (k : Nat) : Nat := max 1 (fldN (ctl s (0x200000 + 8 * k)) 0 8)

/-- The column that a waiting task is assigned to (R284): of its core, or of a target group within one column. -/
def assignedCol (s : State) (t : Task) : Option Nat :=
  match t.pin with
  | some c => some (colOf s c)
  | none =>
    let g := taskGroup s t
    match fldN g 0 3 with
    | 0 => some (colOf s (fld g 3 9))
    | 1 => some (fldN g 3 9)
    | _ => none

/-- The load of a column as a task that is to be placed finds it (R284; entry 93): the other READY tasks assigned to it and the
contexts that hold a task. -/
def colLoad (s : State) (t : Task) (k : Nat) : Nat :=
  (s.pkg.tasks.filter fun u =>
    (u.ctx.isSome && (match u.core with | some c => colOf s c == k | none => false)) ||
    (u.id != t.id && u.state == .ready && assignedCol s u == some k)).length

/-- A column is full (R284). -/
def colFull (s : State) (t : Task) (k : Nat) : Bool := decide (colThr s k ≤ colLoad s t k)

/-- No scan of the core holds off a task of priority `p` (R177, R431); one whose RUN has ended is not aborted (R433). -/
def scanAllows (s : State) (c : BitVec 9) (p : BitVec 4) : Bool :=
  match scanOf s c with | some k => decide (k.prio.toNat < p.toNat) && !scanOver s k | none => true

/-- A core has a free context for a task of priority `p`. -/
def freeOn (s : State) (c : BitVec 9) (p : BitVec 4) : Option CtxId :=
  if scanAllows s c p then ctxs.find? fun x => (holder s c x).isNone else none

/-- The slots and banks that a SUSPENDED task saved are FREE on core `c` (R291), and none of its manual near-DRAM banks is held by
another context of it (R98; entry 119). -/
def numbersFree (s : State) (t : Task) (c : BitVec 9) : Bool :=
  !isMine s c || (t.uslots.all (fun i => (s.slot (BitVec.ofNat 6 i)).state == 0) &&
    t.ubanks.all (fun i => (s.bank (BitVec.ofNat 5 i)).state == 0) &&
    (List.range 4).all fun i => !(t.kept.any fun k => bit k.ndman i) || (ndBank s i).holder.isNone)

/-- The core that the stage scheduler gave a task is the only one for its first placement, while it is live (R294); a SUSPENDED task
resumes on any core of its group (R291, R430). -/
def pinAllows (s : State) (t : Task) (c : BitVec 9) : Bool :=
  match t.pin with | some p => c == p || t.state == .suspended || !coreLive s p | none => true

/-- The cores that may take a task: of its group or the one it was given, neither leaving (R329) nor changing world (R318), held
off by no scan (R177), and with the numbers it saved FREE (R291). -/
def coresFor (s : State) (t : Task) : List (BitVec 9) :=
  (groupCores s (taskGroup s t) (taskWorld s t)).filter fun c =>
    pinAllows s t c && !s.pkg.removing.contains (BitVec.ofNat 9 (physOf s c)) && servesWorld s c (taskWorld s t) &&
      scanAllows s c t.prio && (t.state != .suspended || numbersFree s t c)

/-- The least element of a list by a key. -/
def leastBy {α : Type} (f : α → Nat) : List α → Option α
  | [] => none
  | a :: l => match leastBy f l with
    | none => some a
    | some b => if f b < f a then some b else some a

/-- The context that R284 gives a task among some cores. -/
def pickAmong (s : State) (t : Task) (cs : List (BitVec 9)) : Option (BitVec 9 × CtxId) :=
  let cs := cs.filter fun c => (freeOn s c t.prio).isSome && !colFull s t (colOf s c)
  match leastBy (fun k => 128 * colLoad s t k + k) (cs.map (colOf s)) with
  | none => none
  | some k =>
    match leastBy (fun c => (if heldCount s c = 0 then 0 else 512) + c.toNat) (cs.filter fun c => colOf s c == k) with
    | none => none
    | some c => (freeOn s c t.prio).map fun x => (c, x)

/-- A task group is wide: offered to its clusters in turn (R283). -/
def isWide (s : State) (t : Task) : Bool := decide (3 ≤ fldN (taskGroup s t) 0 3) && (t.pin.isNone || t.state == .suspended)

/-- Clusters in the order of offers, starting after the one that placed the previous wide task (R283). -/
def offerOrder (s : State) : List Nat := (List.range 16).map fun i => (s.pkg.lastCluster + 1 + i) % 16

/-- The context of a task at its first issue (R45, R307, R345). -/
def firstCtx (s : State) (t : Task) (x : CtxId) (d : List Byte) : Ctx :=
  let r := launchRoot s t.lid
  let c := Ctx.create (fld s.core.srseed 0 32) x.val
  let c := { c with task := some t.id, lid := t.lid, world := r.2, troot := r.1 &&& rootBits, first := true,
                    hbeat := now s, ackver := mapVer s,
                    phase := if recIter d = 0 then .pro else .ker,
                    pc := if recIter d = 0 then recPro d else recKer d }
  let c := { c with pc := c.pc + 8 }
  let c := c.setReg 1 (recArg d)
  match t.trig with
  | some (a, b, e) => ((c.setReg 2 a).setReg 3 b).setReg 4 e
  | none => c

/-- A resumed task that has not acknowledged VER is DUE, and MAPCHG is raised (R330). -/
def resumeAck (s : State) (x : CtxId) (t : Task) : State :=
  if t.ackver = mapVer s then s.modCx x fun c => { c with ack := .acked, ackver := t.ackver }
  else mapEvent (s.modCx x fun c => { c with ack := .due (ackDeadline s), ackver := t.ackver }) x (mapVer s)

/-- A task on context `x` of the modelled core starts or resumes. -/
def startOn (s : State) (t : Task) (x : CtxId) : State :=
  if t.state = .suspended then
    match restore s t x with
    | .error f => launchFault s t.lid f
    | .ok s => resumeAck (reissueLoads (joinLine s x) x t.reissue) x t
  else match loopRecord s t with
    | .error f => launchFault s t.lid f
    | .ok d => joinLine (s.setCx x (firstCtx s t x d)) x

/-- A task takes context `x` of logical core `c` (R284, R291, R296, R431). A scan that it aborts posts DONE after; the clusters
that it leaves count it no more (R121). -/
def placeOn (s : State) (t : Task) (c : BitVec 9) (x : CtxId) : State :=
  let k := scanOf s c
  let s := match k with | some k => scanStop s k | none => s
  let s := wake s c
  let s := match t.core with | some o => if t.state = .suspended then migrate s t.lid o c else s | none => s
  let wide := isWide s t
  let moved : Bool := match t.core with | some o => clusterOf s o != clusterOf s c | none => true
  let fresh := moved || t.state != .suspended
  let n := if moved then cbarDone s t.lid (clusterOf s c) else t.cbar
  let s := s.modPkg fun p => { p with lastCluster := if wide then clusterOf s c else p.lastCluster }
  let s := modTask s t.id fun t => { t with
    state := .running, core := some c, ctx := some x, placedAt := now s, chosen := none, heir := none, cbar := n }
  let s := if isMine s c then (startOn s t x).modCx x fun k => { k with cbar := if k.task = some t.id ∧ fresh then n else k.cbar }
           else s
  let s := if moved then rendezvousAll s t.lid else s
  match k with | some k => scanPost s k | none => s

/-! ### Pre-emption (R285 to R288) -/

/-- A task stops being RUNNING on context `x` without a save (R288, kill): entries, slots, banks and manual banks go. -/
def dropCtx (s : State) (x : CtxId) : State := freeCtx (releaseNd (releaseComb (flushHits s x) x) x) x

/-- Kill (R288): the task returns to CREATED with ITER := 0. It stays a member that has not reached the next rendezvous of the cluster
it ran in, which its first CBAR then meets (R121). -/
def kill (s : State) (v : Task) : State :=
  let n := match v.core with | some c => cbarDone s v.lid (clusterOf s c) | none => v.cbar
  let s := match v.core, v.ctx with
    | some c, some x => if isMine s c then dropCtx s x else s
    | _, _ => s
  let s := (areaWrite s v 32 (w64 0)).1
  checkReady (modTask s v.id fun t => { t with state := .created, ctx := none, chosen := none, heir := none, cbar := n }) v.id

/-- A victim may be chosen: RUNNING, not chosen, fewer tokens, and neither HELD nor stopped (R286, R292, R333, R353). -/
def mayPreempt (s : State) (t v : Task) (cs : List (BitVec 9)) : Bool :=
  v.state == .running && v.chosen.isNone && decide (v.prio.toNat < t.prio.toNat) &&
    (match v.core, v.ctx with
     | some c, some x => cs.contains c && !(isMine s c && ((s.cx x).isHeld || (s.cx x).halted || (s.cx x).dying))
     | _, _ => false)

/-- The remaining estimate of a task; none is unbounded (R286). A record that cannot be read gives no bound. -/
def remaining (s : State) (v : Task) : Option Nat :=
  match loopRecord s v with
  | .error _ => none
  | .ok d => if recPers d then none else some (recEstim d * (recTrip d - recIter d))

/-- The order of victims: tokens, remaining estimate, core, context (R286). -/
def victimKey (s : State) (v : Task) : Nat :=
  v.prio.toNat * 2 ^ 120 + (min ((remaining s v).getD (2 ^ 100 - 1)) (2 ^ 100 - 1)) * 2 ^ 12 +
    ((v.core.map (·.toNat)).getD 0) * 8 + ((v.ctx.map (·.val)).getD 0)

/-- The victim shares a band (R287), where the modelled core holds it. -/
def victimShares (s : State) (v : Task) : Bool :=
  match v.core, v.ctx with | some c, some x => isMine s c && sharesBand s x | _, _ => false

/-- A task may be given a context: READY outside power hold (R26), or SUSPENDED (R291, R292); none of a launch under stop (R333,
R335). -/
def Task.placeable (t : Task) (s : State) : Bool :=
  ((t.state == .ready && !s.pkg.hold) || t.state == .suspended) && s.pkg.stopLid != some t.lid

/-- A task waits for a context. A task of a pipeline waits on the core it was given. -/
def isWaitingTask (s : State) (t : Task) : Bool :=
  t.placeable s &&
    (match taskLaunch s t with | some l => !l.aborted && (decide (l.stages.length ≤ 1) || t.pin.isSome) | none => false) &&
    !s.pkg.tasks.any (fun v => v.heir == some t.id)

/-- The order of the ready lists (R283): tokens, then the time of becoming READY. -/
def waitKey (t : Task) : Nat := (15 - t.prio.toNat) * 2 ^ 64 + t.readyAt

/-- The head of cluster `k`'s list: the first of the waiting tasks that the cluster may place (R283). -/
def headOfCluster (s : State) (ws : List Task) (k : Nat) : Option Task :=
  leastBy waitKey (ws.filter fun t => (clustersOf s (coresFor s t)).contains k)

/-- The clusters with their heads, as a task is offered to them: in the order that follows the cluster which placed the last wide
task (R283). -/
def heads (s : State) : List (Nat × Task) :=
  let ws := s.pkg.tasks.filter (isWaitingTask s)
  (offerOrder s).filterMap fun k => (headOfCluster s ws k).map fun t => (k, t)

/-- Insert into a list ascending by a key. -/
def insertBy {α : Type} (f : α → Nat) (a : α) : List α → List α
  | [] => [a]
  | b :: l => if f b ≤ f a then b :: insertBy f a l else a :: b :: l

/-- The heads of the clusters, the first in the order of R283 first; a wide task with its clusters in the order of offers. -/
def offers (s : State) : List (Nat × Task) := (heads s).foldl (fun l h => insertBy (fun e => waitKey e.2) h l) []

/-- The place that cluster `k` has for the task at its head (R284). -/
def pickPlace (s : State) (k : Nat) (t : Task) : Option (BitVec 9 × CtxId) :=
  pickAmong s t ((coresFor s t).filter fun c => clusterOf s c == k)

/-- The scheduler of cluster `k` has chosen a victim for a task that is not placed yet (R288). -/
def evaluating (s : State) (k : Nat) : Bool :=
  s.pkg.tasks.any fun v => v.heir.isSome && (v.state == .draining || v.chosen == some .checkpoint) &&
    (match v.core with | some c => clusterOf s c == k | none => false)

/-- Pre-emption evaluation for a task that cannot be placed (R286, R288). -/
def evaluate (s : State) (t : Task) : State :=
  let cs := coresFor s t
  if cs.isEmpty || !(cs.map (colOf s)).all (colFull s t) || (clustersOf s cs).any (evaluating s) then s
  else match leastBy (victimKey s) (s.pkg.tasks.filter fun v => mayPreempt s t v cs) with
    | none => s
    | some v =>
      let d := match loopRecord s v with | .ok d => d | .error _ => []
      let lim := fldN (ctl s 0x200408) 0 32
      if (remaining s v).any (decide <| · ≤ lim) then modTask s v.id ({ · with state := .draining, heir := some t.id })
      else if recCkpt d && !victimShares s v then
        modTask s v.id ({ · with chosen := some .checkpoint, heir := some t.id })
      else if recRst d then
        match v.core, v.ctx with
        | some c, some x => let s := kill s v
                            match taskOf s t.id with | some t => placeOn s t c x | none => s
        | _, _ => s
      else s

/-- The evaluation of the first head for which it changes anything (R286). -/
def evaluateFirst (s : State) : List Task → State
  | [] => s
  | t :: l => let u := evaluate s t; if u = s then evaluateFirst s l else u

/-- One placement (R284), or failing all heads the evaluation for the first of them that leads to a change (R286). -/
def placeOne (s : State) : State :=
  let os := offers s
  match os.findSome? fun e => (pickPlace s e.1 e.2).map fun p => (e.2, p) with
  | some (t, c, x) => placeOn s t c x
  | none => evaluateFirst s (os.map (·.2))

/-- Tasks are placed from step 6 of the boot, and in step 4 for the boot launches (R313, R437). -/
def mayPlace (s : State) : Bool := decide (6 ≤ s.pkg.boot) || s.pkg.boot == 4

/-- The task that was promised a context takes it (R288, R292), where it may be placed there. -/
def placeHeir (s : State) (heir : Option Nat) (c : BitVec 9) (x : CtxId) : State :=
  match heir.bind (taskOf s) with
  | some t => if mayPlace s && t.placeable s && (coresFor s t).contains c then placeOn s t c x else s
  | none => s

/-- The quantum of R285, in nanoseconds. -/
def quantum (s : State) : Nat := max 1000 (fldN (ctl s 0x200400) 0 24)

/-- The waiting task at the head for the target group of `v` that its context may be given to (R285). -/
def groupHead (s : State) (v : Task) : Option Task :=
  leastBy waitKey (s.pkg.tasks.filter fun t => isWaitingTask s t && taskGroup s t == taskGroup s v &&
    (match v.core with | some c => (coresFor s t).contains c | none => false))

/-- Rotation of a task that has held its context for Q (R285). -/
def rotate (s : State) (v : Task) : State :=
  if v.state ≠ .running ∨ v.chosen.isSome ∨ ((now s) - v.placedAt).toNat < quantum s then s
  else match groupHead s v with
    | none => s
    | some t => if v.prio.toNat ≤ t.prio.toNat then modTask s v.id ({ · with chosen := some .rot }) else s

/-- A save of context `x` that is over (R289, R290): the area is written, and the promised task takes the context, or after a
rotation the one that is now at the head (R285). -/
def saveEnd (s : State) (x : CtxId) : State :=
  match ctxTask s x with
  | none => s
  | some t =>
    let rot := (s.cx x).saving == some .rot
    let s := saveFinish s x
    match t.core with
    | some c =>
      -- an abandoned save leaves the task where it is
      if !(taskOf s t.id).any (·.ctx.isNone) then s
      else
        let s := modTask s t.id ({ · with heir := none })
        placeHeir s (if rot then (groupHead s { t with ctx := none }).map (·.id) else t.heir) c x
    | none => s

/-! ### Launches (R279 to R281, R293, R397) -/

/-- STAGE[i] of a launch descriptor (R47). -/
def descStages (d : List Byte) : List VAddr := (List.range (dfield d 10 1)).map fun i => BitVec.ofNat 56 (dfield d (32 + 8 * i) 8)

/-- A check that fails with LIMIT for the field of `n` bytes at `off`. -/
def lim (b : Bool) (d : List Byte) (off n : Nat) : Option Flt := fltIf b (descLimit d off n)

/-- The checks of a template through a root (R397). -/
def templateFault (s : State) (root : Word) (world : Bool) (va : VAddr) : Option Flt :=
  match rootRead s root world va 128 with
  | .error f => some f
  | .ok d => firstFlt ([lim (dfield d 0 8 % 128 != 0) d 0 8, lim (dfield d 8 8 % 128 != 0) d 8 8,
      lim (dfield d 16 8 % 128 != 0) d 16 8, lim (16 ≤ dfield d 44 1) d 44 1, lim (8 ≤ dfield d 45 1) d 45 1,
      lim (dfield d 47 1 != 0) d 47 1, lim (dfield d 32 8 != 0) d 32 8, lim (4 < recNctr d) d 46 1] ++
      (counters d).zipIdx.map fun e =>
        if e.1.1.toNat % 8 ≠ 0 then some (descLimit d (64 + 16 * e.2) 8) else rootCheck s root world 1 e.1.1 8)

/-- The checks of a launch descriptor (R397), for a queue's root and world. -/
def descFault (s : State) (root : Word) (world : Bool) (d : List Byte) (group : BitVec 16) : Option Flt :=
  let n := dfield d 10 1
  let done : VAddr := BitVec.ofNat 56 (dfield d 0 8)
  firstFlt ([lim (n == 0 || decide (8 < n)) d 10 1, lim (!groupOk group) d 8 2,
    lim (decide (2 ≤ dfield d 11 1) || (dfield d 11 1 == 1) != world) d 11 1,
    reservedLimit d 12 4, reservedLimit d 24 8, reservedLimit d 96 32, lim (dfield d 0 8 % 8 != 0) d 0 8,
    rootCheck s root world 2 done 8] ++
    (List.range 8).map (fun i => if i < n then lim (dfield d (32 + 8 * i) 8 == 0 || dfield d (32 + 8 * i) 8 % 128 != 0) d (32 + 8 * i) 8
      else lim (dfield d (32 + 8 * i) 8 != 0) d (32 + 8 * i) 8) ++
    (descStages d).map (templateFault s root world ·))

/-- A free launch identifier (R279; entry 26): the lowest. -/
def freeLid (s : State) : Option (BitVec 16) :=
  ((List.range 64).find? fun n => !s.pkg.launches.any fun l => fldN l.lid 0 6 == n).map (BitVec.ofNat 16)

/-- Create instance `n` of stage `i` (R281): its record is a copy of the template, with ITER = 0, ARG of the launch, and
for a watch-created launch the entry's PRIO. -/
def makeInstance (s : State) (l : Launch) (i n : Nat) (pin : Option (BitVec 9)) : Except Flt State :=
  match rootRead s l.root l.world (l.stages.getD i 0) 128 with
  | .error f => .error f
  | .ok d =>
    let prio := l.prio.getD (recPrio d)
    let area : VAddr := BitVec.ofNat 56 (dfield d 48 8 + n * 0x120000)
    let rec' := d.take 32 ++ w64 0 ++ (d.drop 40).take 4 ++ [prio.setWidth 8] ++ (d.drop 45).take 11 ++ toBytes l.arg 8 ++ d.drop 64
    match rootWrite s l.root l.world area rec' with
    | (_, some f) => .error f
    | (s, none) =>
      let id := s.pkg.nextTask
      let t : Task := { id := id, lid := l.lid, stage := i, num := n, state := .created, prio := prio, area := area,
                        trig := l.trig, core := none, ctx := none, pin := pin, readyAt := 0, placedAt := 0, chosen := none,
                        heir := none, ackver := mapVer s, cbar := 0, reissue := [], kept := none, uslots := [], ubanks := [] }
      .ok (checkReady (s.modPkg fun p => { p with tasks := p.tasks ++ [t], nextTask := id + 1 }) id)

/-- A counter of ring `i` (R293): FILLED_i is CTR[0] of stage i, FREE_i is CTR[1] of stage i − 1. -/
def ringCounter (s : State) (l : Launch) (stage k : Nat) : Except Flt Nat :=
  match rootRead s l.root l.world (l.stages.getD stage 0) 128 with
  | .error f => .error f
  | .ok d =>
    match rootRead s l.root l.world (BitVec.ofNat 56 (dfield d (64 + 16 * k) 8)) 8 with
    | .error f => .error f
    | .ok v => .ok (ofBytes v)

/-- FREE_i − FILLED_i modulo 2^64 (R293). -/
def ringFree (s : State) (l : Launch) (i : Nat) : Except Flt Word :=
  match ringCounter s l (i - 1) 1, ringCounter s l i 0 with
  | .ok a, .ok b => .ok (BitVec.ofNat 64 a - BitVec.ofNat 64 b)
  | .error f, _ => .error f
  | _, .error f => .error f

/-- CAP_i for every ring (R293). -/
def ringCaps (s : State) (l : Launch) : Except Flt (List Word) :=
  (List.range (l.stages.length - 1)).mapM fun i => ringFree s l (i + 1)

/-- The first assignment (R294): each cluster's cores, ascending, to stages 0, 1, …, in turn. -/
def assignCores (s : State) (cs : List (BitVec 9)) (n : Nat) : List (BitVec 9 × Nat) :=
  (clustersOf s cs).flatMap fun k => ((cs.filter fun c => clusterOf s c == k).zipIdx).map fun e => (e.1, e.2 % n)

/-- The instances of a new launch (R281, R294); no further one once a fault has aborted it (R397). -/
def makeInstances (s : State) (l : Launch) : Except Flt State :=
  if l.stages.length ≤ 1 then makeInstance s l 0 0 none
  else (l.cores.foldl (fun r e => match r with
    | .error f => .error f
    | .ok (s, ns) =>
      let n := ns.getD e.2 0
      if (launchOf s l.lid).any (·.aborted) then .ok (s, ns)
      else match makeInstance s l e.2 n (some e.1) with
      | .error f => .error f
      | .ok s => .ok (s, ns.set e.2 (n + 1))) (Except.ok (s, List.replicate l.stages.length 0))).map (·.1)

/-- The out-bit words of a launch are zero for every core of its group (R280). -/
def clearOutWords (s : State) (lid : BitVec 16) (cs : List (BitVec 9)) : Except Flt State :=
  cs.foldl (fun r c => match r with
    | .error f => .error f
    | .ok s => match outWord s lid c.toNat 2 with
      | .error f => .error f
      | .ok a => .ok (devStore s (launchWorld s lid) a (List.replicate 8 0))) (.ok s)

/-- Accept a launch (R279 to R281, R293): its identifier, out-bit words, capacities, instances. `none`: 64 are accepted. -/
def acceptLaunch (s : State) (d : List Byte) (root : Word) (world : Bool) (group : BitVec 16) (prio : Option (BitVec 4))
    (trig : Option (Word × Word × Word)) (watch : Option (Nat × Nat)) : Option State :=
  match freeLid s with
  | none => none
  | some lid =>
    let cs := groupCores s group world
    let l : Launch := { lid := lid, done := BitVec.ofNat 56 (dfield d 0 8), group := group, world := world,
                        arg := BitVec.ofNat 64 (dfield d 16 8), root := root, stages := descStages d, prio := prio, trig := trig,
                        caps := [], watch := watch, aborted := false, since := now s, moved := [], cores := assignCores s cs (dfield d 10 1), next := [] }
    let l := { l with next := (List.range l.stages.length).map fun i => (l.cores.filter (·.2 == i)).length }
    let s := s.modPkg fun p => { p with launches := p.launches ++ [l] }
    some <| match clearOutWords s lid cs with
    | .error f => launchFault s lid f
    | .ok s =>
      match ringCaps s l with
      | .error f => launchFault s lid f
      | .ok caps =>
        let l := { l with caps := caps }
        let s := s.modPkg fun p => { p with launches := p.launches.map fun j => if j.lid = lid then l else j }
        match makeInstances s l with
        | .error f => launchFault s lid f
        | .ok s => s

/-- The group of a launch has a live core; otherwise the record of R428. -/
def groupDead (s : State) (group : BitVec 16) (world : Bool) : Bool := (groupCores s group world).isEmpty

/-- The sections and out-bit words of a launch are released on every core of its tasks, as at HALT (R93, R361). -/
def dropImages (s : State) (lid : BitVec 16) : State :=
  let cs := ((s.pkg.tasks.filter (·.lid == lid)).filterMap (·.core)).eraseDups
  (cs.foldl (dropSections · lid ·) s).modPkg fun p => { p with sectags := p.sectags.filter (·.2 != lid) }

/-- An aborted launch ends once its contexts have performed their stores (R354, R361): they are scrubbed, its tasks are dropped
and its sections released, and the completion tree fires once. -/
def finishAbort (s : State) (l : Launch) : State :=
  let xs := ctxsOf s l.lid
  if xs.any fun x => (s.cx x).storesLeft then s
  else
    let s := dropImages (xs.foldl scrub s) l.lid
    endLaunch (settleLines (s.modPkg fun p => { p with tasks := p.tasks.filter (·.lid != l.lid) })) l 0x8000000000000001

/-- A launch ends: aborted (R361), or with all its instances halted (R49). -/
def endOf (s : State) (l : Launch) : State :=
  if l.aborted then finishAbort s l else if s.pkg.tasks.any (·.lid == l.lid) then s else endLaunch s l 1

/-- A launch whose instances have all halted, or that was aborted, completes (R49, R361). -/
def completeLaunch (s : State) (lid : BitVec 16) : State :=
  match launchOf s lid with | none => s | some l => endOf s l

/-- The first launch that can complete does. -/
def completeAny (s : State) : State :=
  match s.pkg.launches.find? fun l =>
      if l.aborted then !(ctxsOf s l.lid).any (fun x => (s.cx x).storesLeft) else !s.pkg.tasks.any (·.lid == l.lid) with
  | none => s
  | some l => endOf s l

/-- Instances of a launch that other cores run (R121). -/
def elsewhere (s : State) (lid : BitVec 16) : List Task :=
  s.pkg.tasks.filter fun t => t.lid == lid && t.ctx.isSome && (match t.core with | some c => !isMine s c | none => false)

/-- A free word says which instances on other cores have reached their next CBAR (R121; entry 94). -/
def othersReach (s : State) (lid : BitVec 16) : State :=
  rendezvousAll ((elsewhere s lid).foldl (fun s t => match t.core with
    | some c => if bit (freeWord s t.id) 0 then modTask s t.id ({ · with cbar := cbarDone s lid (clusterOf s c) + 1 }) else s
    | none => s) s) lid

/-! ### Stage reassignment (R293, R294) -/

/-- Fullness of ring `i` as a fraction (R293): f_0 = 1, f_NSTAGE = 0; a ring of capacity 0 counts as empty (entry 27). -/
def fullness (s : State) (l : Launch) (i : Nat) : Except Flt (Int × Nat) :=
  if i = 0 then .ok (1, 1)
  else if l.stages.length ≤ i then .ok (0, 1)
  else match ringFree s l i with
    | .error f => .error f
    | .ok v =>
      let cap := l.caps.getD (i - 1) 0
      if cap = 0 then .ok (0, 1) else .ok ((cap - v).toInt, cap.toNat)

/-- need(i) as a fraction (R294). -/
def need (s : State) (l : Launch) (i : Nat) : Except Flt (Int × Nat) :=
  match fullness s l i, fullness s l (i + 1) with
  | .ok (a, b), .ok (c, d) => .ok (a * (d : Int) - c * (b : Int), b * d)
  | .error f, _ => .error f
  | _, .error f => .error f

/-- a/b < c/d for positive denominators. -/
def fracLt (p q : Int × Nat) : Bool := decide (p.1 * (q.2 : Int) < q.1 * (p.2 : Int))

/-- The first index of the largest, or of the smallest, of some fractions. -/
def extreme (big : Bool) (l : List (Int × Nat)) : Nat :=
  (l.zipIdx.foldl (fun (b : Nat × (Int × Nat)) e =>
    if (if big then fracLt b.2 e.1 else fracLt e.1 b.2) then (e.2, e.1) else b) (0, l.getD 0 (0, 1))).1

/-- A SUSPENDED instance of stage `a` that no context is promised to (R294): one that has lost its core, or any other. -/
def stageSuspended (s : State) (l : Launch) (a : Nat) : Option Task :=
  let ts := s.pkg.tasks.filter fun t => t.lid == l.lid && t.stage == a && t.state == .suspended &&
    !s.pkg.tasks.any (·.heir == some t.id)
  (ts.find? (·.pin.isNone)).or ts.head?

/-- A waiting instance of stage `a` for core `c` (R294): a SUSPENDED one, or a new one. -/
def stageInstance (s : State) (l : Launch) (a : Nat) (c : BitVec 9) : Except Flt (State × Option Nat) :=
  match stageSuspended s l a with
  | some t => .ok (modTask s t.id ({ · with pin := some c }), some t.id)
  | none =>
    let n := l.next.getD a 0
    if (groupCores s l.group l.world).length ≤ n then .ok (s, none)
    else match makeInstance s l a n (some c) with
      | .error f => .error f
      | .ok s' =>
        .ok (s'.modPkg fun p => { p with launches := p.launches.map fun j =>
          if j.lid = l.lid then { j with next := j.next.set a (n + 1) } else j }, some s.pkg.nextTask)

/-- Move core `c` of a launch from stage `d` to stage `a` (R294). -/
def moveCore (s : State) (l : Launch) (c : BitVec 9) (d a : Nat) : State :=
  let s := s.modPkg fun p => { p with launches := p.launches.map fun j =>
    if j.lid = l.lid then { j with cores := j.cores.map fun e => if e.1 = c then (c, a) else e } else j }
  match launchOf s l.lid with
  | none => s
  | some l =>
    match stageInstance s l a c with
    | .error f => launchFault s l.lid f
    | .ok (s, heir) =>
      match s.pkg.tasks.find? fun t => t.lid == l.lid && t.stage == d && t.pin == some c with
      | none => s
      | some t =>
        if t.state = .running then modTask s t.id ({ · with chosen := some .reassign, heir := heir, pin := none })
        else modTask s t.id ({ · with pin := none })

/-- A decision of the stage scheduler of cluster `k` is due: Q has passed since the last (R294). -/
def stageDue (s : State) (l : Launch) (k : Nat) : Bool :=
  decide (quantum s ≤ (now s - (lookup l.moved k).getD l.since).toNat)

/-- The stage scheduler of cluster `k` has decided now (R294). -/
def stageDecided (s : State) (lid : BitVec 16) (k : Nat) : State :=
  s.modPkg fun p => { p with launches := p.launches.map fun l =>
    if l.lid = lid then { l with moved := insert l.moved k (now s) } else l }

/-- One decision of the stage scheduler of a cluster, at each Q (R294). -/
def reassign (s : State) (lid : BitVec 16) (k : Nat) : State :=
  match launchOf s lid with
  | none => s
  | some l =>
    if l.stages.length ≤ 1 ∨ l.aborted ∨ !stageDue s l k then s
    else
    let s := stageDecided s lid k
    match (List.range l.stages.length).mapM (need s l) with
    | .error f => launchFault s lid f
    | .ok ns =>
      let a := extreme true ns
      let d := extreme false ns
      let na := ns.getD a (0, 1)
      let nd := ns.getD d (0, 1)
      let diff : Int × Nat := (na.1 * (nd.2 : Int) - nd.1 * (na.2 : Int), na.2 * nd.2)
      match (l.cores.filter fun e => e.2 == d && clusterOf s e.1 == k) with
      | e :: _ :: _ => if fracLt diff (1, 2) then s else moveCore s l e.1 d a
      | _ => s

end Sys2Proof.Machine
end

