-- ==== Sys2Proof/Machine/Task.lean ====
section
/-! DEFINITION. The task instructions HALT, YIELD, ESTIM, HBEAT and ACKMAP (R45, R46, R49, R50, R170, R330), and CBAR
(R121, R168). -/
namespace Sys2Proof.Machine

open Bits

/-! ### HALT (R49, R50, R93) -/

/-- A HALT may retire (R49): queues empty, entries complete, accesses performed and landed. -/
def haltReady (c : Ctx) : Bool := c.acc.isEmpty && engines.all fun e => (c.eq e).quiet

/-- A task that held context `x` of core `c` has halted (R50, R93, R121, R292): it ends, and the task that was promised the
context takes it. -/
def haltTask (s : State) (t : Task) (c : BitVec 9) (x : CtxId) : State :=
  let s := s.modPkg fun p => { p with tasks := p.tasks.filter (·.id != t.id) }
  let s := if lastOnCore s t.lid c then dropSections s t.lid c else s
  placeHeir (rendezvousAll s t.lid) t.heir c x

/-- The context of a retired HALT (R50): what it holds is released, and its task ends. -/
def haltCtx (s : State) (x : CtxId) : State :=
  let u := freeCtx (releaseNd (releaseComb s x) x) x
  match ctxTask s x with
  | none => u
  | some t => haltTask u t (t.core.getD (lcore s)) x

/-- A free word says which instances on other cores have halted (R49; entry 94). -/
def othersHalt (s : State) (lid : BitVec 16) : State :=
  (elsewhere s lid).foldl (fun s t => match t.core, t.ctx with
    | some c, some x => if bit (freeWord s t.id) 1 then haltTask s t c x else s
    | _, _ => s) s

/-- HALT (R49). -/
def execHalt (s : State) : Host.Outcome State Fault Refusal :=
  retire s 1 (
    let x := s.core.cur
    if haltReady (s.cx x) then .stay (haltCtx (s.issued (curPc s)) x) else .rest 15)

/-! ### YIELD (R45, R46) -/

/-- What YIELD does to the phase (R45): the next phase and its address, none in EPI, and the new ITER. -/
def yieldNext (d : List Byte) (ph : Phase) : Phase × Option VAddr × Option Nat :=
  match ph with
  | .pro => if recTrip d = 0 ∧ recPers d = false then (.epi, some (recEpi d), none) else (.ker, some (recKer d), none)
  | .ker =>
    let n := (recIter d + 1) % 2 ^ 64
    if recPers d || decide (n < recTrip d) then (.ker, some (recKer d), some n) else (.epi, some (recEpi d), some n)
  | .epi => (.epi, none, none)

/-- The save that falls due at a YIELD (R285, R294, R330), unless the context shares a band (R287). -/
def saveDue (s : State) (x : CtxId) : Option SaveReason :=
  if sharesBand s x then none
  else match (ctxTask s x).bind (·.chosen) with
    | some r => some r
    | none => match (s.cx x).ack with | .late => some .map | _ => none

/-- The save of a YIELD that retires begins (R289). -/
def yieldSave (s : State) (x : CtxId) : State :=
  match saveDue s x with | some r => saveStart s x r | none => s

/-- YIELD (R45, R46). One that moves the PC to KERNEL or EPILOGUE is a transfer, to which the end step of R162 does not apply
(entry 117). -/
def execYield (s : State) : Host.Outcome State Fault Refusal :=
  retire s 1 (
    let x := s.core.cur
    match ctxTask s x with
    | none => .done s
    | some t =>
      match loopRecord s t with
      | .error f =>
        if f.cause = 0x30 then
          .stay (takeTrap (rootSeen s (launchRoot s t.lid).1 (launchRoot s t.lid).2 f) x ⟨f.cause, 0, false, 0, f.val⟩)
        else if (s.cx x).phase = .epi then .fault f else .stay (preciseFault s f)
      | .ok d =>
        let (ph, dst, it) := yieldNext d (s.cx x).phase
        match (match it with | none => (s, none) | some n => areaWrite s t 32 (w64 n)) with
        | (_, some f) => .stay (preciseFault s f)
        | (s', none) =>
          let s' := yieldSave (s'.modCx x fun c => { c with phase := ph, first := c.phase != ph }) x
          match dst with
          | none => .done s'
          | some a => .jump s' (a + 8) true)

/-! ### ESTIM, HBEAT, ACKMAP (R170, R330, R421) -/

/-- ESTIM: a 4-byte store of the context to the ESTIM field of its loop record (R170). -/
def execEstim (a : BitVec 6) (s : State) : Host.Outcome State Fault Refusal :=
  retire s 1 (match ctxTask s s.core.cur with
    | none => .done s
    | some t => storeRes s [a] (BitVec.ofNat 64 (min (s.reg a).toNat (2 ^ 32 - 1))) (t.area + 40) 2 false)

/-- HBEAT: restarts the hang watchdog of the context (R170, R421). -/
def execHbeat (s : State) : Host.Outcome State Fault Refusal :=
  retire s 1 (.done (s.modCx s.core.cur fun c => { c with hbeat := now s, beat := some (now s) }))

/-- Every earlier access of the context has left its queue (R170). -/
def Ctx.noneQueued (c : Ctx) : Bool := c.acc.all fun a => a.left || a.done

/-- The acknowledgement of a context when its ACKMAP, which read `v`, retires (R330): ACKED, or DUE again when VER has risen since,
at stroke value `t`. -/
def Ctx.ackRetire (c : Ctx) (s : State) (v : Word) (t : Option Word) : Ctx :=
  { c with ackrd := none, ackver := v, ack := match t with | none => .acked | some t => .due (ackLimit s t) }

/-- ACKMAP: reads CMAP.VER at its home (R170), once every earlier access can leave its queue; it then retires, records the value
as acknowledged, and returns it (R330). -/
def execAckmap (d : BitVec 6) (s : State) : Host.Outcome State Fault Refusal :=
  retire s 1 (
    let x := s.core.cur
    match (s.cx x).ackrd with
    | some (v, t) => .done ((s.modCx x (·.ackRetire s v t)).setReg d v)
    | none =>
      if hazard s [d] [] || !canLeave (s.cx x) then .wait 15
      else .stay (waitFor (s.modCx x fun c => { c.allLeft with ackrd := some (mapVer s, none) }) 15))

/-! ### CBAR (R121) -/

/-- CBAR: its accesses are performed, the member reaches the rendezvous, and it retires when that has completed (R121). -/
def execCbar (s : State) : Host.Outcome State Fault Refusal :=
  retire s 1 (
    let x := s.core.cur
    let c := s.cx x
    let n := c.cbar + 1
    match ctxTask s x with
    | none => .done s
    | some t =>
      if !c.allDone then .wait 15
      else
        let k := clusterOf s (lcore s)
        let s' := rendezvous (modTask s t.id fun t => { t with cbar := max t.cbar n }) t.lid k
        if n ≤ cbarDone s' t.lid k then .done (s'.modCx x ({ · with cbar := n }))
        else .stay (waitFor s' 15))

end Sys2Proof.Machine
end

