-- ==== Sys2Proof/Machine/Entry.lean ====
section
/-! DEFINITION. Entries on their engines in common: the head (R35, R201), the start (R39, R116, R378, R379, R416 to
R418), a started entry's record, and the completion (R40, R339). -/
namespace Sys2Proof.Machine

open Bits

/-! ### The head of a queue (R35, R37, R201) -/

/-- What an engine finds at the head of a queue: nothing; a read that is held (R99); a fault of the read, with the address that it
read and the LINKs followed; the last of 256 LINKs in a row (R395); or an entry: its address, its 64 bytes, and the LINKs followed. -/
inductive Head where
  | empty
  | held
  | fault (f : Flt) (va : VAddr) (links : List VAddr)
  | endless (last : VAddr)
  | entry (va : VAddr) (d : List Byte) (links : List VAddr)

/-- The bytes of an entry that the engines of context `x` read at `va` (R108, R389, R409). -/
def entryBytes (s : State) (x : CtxId) (va : VAddr) : Except Flt (List Byte) :=
  match unitCheck s x 5 va with
  | .error f => .error f
  | .ok t =>
    match poisonAt s t.pa.toNat 64 with
    | some u => .error ⟨0x30, uceVal (va + BitVec.ofNat 56 (8 * u) - BitVec.ofNat 56 t.pa.toNat) (rasUnit s (8 * u))⟩
    | none => .ok (homeBytes s t.pa.toNat 64)

/-- CODE of an entry (R38). -/
def entryCode (d : List Byte) : Nat := dfield d 0 1

/-- The header of an entry (R38). -/
def entryHdr (d : List Byte) : Word := BitVec.ofNat 64 (dfield d 0 8)

/-- Follow LINK entries from `va`, at most `n` of them (R35); `stop` says where the queue ends. The 256th LINK in a row
faults as it is met, whatever it leads to (entry 105). -/
def follow (s : State) (x : CtxId) (stop : VAddr → Bool) : Nat → VAddr → List VAddr → Head
  | n, va, ls =>
    if stop va then .empty
    else match entryBytes s x va with
    | .error f => if f = heldFlt then .held else .fault f va ls
    | .ok d =>
      if entryCode d ≠ 0xFF then .entry va d ls
      else match n with
      | 0 => .endless va
      | k + 1 => follow s x stop k (BitVec.ofNat 56 (dfield d 16 8)) (ls ++ [va])

/-- The head of engine `e`'s queue for context `x`: the next chain entry, or the next ring entry (R35, R201). -/
def headOf (s : State) (x : CtxId) (e : Eng) : Head :=
  let q := s.eq x e
  match q.chain with
  | some c => if c.left = 0 then .empty else follow s x (fun _ => false) 255 c.addr []
  | none => if q.pend.isEmpty && q.atTail then .empty
            else follow s x (fun va => q.pend.isEmpty && va == ringAddr q q.qtail) 255 (va56 q.qhead) []

/-- The append record of a ring entry at `va` (R37). -/
def pendAt (q : EngQ) (va : VAddr) : Option Pend :=
  if q.chain.isSome then none else q.pend.head?.filter fun p => ringAddr q p.slot == va

/-- The number of an entry at the head (R37, R201). -/
def headSeq (q : EngQ) (va : VAddr) (d : List Byte) : Word :=
  match q.chain with
  | some c => c.seq
  | none => match pendAt q va with | some p => p.seq | none => BitVec.ofNat 64 (dfield d 8 8)

/-! ### Whether it may start (R33, R39, R116) -/

/-- The context's engines may start entries: it is not stopped, saved or held, and the core is on (R289, R297, R333,
R353). -/
def mayGo (s : State) (x : CtxId) (e : Eng) : Bool :=
  let c := s.cx x
  s.core.gate == .on && !c.line && !c.halted && c.saving.isNone && !(c.eq e).stop

/-- The engines that a SYNC word pops (R39). -/
def popsOf (w : BitVec 16) : List Nat := ([fldN w 0 4, fldN w 4 4, fldN w 8 4]).filter (decide <| · < 7)

/-- The flags of R337 that keep the tokens of a header from an entry on engine `e` (R39). -/
def tokenFlags (c : Ctx) (e : Eng) (w : BitVec 16) : List Nat :=
  ((popsOf w).filter fun p => decide (c.tokens p (engNum e) < (popsOf w).count p)) ++
    (if fldN w 12 4 < 7 ∧ 15 ≤ c.tokens (engNum e) (fldN w 12 4) then [7] else [])

/-- The lowest-numbered of some flags (R336). -/
def lowestFlag (l : List Nat) : Option Nat := l.min?

/-- The accesses that an append follows are performed (R116). -/
def releasedBy (c : Ctx) (p : Option Pend) : Bool :=
  match p with | none => true | some p => c.acc.all fun a => decide (p.rel ≤ a.id) || a.done

/-! ### The checks of the header (R378, R379) -/

/-- Codes of an engine's entries (R182, R188, R190, R231, R234, R270). -/
def codesOf (e : Eng) : List Nat :=
  match e with
  | .seq => []
  | .mxe => [0, 1, 0x10]
  | .vxe => [0, 1, 2, 3, 4]
  | .cpe => [0, 1, 2, 3, 4, 5, 6, 7]
  | .gxe => [0, 1, 2, 3]
  | .opp => [0, 1, 2]
  | .clp => [0, 1, 2, 3]

/-- The shadow set that an MXE entry names is BUSY with a nest committed for it (R223, R378). -/
def shadowOk (c : Ctx) (seq : Word) (b40 : Nat) : Bool :=
  decide (b40 < 8) && (match c.shadow.toList.getD b40 none with | some (_, n) => n == seq | none => false)

/-- The fault of an entry's header, when it has one (R378, R379). -/
def headerFault (c : Ctx) (e : Eng) (chain : Bool) (seq : Word) (d : List Byte) : Option Flt :=
  let h := entryHdr d
  let code := entryCode d
  if fld h 56 8 ≠ 0 ∨ 64 ≤ fldN h 48 8 ∨ fldN h 8 3 ≠ engNum e ∨ (chain ∧ (0x80 ≤ code ∨ bit h 11 ≠ c.world)) ∨
      0x80 ≤ code ∨ !(codesOf e).contains code ∨ (e = .mxe ∧ code = 0 ∧ !shadowOk c seq (dfield d 40 1)) then some ⟨0x01, h⟩
  else if syncBad e (fld h 12 16) then some ⟨0x07, h⟩
  else none

/-- The fault of a held link's header (R378, R379). -/
def linkFault (d : List Byte) : Option Flt :=
  let h := entryHdr d
  if fld h 56 8 ≠ 0 ∨ 64 ≤ fldN h 48 8 ∨ fldN h 8 3 ≠ 3 then some ⟨0x01, h⟩
  else if syncBad .cpe (fld h 12 16) then some ⟨0x07, h⟩
  else none

/-! ### Whether the head may start -/

/-- What keeps the head from starting, as the lowest-numbered flag (R336): none when it may start. 15 stands for no flag of its
own. `ready` is the engine's own interlock on the entry's bytes (R214, R224, R241). -/
def headFlag (ready : State → CtxId → List Byte → Option Nat) (s : State) (x : CtxId) (e : Eng) : Option Nat :=
  let c := s.cx x
  let q := c.eq e
  let go := if mayGo s x e then [] else [15]
  if q.run.isSome then some 15
  else match headOf s x e with
  | .empty | .held => some 15
  | .fault _ _ _ | .endless _ => lowestFlag go
  | .entry va d _ =>
    let rel := (if releasedBy c (pendAt q va) then [] else [15]) ++ go
    let w : BitVec 16 := fld (entryHdr d) 12 16
    if e = .cpe ∧ q.chain.isNone ∧ entryCode d = 0xFE then
      (if (linkFault d).isSome then lowestFlag go else lowestFlag ((if c.kick = 0 then [13] else []) ++ rel))
    else if syncBad e w then lowestFlag go
    else lowestFlag (tokenFlags c e w ++ (ready s x d).toList ++ rel)

/-! ### Starting an entry (R39, R416 to R418) -/

/-- Two byte ranges overlap. -/
def rangesMeet (a n b m : Nat) : Bool := decide (0 < n) && decide (0 < m) && decide (a < b + m) && decide (b < a + n)

/-- An entry takes its pops (R39). -/
def takePops (c : Ctx) (e : Eng) (w : BitVec 16) : Ctx :=
  (popsOf w).foldl (fun c p => c.setTokens p (engNum e) (c.tokens p (engNum e) - 1)) c

/-- The started entry of an engine. -/
def State.run (s : State) (x : CtxId) (e : Eng) : Option Run := (s.eq x e).run

/-- Change the started entry. -/
def State.modRun (s : State) (x : CtxId) (e : Eng) (f : Run → Run) : State :=
  s.modEq x e fun q => { q with run := q.run.map f }

/-- NR is set in the header, in memory too (R418). -/
def setNr (s : State) (x : CtxId) (e : Eng) : State :=
  match s.run x e with
  | none => s
  | some r =>
    let h := setFld r.hdr 29 1#1
    let s := s.modRun x e ({ · with hdr := h })
    let s := s.modEq x e fun q => { q with window := q.window.map fun k => if k.seq = r.seq then { k with nr := true } else k }
    match engWrite s x e r.seq r.addr (toBytes h 8) with | .error f => unitFault s x e f | .ok s => s

/-- The run that a head entry becomes. -/
def newRun (s : State) (q : EngQ) (va : VAddr) (d : List Byte) : Run :=
  { seq := headSeq q va d, hdr := entryHdr d, addr := va, a := BitVec.ofNat 64 (dfield d 16 8),
    b := BitVec.ofNat 64 (dfield d 24 8), c := BitVec.ofNat 64 (dfield d 32 8), b40 := BitVec.ofNat 8 (dfield d 40 1),
    prog := 0, cycle := s.core.cycle, stroke := now s, done := false, waits := false, begun := false, fault := none,
    early := false, posts := [], fmtst := 0, accf := 0, sync := fld (entryHdr d) 12 16, npdone := false, rebuilt := 0, pend := pendAt q va, x := .plain }

/-- The entry takes its place in the window (R416, R417): TSM = 1, or a forced point, empties it first. -/
def windowAdd (q : EngQ) (r : Run) : EngQ :=
  let tsm := bit r.hdr 28
  let fresh := tsm || q.forced || decide (16 ≤ q.window.length)
  { q with window := (if fresh then [] else q.window) ++
             [⟨r.seq, tsm, bit r.hdr 29, r.pend.map (·.slot), false, none, [],
               if fldN r.hdr 8 3 = 1 ∧ fldN r.hdr 0 8 = 1 then some (fld r.a 0 5) else none⟩], forced := false }

/-- The head moves past the entry it starts (R201, R416). Until the next start QHEAD keeps the address after it, also where
a LINK stands there (entry 105). -/
def moveHead (q : EngQ) (r : Run) (ls : List VAddr) : EngQ :=
  match q.chain with
  | some c => { q with chain := some { c with left := c.left - 1, addr := r.addr + 64, seq := c.seq + 1, links := c.links ++ ls },
                       qhead := (if c.left = 1 then c.ret else r.addr + 64).setWidth 64 }
  | none => { q with qhead := (r.addr + 64).setWidth 64
                     pend := (q.pend.filter fun p => !ls.contains (ringAddr q p.slot)).drop (if r.pend.isSome then 1 else 0) }

/-- A held link takes a kick (R201): its chain begins. -/
def takeLink (s : State) (x : CtxId) (va : VAddr) (d : List Byte) : State :=
  let q := s.eq x .cpe
  let n := dfield d 24 8
  let a := BitVec.ofNat 56 (dfield d 16 8)
  let c : Chain := { link := va, left := n, addr := a, seq := headSeq q va d, ret := va + 64, base := a, count := n, links := [] }
  (s.modCx x fun c => { c with kick := c.kick - 1 }).modEq x .cpe fun q => { q with chain := some c, qhead := (if n = 0 then va + 64 else a).setWidth 64 }

/-- The head fails before it takes its pops or reserves its push (R369), or cannot be read (R351, R364): it becomes a faulted entry
that holds none. -/
def failHead (s : State) (x : CtxId) (e : Eng) (va : VAddr) (d : List Byte) (ls : List VAddr) (f : Flt) : State :=
  let r := { newRun s (s.eq x e) va d with sync := 0xFFFF, early := true }
  unitFault (s.modEq x e fun q => { moveHead q r ls with run := some r }) x e f

/-- A chain entry's bytes 8 to 15 receive its number, as an engine write (R201). -/
def numberChain (s : State) (x : CtxId) (e : Eng) (va : VAddr) (seq : Word) : Except Flt State :=
  if (s.eq x e).chain.isSome then engWrite s x e seq (va + 8) (toBytes seq 8) else .ok s

/-- The head entry starts (R39): its header is checked (R369), pops are taken, the head moves, a forced point or TSM starts the
window anew. Its other checks come with its first unit of work. -/
def startHead (s : State) (x : CtxId) (e : Eng) : State :=
  let q := s.eq x e
  match headOf s x e with
  | .empty | .held => s
  | .fault f va ls => failHead s x e va [] ls f
  | .endless va => let f := queueFlt 5 va; takeTrap s x ⟨f.cause, BitVec.ofNat 3 (engNum e), false, 0, f.val⟩
  | .entry va d ls =>
    if e = .cpe ∧ q.chain.isNone ∧ entryCode d = 0xFE then
      match linkFault d with | some f => failHead s x e va d ls f | none => takeLink s x va d
    else
      let r := newRun s q va d
      match headerFault (s.cx x) e q.chain.isSome r.seq d with
      | some f => failHead s x e va d ls f
      | none => match numberChain s x e va r.seq with
        | .error f => failHead s x e va d ls f
        | .ok s =>
          let s := s.modCx x (takePops · e r.sync)
          let s := s.modEq x e fun q => { windowAdd (moveHead q r ls) r with run := some r }
          let s := s.modCx x ({ · with hbeat := now s })
          if bit r.hdr 31 || (match q.chain with | some c => decide (16 < c.count) | none => false) then setNr s x e else s

/-- An engine that executes one entry at a time (R224, R241). -/
def oneAtATime (e : Eng) : Bool := e == .mxe || e == .vxe

/-- The entry of context `y` on engine `e` goes on: it has not faulted, does not wait on an interlock, and no halt line has stopped
it. -/
def goesOn (s : State) (e : Eng) (y : CtxId) : Bool :=
  (s.run y e).any (fun r => r.fault.isNone && (r.begun || !r.waits)) && !(s.eq y e).stop && !(s.cx y).line

/-- Engine `e` is free for context `x`: no other context's entry is in execution, where it executes one at a time (R224,
R241). -/
def engineFree (s : State) (x : CtxId) (e : Eng) : Bool :=
  !oneAtATime e || (match s.core.busy.toList.getD (engNum e) none with
    | none => true
    | some y => y == x || !goesOn s e y)

/-- Engine `e` executes the entry of context `x`. -/
def takeEngine (s : State) (x : CtxId) (e : Eng) : State :=
  s.modCore fun k => { k with busy := k.busy.setIfInBounds (engNum e) (some x) }

/-- Context `x` has its turn on engine `e` (R39): no context before it in the rotation could start, and the engine is
free where it executes one entry at a time. -/
def hasTurn (ready : State → CtxId → List Byte → Option Nat) (s : State) (x : CtxId) (e : Eng) : Bool :=
  let last := s.core.rot.toList.getD (engNum e) 0
  let order := (List.range 4).map fun i => Fin.ofNat 4 (last.val + 1 + i)
  engineFree s x e && (order.takeWhile (· != x)).all fun y => (headFlag ready s y e).isSome

/-- The sections that hold the entry at the head, and the LINKs before it, are made the launch's before they are read (R92). -/
def headSections (s : State) (x : CtxId) (e : Eng) : Nat → VAddr → State
  | 0, _ => s
  | n + 1, va =>
    match unitCheck s x 5 va with
    | .error _ => s
    | .ok t =>
      let u := (sectionFor s x t.pa.toNat).1
      match entryBytes u x va with
      | .error _ => u
      | .ok d => if entryCode d = 0xFF then headSections u x e n (BitVec.ofNat 56 (dfield d 16 8)) else u

/-- The sections of the head of engine `e`, when its queue is not empty. -/
def seeHead (s : State) (x : CtxId) (e : Eng) : State :=
  let q := s.eq x e
  if q.run.isSome || !mayGo s x e then s
  else match q.chain with
  | some c => if c.left = 0 then s else headSections s x e 256 c.addr
  | none => if q.pend.isEmpty && q.atTail then s else headSections s x e 256 (va56 q.qhead)

/-- The head of `x` on engine `e` starts when it may (R39). -/
def tryStart (ready : State → CtxId → List Byte → Option Nat) (s : State) (x : CtxId) (e : Eng) : State :=
  if (headFlag ready s x e).isNone && hasTurn ready s x e then
    takeEngine ((startHead s x e).modCore fun k => { k with rot := k.rot.setIfInBounds (engNum e) x }) x e
  else s

/-! ### The checks at the start -/

/-- The WORLD bit of the started entry, with which its accesses are made (R180). -/
def withWorld (s : State) (x : CtxId) (e : Eng) (f : State → State) : State :=
  (f (s.modCore ({ · with asWorld := (s.run x e).map fun r => bit r.hdr 11 }))).modCore ({ · with asWorld := none })

/-- The entry is read again and its header checked (R378, R379); `chk` are the checks of its own chapter, which may also
change comb and bank state. -/
def beginRun (chk : State → CtxId → Run → Except Flt State) (s : State) (x : CtxId) (e : Eng) : State :=
  match s.run x e with
  | none => s
  | some r =>
    if r.begun then s
    else
      match engReadAll s x true r.addr 64 with
      | .error f => unitFault s x e f
      | .ok (s, d) =>
        match headerFault (s.cx x) e (s.eq x e).chain.isSome r.seq d with
        | some f => entryFault s x e f
        | none =>
          let q := s.eq x e
          let f := newRun s q r.addr d
          let r := { r with hdr := f.hdr ||| (r.hdr &&& ones 29 29), a := f.a, b := f.b, c := f.c, b40 := f.b40 }
          withWorld (s.modRun x e fun _ => r) x e fun s =>
            match chk s x r with
            | .error f => unitFault s x e f
            | .ok s => s.modRun x e ({ · with begun := true, waits := false })

/-- The engine may work on its entry: the line has not stopped it, and no fault holds it (R354, R360). -/
def mayWork (s : State) (x : CtxId) (e : Eng) : Bool :=
  s.core.gate == .on && !(s.eq x e).stop && !(s.cx x).line && (match s.run x e with | none => false | some r => r.fault.isNone && !r.done)

/-! ### Completion (R40, R339) -/

/-- The trace record of a completed entry (R339). -/
def traceRecord (s : State) (x : CtxId) (e : Eng) (r : Run) : State :=
  let tr := ctl s 0x800060
  if bit tr 32 && bit tr (24 + engNum e - 1) && (!bit tr 16 || fld tr 0 16 == (s.cx x).lid) then
    let p := ctl s 0x800078
    let a := fldN p 5 47 * 32
    let s := mgmtStore s a (toBytes (entryName s x (engNum e) r.seq) 8 ++ toBytes r.stroke 8 ++ toBytes (now s) 8 ++
      [fld r.hdr 0 8] ++ List.replicate 7 0)
    let p := p + 32
    let s := setCtl s 0x800078 p
    if p.toNat = fldN (ctl s 0x800070) 5 47 * 32 then setCtl s 0x800060 ((tr &&& ~~~(ones 32 32)) ||| ones 33 33) else s
  else s

/-- The chain of a held link ends with its last entry (R201). -/
def endChain (q : EngQ) : EngQ :=
  match q.chain with
  | some c => if c.left = 0 then
      { q with chain := none, pend := q.pend.filter fun p => ringAddr q p.slot != c.link } else q
  | none => q

/-- Steps 1 to 3 of R40, and the flags of R75 and R218 that an entry sets as it completes. -/
def finishEntry (s : State) (x : CtxId) (e : Eng) : State :=
  match s.run x e with
  | none => s
  | some r =>
    let s := if e = .cpe then flushHits s x else s
    let push := fldN r.sync 12 4
    let treg : BitVec 6 := fld r.hdr 48 6
    let s := s.modEq x e fun q => endChain { q with
      qseq := r.seq, run := none, window := q.window.map fun k => if k.seq = r.seq then { k with done := true } else k }
    let s := s.modCx x fun c =>
      let c := if push < 7 then c.setTokens (engNum e) push (min 15 (c.tokens (engNum e) push + 1)) else c
      let c := if treg = 0 ∨ 64 ≤ fldN r.hdr 48 8 then c
               else { c.setReg treg r.seq with tkpend := setFld c.tkpend treg.toNat 0#1 }
      { c with fmtst := c.fmtst ||| r.fmtst, accf := c.accf ||| r.accf, hbeat := now s }
    traceRecord s x e r

end Sys2Proof.Machine
end

