-- ==== Sys2Proof/Machine/Num.lean ====
section
/-! DEFINITION. Number formats (R59 to R67), exact values, rounding and saturation (R70 to R74), exact arithmetic with
the rules of IEEE 754-2019 (R76), block-scale choice (R193), and the correctly rounded functions (R245, R257). -/
namespace Sys2Proof.Machine

open Bits

/-! ### Exact values -/

/-- A value that a pattern denotes: NaN, an infinity, or (−1)^neg · m · 2^e. -/
inductive Num where
  | nan
  | inf (neg : Bool)
  | fin (neg : Bool) (m : Nat) (e : Int)
deriving DecidableEq, Repr

/-- Positive zero. -/
def Num.zero : Num := .fin false 0 0

/-- An integer as a value. -/
def Num.ofInt (i : Int) : Num := .fin (decide (i < 0)) i.natAbs 0

/-- The signed integer m · 2^(e − b) of a finite value, for b ≤ e. -/
def scaledInt (neg : Bool) (m : Nat) (e b : Int) : Int :=
  let v : Int := (m : Int) * 2 ^ (e - b).toNat
  if neg then -v else v

/-- −a; a NaN stays NaN. -/
def Num.neg : Num → Num
  | .nan => .nan
  | .inf s => .inf !s
  | .fin s m e => .fin (!s) m e

/-- |a|. -/
def Num.abs : Num → Num
  | .nan => .nan
  | .inf _ => .inf false
  | .fin _ m e => .fin false m e

/-- The sign of a value; NaN counts as positive. -/
def Num.sign : Num → Bool
  | .nan => false
  | .inf s => s
  | .fin s _ _ => s

/-- a + b (R76); an exact zero sum is −0 only when both terms are −0. -/
def Num.add : Num → Num → Num
  | .nan, _ => .nan
  | _, .nan => .nan
  | .inf s, .inf t => if s = t then .inf s else .nan
  | .inf s, _ => .inf s
  | _, .inf t => .inf t
  | .fin s m e, .fin t n f =>
    if m = 0 ∧ n = 0 then .fin (s && t) 0 0
    else if m = 0 then .fin t n f
    else if n = 0 then .fin s m e
    else
      let b := min e f
      let v := scaledInt s m e b + scaledInt t n f b
      if v = 0 then .zero else .fin (decide (v < 0)) v.natAbs b

/-- a − b. -/
def Num.sub (a b : Num) : Num := a.add b.neg

/-- a · b. -/
def Num.mul : Num → Num → Num
  | .nan, _ => .nan
  | _, .nan => .nan
  | .inf s, .inf t => .inf (s != t)
  | .inf s, .fin t n _ => if n = 0 then .nan else .inf (s != t)
  | .fin s m _, .inf t => if m = 0 then .nan else .inf (s != t)
  | .fin s m e, .fin t n f => if m = 0 ∨ n = 0 then .fin (s != t) 0 0 else .fin (s != t) (m * n) (e + f)

/-- a · 2^k. -/
def Num.scale (k : Int) : Num → Num
  | .fin s m e => if m = 0 then .fin s 0 0 else .fin s m (e + k)
  | a => a

/-- Comparison; none when unordered, −0 equal to +0. -/
def Num.cmp : Num → Num → Option Ordering
  | .nan, _ => none
  | _, .nan => none
  | .inf s, .inf t => some (if s = t then .eq else if s then .lt else .gt)
  | .inf s, .fin _ _ _ => some (if s then .lt else .gt)
  | .fin _ _ _, .inf t => some (if t then .gt else .lt)
  | .fin s m e, .fin t n f =>
    let b := min e f
    some (compare (scaledInt s m e b) (scaledInt t n f b))

/-- a < b. -/
def Num.lt (a b : Num) : Bool := a.cmp b == some .lt

/-- The IEEE 754-2019 minimum or maximum (R245): NaN propagates, −0 is below +0. -/
def Num.pick (big : Bool) (a b : Num) : Num :=
  match a.cmp b with
  | none => .nan
  | some .eq => if a.sign = !big then a else b
  | some .lt => if big then b else a
  | some .gt => if big then a else b

/-- The integer square root. -/
def isqrt (n : Nat) : Nat := go (n.log2 / 2 + 1) 0
where
  /-- Bits from `k − 1` down, over the root found so far. -/
  go : Nat → Nat → Nat
    | 0, r => r
    | k + 1, r => if (r + 2 ^ k) ^ 2 ≤ n then go k (r + 2 ^ k) else go k r

/-- The guard width of a quotient or root: far below any rounding point, with a sticky unit under it. -/
def guardBits : Nat := 160

/-- n / d as a value with a sticky last unit, for nonzero n and d. -/
def quotient (s : Bool) (n : Nat) (d : Nat) (e : Int) : Num :=
  let k := guardBits + d.log2
  let q := n * 2 ^ k / d
  .fin s (2 * q + (if n * 2 ^ k % d = 0 then 0 else 1)) (e - k - 1)

/-- a / b (R245): a nonzero value by zero is an infinity. -/
def Num.div : Num → Num → Num
  | .nan, _ => .nan
  | _, .nan => .nan
  | .inf _, .inf _ => .nan
  | .inf s, .fin t _ _ => .inf (s != t)
  | .fin s _ _, .inf t => .fin (s != t) 0 0
  | .fin s m e, .fin t n f =>
    if n = 0 then (if m = 0 then .nan else .inf (s != t))
    else if m = 0 then .fin (s != t) 0 0
    else quotient (s != t) m n (e - f)

/-- The root of m · 2^e with a sticky last unit. -/
def rootOf (m : Nat) (e : Int) : Num :=
  let m' := if e % 2 = 0 then m else 2 * m
  let e' := if e % 2 = 0 then e else e - 1
  let n := m' * 2 ^ (2 * guardBits)
  let q := isqrt n
  .fin false (2 * q + (if q * q = n then 0 else 1)) (e' / 2 - guardBits - 1)

/-- √a (R245): √−0 is −0. -/
def Num.sqrt : Num → Num
  | .nan => .nan
  | .inf s => if s then .nan else .inf false
  | .fin s m e => if m = 0 then .fin s 0 0 else if s then .nan else rootOf m e

/-- 1 / √(m · 2^e) with a sticky last unit. -/
def invRootOf (m : Nat) (e : Int) : Num :=
  let m' := if e % 2 = 0 then m else 2 * m
  let e' := if e % 2 = 0 then e else e - 1
  let k := guardBits + m'.log2
  let n := 2 ^ (2 * k)
  let q := isqrt (n / m')
  .fin false (2 * q + (if q * q * m' = n then 0 else 1)) (-(k : Int) - e' / 2 - 1)

/-- 1/√a (R245): of ±0 it is the infinity of that sign. -/
def Num.rsqrt : Num → Num
  | .nan => .nan
  | .inf s => if s then .nan else .zero
  | .fin s m e => if m = 0 then .inf s else if s then .nan else invRootOf m e

/-- A value cut at unit 2^u: the integer part, and the rest as a numerator over a denominator (R71). -/
def cutAt (m : Nat) (e u : Int) : Nat × Nat × Nat :=
  if u ≤ e then (m * 2 ^ (e - u).toNat, 0, 1)
  else let d := 2 ^ (u - e).toNat; (m / d, m % d, d)

/-- Round the magnitude q + r/d of units (R70, R71), with the draw `g` for SR. -/
def roundUnit (rm : BitVec 2) (g q r d : Nat) : Nat :=
  match rm.toNat with
  | 0 => if d < 2 * r ∨ (2 * r = d ∧ q % 2 = 1) then q + 1 else q
  | 1 => if 2 ^ 32 ≤ r * 2 ^ 32 / d + g then q + 1 else q
  | _ => q

/-- a rounded to an integral value (R245, VRINT); the sign of a zero is that of a. -/
def Num.integral (rm : BitVec 2) (g : Nat) : Num → Num
  | .fin s m e => let (q, r, d) := cutAt m e 0; .fin s (roundUnit rm g q r d) 0
  | a => a

/-- The largest integral value ≤ a (R245, VFLOOR). -/
def Num.floor : Num → Num
  | .fin s m e => let (q, r, _) := cutAt m e 0; .fin s (if s && r != 0 then q + 1 else q) 0
  | a => a

/-! ### Formats (R60, R62) -/

/-- A floating-point format: exponent and mantissa bits, bias, infinities, largest finite and NaN patterns. -/
structure FloatFmt where
  eb   : Nat
  mb   : Nat
  bias : Int
  inf  : Bool
  max  : Nat
  nan  : Option Nat
deriving DecidableEq, Repr

/-- The floating-point formats by code (R60, R61). -/
def floatFmt (f : Nat) : Option FloatFmt :=
  match f with
  | 1 => some ⟨8, 23, 127, true, 0x7F7FFFFF, some 0x7FC00000⟩
  | 2 => some ⟨8, 7, 127, true, 0x7F7F, some 0x7FC0⟩
  | 3 => some ⟨5, 10, 15, true, 0x7BFF, some 0x7E00⟩
  | 4 => some ⟨11, 52, 1023, true, 0x7FEFFFFFFFFFFFFF, some 0x7FF8000000000000⟩
  | 5 => some ⟨4, 3, 7, false, 0x7E, some 0x7F⟩
  | 6 => some ⟨5, 2, 15, true, 0x7B, some 0x7E⟩
  | 7 => some ⟨2, 1, 1, false, 7, none⟩
  | _ => none

/-- Bits of an element (R59, R60, R62). -/
def fmtWidth (f : Nat) : Nat :=
  match f with
  | 1 | 11 | 13 => 32
  | 4 | 14 => 64
  | 2 | 3 | 12 => 16
  | 5 | 6 | 8 => 8
  | _ => 4

/-- Elements of a register in a format (R59). -/
def fmtCount (f : Nat) : Nat := 2048 / fmtWidth f

/-- The part format of a complex format (R62). -/
def partOf (f : Nat) : Option Nat :=
  match f with | 12 => some 8 | 13 => some 2 | 14 => some 1 | _ => none

/-- The range of an integer format (R62). -/
def intRange (f : Nat) : Option (Int × Int) :=
  match f with | 8 => some (-128, 127) | 9 => some (-7, 7) | 11 => some (-2147483648, 2147483647) | _ => none

/-- The value of a floating-point pattern (R60). -/
def FloatFmt.decode (p : FloatFmt) (b : Nat) : Num :=
  let s : Bool := b / 2 ^ (p.eb + p.mb) % 2 == 1
  let e := b / 2 ^ p.mb % 2 ^ p.eb
  let m := b % 2 ^ p.mb
  if p.inf ∧ e = 2 ^ p.eb - 1 then (if m = 0 then .inf s else .nan)
  else if p.nan = some (b % 2 ^ (p.eb + p.mb)) then .nan
  else if e = 0 then .fin s m (1 - p.bias - p.mb)
  else .fin s (m + 2 ^ p.mb) ((e : Int) - p.bias - p.mb)

/-- A pattern as a two's-complement integer of `w` bits. -/
def intOf (w b : Nat) : Int := (BitVec.ofNat w b).toInt

/-- The low `w` bits of an integer. -/
def wrapInt (w : Nat) (i : Int) : Nat := (BitVec.ofInt w i).toNat

/-- Entry `i` of a codebook table (R64, R230). -/
def cbEntry (cb : BitVec 256) (i : Nat) : Num := (FloatFmt.mk 8 7 127 true 0x7F7F (some 0x7FC0)).decode (fldN cb (16 * i) 16)

/-- The value of a real element (R60, R62 to R64); `cb` is the codebook table of the tag. -/
def decodeReal (cb : BitVec 256) (f b : Nat) : Num :=
  match floatFmt f with
  | some p => p.decode b
  | none =>
    if f = 10 then cbEntry cb b
    else if f = 9 ∧ b = 8 then .zero
    else Num.ofInt (intOf (fmtWidth f) b)

/-- The value of an element: real part, and imaginary part for a complex format (R59, R62). -/
def decodeElem (cb : BitVec 256) (f b : Nat) : Num × Num :=
  match partOf f with
  | some p => let w := fmtWidth p; (decodeReal cb p (b % 2 ^ w), decodeReal cb p (b / 2 ^ w))
  | none => (decodeReal cb f b, .zero)

/-! ### Rounding into a format (R71, R74) -/

/-- A result pattern with its sign. -/
def FloatFmt.signed (p : FloatFmt) (neg : Bool) (b : Nat) : Nat := if neg then b + 2 ^ (p.eb + p.mb) else b

/-- The result of an overflow, or of an infinite value where `inf` says so (R74). -/
def FloatFmt.excess (p : FloatFmt) (neg inf : Bool) (rm : BitVec 2) (sat : Bool) : Nat × BitVec 3 :=
  if sat || p.nan.isNone then (p.signed neg p.max, fSat)
  else if !p.inf then (p.nan.getD 0, 0)
  else if !inf && rm == 2 then (p.signed neg p.max, fSat)
  else (p.signed neg ((2 ^ p.eb - 1) * 2 ^ p.mb), 0)

/-- Round and saturate into a floating-point format, with the draw `g` of SR: the pattern and the flags of CTX.FMTST. -/
def FloatFmt.round (p : FloatFmt) (rm : BitVec 2) (sat : Bool) (g : Nat) : Num → Nat × BitVec 3
  | .nan => match p.nan with | some n => (n, 0) | none => (0, fNanz)
  | .inf s => p.excess s true rm sat
  | .fin s m e =>
    if m = 0 then (p.signed s 0, 0)
    else
      let emin := 1 - p.bias
      let u : Int := Max.max ((m.log2 : Int) + e) emin - p.mb
      let (q, r, d) := cutAt m e u
      let b := (u - (emin - p.mb)).toNat * 2 ^ p.mb + roundUnit rm g q r d
      if p.max < b then p.excess s false rm sat else (p.signed s b, 0)

/-- Clamp an integer to a range; the flag when it changes. -/
def clampInt (lo hi i : Int) : Int × BitVec 3 := if i < lo then (lo, fSat) else if hi < i then (hi, fSat) else (i, 0)

/-- Round and clamp into an integer format (R74). -/
def roundInt (f : Nat) (r : Int × Int) (rm : BitVec 2) (g : Nat) : Num → Nat × BitVec 3
  | .nan => (0, fNanz)
  | .inf s => (wrapInt (fmtWidth f) (if s then r.1 else r.2), fSat)
  | .fin s m e =>
    let (q, t, d) := cutAt m e 0
    let n : Int := (roundUnit rm g q t d : Nat)
    let (v, fl) := clampInt r.1 r.2 (if s then -n else n)
    (wrapInt (fmtWidth f) v, fl)

/-- The distance of two values; none when there is none. -/
def distance (a b : Num) : Option Num := if a = b then some .zero else match (a.sub b).abs with | .nan => none | d => some d

/-- The nearest codebook entry (R64): a tie goes to the lower index; NaN gives index 0. An entry that is NaN is never the
nearest, and index 0 results where every entry is (entry 45). -/
def nearest (cb : BitVec 256) (x : Num) : Nat × BitVec 3 :=
  if x = .nan then (0, fNanz)
  else
    (((List.range 16).foldl (fun (r : Option (Nat × Num)) i =>
      match distance x (cbEntry cb i), r with
      | none, _ => r
      | some d, none => some (i, d)
      | some d, some (j, c) => if d.lt c then some (i, d) else some (j, c)) none).map (·.1) |>.getD 0, 0)

/-- Round a real value into format `f` (R71, R74); codebook indices by R64. -/
def roundReal (cb : BitVec 256) (f : Nat) (rm : BitVec 2) (sat : Bool) (g : Nat) (x : Num) : Nat × BitVec 3 :=
  match floatFmt f with
  | some p => p.round rm sat g x
  | none => match intRange f with
    | some r => roundInt f r rm g x
    | none => nearest cb x

/-- Round under RNE without saturation. -/
def rne (f : Nat) (x : Num) : Nat := (roundReal 0 f 0 false 0 x).1

/-- x rounded to FP32 under RNE, as a value. -/
def rne32 (x : Num) : Num := decodeReal 0 1 (rne 1 x)

/-! ### Scales (R67, R193) -/

/-- An E8M0 scale: none for NaN, otherwise the exponent (R67). -/
def e8m0 (b : Nat) : Option Int := if b = 255 then none else some ((b : Int) - 127)

/-- A tensor scale: a positive finite FP32 number, or none (R67). -/
def tensorScale (b : BitVec 32) : Option Num :=
  match decodeReal 0 1 b.toNat with
  | .fin false m e => if m = 0 then none else some (.fin false m e)
  | _ => none

/-- A value under a block scale and a tensor scale (R67). -/
def scaleVal (bs : Option Nat) (ts : Option (BitVec 32)) (x : Num) : Num :=
  match (match bs with | none => some 0 | some b => e8m0 b) with
  | none => .nan
  | some k => match ts with
    | none => x.scale k
    | some t => match tensorScale t with | none => .nan | some v => (x.scale k).mul v

/-- The largest finite value of a target of R193 or R250: 7 for INT4S, 127 for INT8. -/
def fmtMax (f : Nat) : Num :=
  match floatFmt f with
  | some p => p.decode p.max
  | none => match intRange f with | some r => Num.ofInt r.2 | none => .zero

/-- ⌈log₂(a / b)⌉ of positive values m·2^e and n·2^g. -/
def ceilLog2 (m : Nat) (e : Int) (n : Nat) (g : Int) : Int :=
  let k : Int := (m.log2 : Int) - n.log2
  -- 2^(k−1) < m/n < 2^(k+1): the least j with m ≤ n·2^j
  let le (j : Int) : Bool := if j < 0 then decide (m * 2 ^ (-j).toNat ≤ n) else decide (m ≤ n * 2 ^ j.toNat)
  (if le (k - 1) then k - 1 else if le k then k else k + 1) + (e - g)

/-- The block scale chosen for the largest magnitude of a block (R193). -/
def chooseScale (amax : Num) (f : Nat) : Nat :=
  match amax, fmtMax f with
  | .fin _ m e, .fin _ n g =>
    if m = 0 then 127 else (max 0 (min 254 (ceilLog2 m e n g + 127))).toNat
  | _, _ => 255

/-- The larger magnitude of two values; a NaN or an infinity stays. -/
def maxMag (a b : Num) : Num :=
  match a.abs, b.abs with
  | .nan, _ => .nan
  | _, .nan => .nan
  | x, y => if x.lt y then y else x

/-! ### Functions known by enclosure (R245, R257; entry 14) -/

/-- Fraction bits of the enclosures. -/
def encBits : Nat := 256
/-- 1 in fixed point. -/
def encOne : Nat := 2 ^ encBits

/-- ⌈a / b⌉. -/
def ceilDiv (a b : Nat) : Nat := (a + b - 1) / b

/-- The least root at or above √n. -/
def isqrtUp (n : Nat) : Nat := let q := isqrt n; if q * q = n then q else q + 1

/-- 2^(2^−1), 2^(2^−2), … as enclosures, `k` of them, from the enclosure of the previous one. -/
def exp2Roots : Nat → Nat × Nat → List (Nat × Nat)
  | 0, _ => []
  | k + 1, p =>
    let q := (isqrt (p.1 * encOne), isqrtUp (p.2 * encOne))
    q :: exp2Roots k q

/-- The enclosures of 2^(2^−i), i from 1. -/
def exp2Table : List (Nat × Nat) := exp2Roots encBits (2 * encOne, 2 * encOne)

/-- An enclosure of 2^(f / 2^encBits) for f below 2^encBits, in fixed point. -/
def exp2Frac (f : Nat) : Nat × Nat :=
  exp2Table.zipIdx.foldl (fun (r : Nat × Nat) e =>
    if f / 2 ^ (encBits - 1 - e.2) % 2 = 1 then (r.1 * e.1.1 / encOne, ceilDiv (r.2 * e.1.2) encOne) else r) (encOne, encOne)

/-- An enclosure of 2^x for a finite x that is no integer: fixed-point bounds and the exponent of the unit. -/
def exp2Bounds (s : Bool) (m : Nat) (e : Int) : Nat × Nat × Int :=
  -- 2^20 bounds every exponent of the formats
  let (q, r, d) := cutAt m e 0
  let k : Int := min q (2 ^ 20)
  let whole : Int := if s then -k - 1 else k
  let lo := if s then (d - r) * encOne / d else r * encOne / d
  let b := exp2Frac lo
  let up := exp2Frac (min (lo + 1) (encOne - 1))
  (b.1, max (up.2 + 1) (b.2 + 1), whole - encBits)

/-- Bits of the base-2 logarithm of y / 2^p in [1, 2), by squaring: the bits found, their number, and whether the last
were decided; bounds lo ≤ y ≤ hi. -/
def log2Bits (p : Nat) : Nat → Nat → Nat → Nat → Nat × Nat
  | 0, _, _, acc => (acc, 0)
  | k + 1, lo, hi, acc =>
    let l := lo * lo / 2 ^ p
    let h := ceilDiv (hi * hi) (2 ^ p)
    if 2 ^ (p + 1) ≤ l then log2Bits p k (l / 2) ((h + 1) / 2) (2 * acc + 1)
    else if h < 2 ^ (p + 1) then log2Bits p k l h (2 * acc)
    else (acc, k + 1)

/-- An enclosure of log₂(m·2^e) for m no power of two, as signed multiples of 2^−encBits. -/
def log2Bounds (m : Nat) (e : Int) : Int × Int :=
  let p := 2 * encBits + 128
  let y := m * 2 ^ p / 2 ^ m.log2
  let (a, left) := log2Bits p encBits y (if m * 2 ^ p % 2 ^ m.log2 = 0 then y else y + 1) 0
  let base : Int := ((m.log2 : Int) + e) * encOne
  (base + (a * 2 ^ left : Nat), base + ((a + 1) * 2 ^ left : Nat))

/-- Round a value known to lie strictly between two: where both bounds round alike, that result; otherwise the open
value of Config (entry 14), without flags. -/
def roundBetween (f : Nat) (rm : BitVec 2) (sat : Bool) (g : Nat) (fn arg : Nat) (lo hi : Num) : Nat × BitVec 3 :=
  let a := roundReal 0 f rm sat g lo
  let b := roundReal 0 f rm sat g hi
  if a = b then a else (Config.transcendental fn f (rm.toNat + 4 * g) arg % 2 ^ fmtWidth f, 0)

/-- 2^a rounded into format `f` (R245, VEXP2); `arg` is the operand's pattern. -/
def roundExp2 (f : Nat) (rm : BitVec 2) (sat : Bool) (g arg : Nat) (a : Num) : Nat × BitVec 3 :=
  match a with
  | .nan => roundReal 0 f rm sat g .nan
  | .inf s => roundReal 0 f rm sat g (if s then .zero else .inf false)
  | .fin s m e =>
    let (q, r, _) := cutAt m e 0
    if r = 0 then roundReal 0 f rm sat g (.fin false 1 (let k : Int := min q (2 ^ 20); if s then -k else k))
    else if (m.log2 : Int) + e < -128 then
      -- so near to 0 that 2^x lies between 1 + x/2 and 1 + x
      let k := (-e).toNat
      let one (j : Nat) : Nat := if s then 2 ^ j - m else 2 ^ j + m
      let near : Num := .fin false (one (k + 1)) (e - 1)
      let far : Num := .fin false (one k) e
      if s then roundBetween f rm sat g 0 arg far near else roundBetween f rm sat g 0 arg near far
    else
      let (lo, hi, u) := exp2Bounds s m e
      roundBetween f rm sat g 0 arg (.fin false (2 * lo + 1) (u - 1)) (.fin false (2 * hi - 1) (u - 1))

/-- An enclosure end as a value, half a unit inward. -/
def logEnd (i : Int) (up : Bool) : Num :=
  let j := if up then 2 * i - 1 else 2 * i + 1
  .fin (decide (j < 0)) j.natAbs (-(encBits : Int) - 1)

/-- log₂ a rounded into format `f` (R245, VLOG2). -/
def roundLog2 (f : Nat) (rm : BitVec 2) (sat : Bool) (g arg : Nat) (a : Num) : Nat × BitVec 3 :=
  match a with
  | .nan => roundReal 0 f rm sat g .nan
  | .inf s => roundReal 0 f rm sat g (if s then .nan else .inf false)
  | .fin s m e =>
    if m = 0 then roundReal 0 f rm sat g (.inf true)
    else if s then roundReal 0 f rm sat g .nan
    else if m = 2 ^ m.log2 then roundReal 0 f rm sat g (Num.ofInt ((m.log2 : Int) + e))
    else
      let (lo, hi) := log2Bounds m e
      roundBetween f rm sat g 1 arg (logEnd lo false) (logEnd hi true)

/-- Cosine and sine of an angle in [0, π/2] as enclosures. -/
structure Arc where
  clo : Nat
  chi : Nat
  slo : Nat
  shi : Nat

/-- Half the angle. -/
def Arc.half (a : Arc) : Arc where
  clo := isqrt ((encOne + a.clo) * encOne / 2)
  chi := min encOne (isqrtUp (ceilDiv ((encOne + a.chi) * encOne) 2))
  slo := isqrt ((encOne - min encOne a.chi) * encOne / 2)
  shi := isqrtUp (ceilDiv ((encOne - a.clo) * encOne) 2)

/-- The sum of two angles that stays within [0, π/2]. -/
def Arc.add (a b : Arc) : Arc where
  clo := (a.clo * b.clo - a.shi * b.shi) / encOne
  chi := min encOne (ceilDiv (a.chi * b.chi - a.slo * b.slo) encOne)
  slo := (a.slo * b.clo + a.clo * b.slo) / encOne
  shi := min encOne (ceilDiv (a.shi * b.chi + a.chi * b.shi) encOne)

/-- The angles π/4, π/8, …, `k` of them. -/
def arcs : Nat → Arc → List Arc
  | 0, _ => []
  | k + 1, a => let h := a.half; h :: arcs k h

/-- π/2 · f / 2^n for f below 2^n. -/
def arcOf (n f : Nat) : Arc :=
  ((arcs n ⟨0, 0, encOne, encOne⟩).zipIdx.foldl (fun (r : Arc) e =>
    if f / 2 ^ (n - 1 - e.2) % 2 = 1 then r.add e.1 else r) ⟨encOne, encOne, 0, 0⟩)

/-- An enclosure rounded under RNE into part format `p`, with the sign. -/
def roundArc (p fn arg : Nat) (neg : Bool) (lo hi : Nat) : Nat :=
  (roundBetween p 0 false 0 fn arg (.fin neg (2 * lo + 1) (-(encBits : Int) - 1)) (.fin neg (2 * hi - 1) (-(encBits : Int) - 1))).1

/-- RNE(cos(2πk/N), P) and RNE(±sin(2πk/N), P) for N = 2^ln (R257): exact at the quarter turns. -/
def twiddle (p ln k : Nat) (inv : Bool) : Nat × Nat :=
  let n := 2 ^ ln
  let four := 4 * (k % n)
  let q := four / n
  let r := four % n
  let m := fun (i : Int) => rne p (Num.ofInt i)
  if r = 0 then
    match q with
    | 0 => (m 1, m 0)
    | 1 => (m 0, if inv then m 1 else m (-1))
    | 2 => (m (-1), m 0)
    | _ => (m 0, if inv then m (-1) else m 1)
  else
    let a := arcOf (ln - 2) (r / 4)
    let (cneg, clo, chi, sneg, slo, shi) : Bool × Nat × Nat × Bool × Nat × Nat :=
      match q with
      | 0 => (false, a.clo, a.chi, false, a.slo, a.shi)
      | 1 => (true, a.slo, a.shi, false, a.clo, a.chi)
      | 2 => (true, a.clo, a.chi, true, a.slo, a.shi)
      | _ => (false, a.slo, a.shi, true, a.clo, a.chi)
    (roundArc p 2 (k % n + n) cneg clo chi, roundArc p 3 (k % n + n) (sneg != !inv) slo shi)

end Sys2Proof.Machine
end

