-- ==== Sys2Proof/Machine/Vector.lean ====
section
/-! DEFINITION. Micro-orders that work on registers, masks and generators (R72, R232, R243 to R254, R257): how one is
performed within a table run (R237, R242, R381, R383), and one meaning for each. -/
namespace Sys2Proof.Machine

open Bits

/-! ### Elements, masks, draws (R59, R72, R232) -/

/-- The lane, and so the mask bit, of element `j` of width `w` (R232). -/
def elemLane (w j : Nat) : Nat := if w = 64 then 2 * j else w * j / 32

/-- Mask `m` of a context. -/
def Ctx.mask (c : Ctx) (m : BitVec 3) : BitVec 64 := if m = 0 then BitVec.allOnes 64 else c.v.masks[m.toNat]'m.isLt

/-- Element `j` of width `w` is active under a mask (R232). -/
def active (k : BitVec 64) (w j : Nat) : Bool := bit k (elemLane w j)

/-- Element `j` of width `w` (R59). -/
def elemAt (w : Nat) (d : BitVec 2048) (j : Nat) : Nat := fldN d (w * j) w

/-- A register from its elements (R59). -/
def packElems (w : Nat) (l : List Nat) : BitVec 2048 :=
  BitVec.ofNat 2048 (l.foldr (fun e a => e % 2 ^ w + a * 2 ^ w) 0)

/-- `d` with the given elements in place of its own. -/
def mergeElems (w : Nat) (d : BitVec 2048) (l : List (Option Nat)) : BitVec 2048 :=
  packElems w (l.zipIdx.map fun e => e.1.getD (elemAt w d e.2))

/-- The lanes of `new` where the mask is true, of `old` elsewhere (R232). -/
def mergeLanes (k : BitVec 64) (old new : BitVec 2048) : BitVec 2048 :=
  packElems 32 ((List.range 64).map fun l => elemAt 32 (if bit k l then new else old) l)

/-- One draw of a lane (R72). -/
def xorshift (v : BitVec 32) : BitVec 32 :=
  let a := v ^^^ (v <<< 13)
  let b := a ^^^ (a >>> 17)
  b ^^^ (b <<< 5)

/-- Draw from lane `l` when the rounding is stochastic (R70, R72). -/
def drawIf (rm : BitVec 2) (g : Vector (BitVec 32) 64) (l : Nat) : Nat × Vector (BitVec 32) 64 :=
  if rm = 1 then
    let v := xorshift (g.toList.getD l 0)
    (v.toNat, g.setIfInBounds l v)
  else (0, g)

/-- What the elements of a micro-order come to: generator states, flags, and the active elements' patterns. -/
structure Elems where
  gen : Vector (BitVec 32) 64
  fl  : BitVec 3
  out : List (Option Nat)

/-- Compute elements 0 to n − 1 of width `w` in ascending order (R72, R232): `f` gives an active element from its index
and its draws, the second only for a complex one. -/
def eachElem (c : Ctx) (k : BitVec 64) (w : Nat) (rm : BitVec 2) (cplx : Bool) (sel : Nat → Bool)
    (f : Nat → Nat → Nat → Nat × BitVec 3) : Elems :=
  let r := (List.range (2048 / w)).foldl (fun (r : Elems) j =>
    if active k w j && sel j then
      let (g1, gen) := drawIf rm r.gen (elemLane w j)
      let (g2, gen) := if cplx then drawIf rm gen (elemLane w j) else (0, gen)
      let (v, fl) := f j g1 g2
      ⟨gen, r.fl ||| fl, some v :: r.out⟩
    else { r with out := none :: r.out }) ⟨c.v.gen, 0, []⟩
  { r with out := r.out.reverse }

/-! ### Tags (R65, R68, R69, R378) -/

/-- FMT of a tag. -/
def tagFmt (t : BitVec 16) : Nat := fldN t 0 5
/-- ANA of a tag. -/
def tagAna (t : BitVec 16) : Bool := bit t 7
/-- BSP of a tag. -/
def tagBsp (t : BitVec 16) : Bool := bit t 5
/-- TSP of a tag. -/
def tagTsp (t : BitVec 16) : Bool := bit t 6

/-- A tag from FMT, BSP, TSP, ANA, CBT (R65). -/
def mkTag (f : Nat) (bsp tsp ana : Bool) (cbt : BitVec 3) : BitVec 16 :=
  0#5 ++ cbt ++ b1 ana ++ b1 tsp ++ b1 bsp ++ BitVec.ofNat 5 f

/-- Some interpreted operand has analogue origin (R69). -/
def anaOf (c : Ctx) (rs : List (BitVec 5)) : Bool := rs.any fun r => tagAna (c.vreg r).tag

/-- The codebook tables that a CBLD of the launch has loaded (R68, R230). -/
def cbLoaded (s : State) (lid : BitVec 16) (t : Nat) : Option (BitVec 256) :=
  let k := s.core.cbs.toList.getD t ⟨0, none, []⟩
  if k.lid = some lid then some k.data else none

/-- A table as an entry of a task sees it, which was appended at place `ord` of the task's order: without the CBLDs that the task
appended later (R64). -/
def cbView (task : Option Nat) (ord : Nat) : BitVec 256 → Option (BitVec 16) → List CbPast → BitVec 256 × Option (BitVec 16)
  | d, l, [] => (d, l)
  | d, l, p :: ps => if p.task = task ∧ ord < p.ord then cbView task ord p.data p.lid ps else (d, l)

/-- The codebook tables that the started entry `r` of context `x` may use (R64, R68, R230). -/
def cbSeen (s : State) (x : CtxId) (r : Run) (t : Nat) : Option (BitVec 256) :=
  match r.pend with
  | none => cbLoaded s (s.cx x).lid t
  | some p =>
    let k := s.core.cbs.toList.getD t ⟨0, none, []⟩
    let v := cbView (s.cx x).task p.rel k.data k.lid k.past
    if v.2 = some (s.cx x).lid then some v.1 else none

/-- The tag check of an operand (R68, R243, R378): `fs` accepts formats; `plain` forbids scales. Operand numbers are those
of R370. -/
def tagBad (cb : Nat → Option (BitVec 256)) (st : Nat) (v : VReg) (fs : List Nat) (operand : Nat) (plain : Bool) : Option Flt :=
  let t := v.tag
  if !fs.contains (tagFmt t) then some (tagFlt t operand 1 st)
  else if bit t 11 then some (tagFlt t operand 2 st)
  else if tagFmt t = 10 ∧ (cb (fldN t 8 3)).isNone then some (tagFlt t operand 3 st)
  else if plain && (tagBsp t || tagTsp t) then some (tagFlt t operand 4 st)
  else none

/-- The codebook of an operand's tag. -/
def cbOf (cb : Nat → Option (BitVec 256)) (v : VReg) : BitVec 256 := (cb (fldN v.tag 8 3)).getD 0

/-- The value of element `j` of a register under R67 (R63, R64), without its tensor scale where `ts` is false. -/
def valueAt (cb : BitVec 256) (v : VReg) (ts : Bool) (j : Nat) : Num × Num :=
  let f := tagFmt v.tag
  let e := decodeElem cb f (elemAt (fmtWidth f) v.data j)
  let bs := if tagBsp v.tag then some (fldN v.bs (8 * (j / 32)) 8) else none
  let t := if ts && tagTsp v.tag then some v.ts else none
  (scaleVal bs t e.1, scaleVal bs t e.2)

/-- I4RES for a read of element `j` (R63). -/
def i4res (v : VReg) (j : Nat) : BitVec 3 := if tagFmt v.tag = 9 ∧ elemAt 4 v.data j = 8 then fI4res else 0

/-! ### One micro-order of a run (R237, R242, R381) -/

/-- The lent banks that hold for a started entry (R57). -/
def runLent (c : Ctx) (r : Run) : Vector Bool 4 := match r.pend with | some p => p.lent | none => c.v.lent

/-- A register of a lent bank (R57, R241). -/
def lentReg (l : Vector Bool 4) (r : BitVec 5) : Bool := decide (16 ≤ r.toNat) && l.toList.getD (r.toNat / 4 - 4) false

/-- What a micro-order leads to within its run: the next step in turn, a step of its own, or the end of the run or batch. -/
inductive Then where
  | next
  | goto (step : Nat)
  | finish
deriving DecidableEq, Repr

/-- The end rule of the table loops (R162, R242): the levels after a step, and the step to go to. -/
def tableEnd (v : VecState) (step : Nat) : VecState × Option Nat :=
  let l0 := v.loops.get 0
  let l1 := v.loops.get 1
  let in0 := l0.act && l0.fin == step
  let in1 := l1.act && l1.fin == step
  let n0 := l0.count - 1
  let n1 := l1.count - 1
  if in0 && n0 != 0 then ({ v with loops := v.loops.set 0 { l0 with count := n0 } }, some (l0.start + 1))
  else
    let v := if in0 then { v with loops := v.loops.set 0 { l0 with count := n0, act := false } } else v
    if in1 && n1 != 0 then ({ v with loops := v.loops.set 1 { l1 with count := n1 } }, some (l1.start + 1))
    else (if in1 then { v with loops := v.loops.set 1 { l1 with count := n1, act := false } } else v, none)

/-- The step that stands for the end of a batch. -/
def batchOver : Nat := 256

/-- The run goes on (R237): to a step, or to the end of the run or of its batch. -/
def Run.advance (r : Run) (len : Nat) (dst : Option Nat) : Run :=
  match r.x with
  | .table t _ dr p t0 tk b =>
    match dst with
    | some n => if n < len then { r with x := .table t n dr p t0 tk b }
                else { r with x := .table t batchOver dr p t0 tk b, done := !dr }
    | none => { r with x := .table t batchOver dr p t0 tk b, done := !dr }
  | _ => r

/-- After the micro-order at `step` of table `t` (R237, R242): its flags are kept for the completion (R75). -/
def microNext (s : State) (x : CtxId) (t step : Nat) (fl : BitVec 3) (k : Then) : State :=
  let c := s.cx x
  let (v, dst) : VecState × Option Nat := match k with
    | .next => let (v, n) := tableEnd c.v step; (v, some (n.getD (step + 1)))
    | .goto n => (c.v, some n)
    | .finish => (c.v, none)
  (s.setCx x { c with v := v }).modRun x .vxe fun r => { r.advance (c.table t).len dst with fmtst := r.fmtst ||| fl }

/-- What the micro-orders of the running table see: the context, the loaded codebooks, the step. -/
structure UEnv where
  c  : Ctx
  cb : Nat → Option (BitVec 256)
  st : Nat

/-- A codebook table that an entry reads is uncorrectable (R411): it counts as not loaded for every launch. -/
def tableError (s : State) (x : CtxId) (e : Eng) (t : Nat) (f : Store) : State :=
  entryFault ((storeError s f).modCore fun k => { k with cbs := k.cbs.mapIdx fun i b => if i = t then { b with lid := none, past := [] } else b })
    x e (storeUce f)

/-- A register that a micro-order names, or the codebook by which it decodes one, is uncorrectable (R411). It reads every register
it names: a destination keeps the elements that its mask leaves (entry 95). -/
def microFlaw (s : State) (x : CtxId) (rs : List (BitVec 5)) (f : Store) : Option State :=
  match f with
  | .vdata y v | .vtag y v | .vscale y v => if y = x ∧ rs.contains v then some (ctxError s x f) else none
  | .codebook t =>
    if rs.any fun v => let g := ((s.cx x).vreg v).tag; tagFmt g == 10 && fldN g 8 3 == t then some (tableError s x .vxe t f) else none
  | _ => none

/-- Perform a micro-order of the run of the context that VXE executes (R237): it names the registers `rs` (R381, code
0x11). Without a table run nothing executes it. -/
def micro (s : State) (rs : List (BitVec 5)) (f : UEnv → Except Flt (Ctx × BitVec 3)) : Host.Outcome State Fault Refusal :=
  let x := s.core.vx
  let c := s.cx x
  match s.run x .vxe with
  | none => .next s
  | some r => match r.x with
    | .table t step _ _ _ _ _ =>
      match rs.find? (lentReg (runLent c r)) with
      | some v => .next (unitFault s x .vxe (misuse 0x11 v.toNat 0))
      | none => match s.core.flaw.bind (microFlaw s x rs) with
        | some u => .next u
        | none => match f ⟨c, cbSeen s x r, step⟩ with
          | .error e => .next (unitFault s x .vxe e)
          | .ok (c', fl) => .next (microNext (s.setCx x c') x t.val step fl .next)
    | _ => .next s

/-- The first failing check, or the result. -/
def checkedU (l : List (Option Flt)) (r : Ctx × BitVec 3) : Except Flt (Ctx × BitVec 3) :=
  match firstFlt l with | some f => .error f | none => .ok r

/-- Write the elements of vd (R232, R243): tag FMT with ANA, TS 1.0, BS unchanged. -/
def Ctx.putElems (c : Ctx) (d : BitVec 5) (f : Nat) (ana : Bool) (e : Elems) : Ctx × BitVec 3 :=
  let v := c.vreg d
  let c := c.setVreg d { v with data := mergeElems (fmtWidth f) v.data e.out, tag := mkTag f false false ana 0, ts := 0x3F800000 }
  ({ c with v := { c.v with gen := e.gen } }, e.fl)

/-- Write a mask under a mask (R232); a write of m0 is discarded (R5). -/
def Ctx.putMask (c : Ctx) (d m : BitVec 3) (v : BitVec 64) : Ctx :=
  if d = 0 then c
  else
    let k := c.mask m
    { c with v := { c.v with masks := c.v.masks.set d.toNat ((c.mask d &&& ~~~k) ||| (v &&& k)) d.isLt } }

/-! ### Moves (R244) -/

/-- VNOP: nothing (R244). -/
def execVnop (s : State) : Host.Outcome State Fault Refusal := micro s [] fun u => .ok (u.c, 0)

/-- The lanes that a mask lets a raw copy of `v` write: the two lanes of a 64-bit element follow bit 2j (R232), by the format of
its tag (entry 43). -/
def moveMask (k : BitVec 64) (v : VReg) : BitVec 64 :=
  if fmtWidth (tagFmt v.tag) = 64 then let e := k &&& 0x5555555555555555; e ||| (e <<< 1) else k

/-- VMOV: the lanes of va under the mask, with tag, TS and BS of va (R244). -/
def execVmov (d a : BitVec 5) (m : BitVec 3) (s : State) : Host.Outcome State Fault Refusal :=
  micro s [d, a] fun u =>
    let v := u.c.vreg a
    .ok (u.c.setVreg d { v with data := mergeLanes (moveMask (u.c.mask m) v) (u.c.vreg d).data v.data }, 0)

/-- Every active element of vd becomes a pattern (R244). -/
def fillElems (u : UEnv) (d : BitVec 5) (m : BitVec 3) (f : Nat) (p : Nat → Nat) : Ctx × BitVec 3 :=
  u.c.putElems d f false (eachElem u.c (u.c.mask m) (fmtWidth f) 0 false (fun _ => true) fun j _ _ => (p j, 0))

/-- VSPL: every element := PR (R244). -/
def execVspl (d : BitVec 5) (m : BitVec 3) (f : BitVec 4) (s : State) : Host.Outcome State Fault Refusal :=
  micro s [d] fun u => .ok (fillElems u d m f.toNat fun _ => u.c.v.pr.toNat)

/-- VZERO: every element := 0 (R244). -/
def execVzero (d : BitVec 5) (m : BitVec 3) (f : BitVec 4) (s : State) : Host.Outcome State Fault Refusal :=
  micro s [d] fun u => .ok (fillElems u d m f.toNat fun _ => 0)

/-- VIDX: element j := j as INT32 (R244). -/
def execVidx (d : BitVec 5) (m : BitVec 3) (_r : BitVec 2) (_t : BitVec 1) (s : State) : Host.Outcome State Fault Refusal :=
  micro s [d] fun u => .ok (fillElems u d m 11 fun j => j)

/-- VSEL: lanes of va where the mask is true, of vb elsewhere (R244). -/
def execVsel (d a b : BitVec 5) (m : BitVec 3) (s : State) : Host.Outcome State Fault Refusal :=
  micro s [d, a, b] fun u =>
    let va := u.c.vreg a
    let vb := u.c.vreg b
    checkedU [fltIf (va.tag != vb.tag) (tagFlt vb.tag 2 6 u.st)]
      (u.c.setVreg d { va with data := mergeLanes (u.c.mask m) vb.data va.data }, 0)

/-! ### The real class (R245, R246) -/

/-- The value of an unscaled element in format `f`. -/
def realAt (f : Nat) (v : VReg) (j : Nat) : Num := decodeReal 0 f (elemAt (fmtWidth f) v.data j)

/-- The tag checks of va, and of vb and vd where they are read (R243, R245). -/
def plainChecks (u : UEnv) (f : Nat) (l : List (BitVec 5 × Nat)) : List (Option Flt) :=
  l.map fun e => tagBad u.cb u.st (u.c.vreg e.1) [f] e.2 true

/-- A real binary row: the exact result of `op`, rounded once (R76, R245). -/
def realBin (u : UEnv) (d a b : BitVec 5) (m : BitVec 3) (f : BitVec 4) (r : BitVec 2) (t : BitVec 1)
    (op : Num → Num → Num) : Except Flt (Ctx × BitVec 3) :=
  let n := f.toNat
  let va := u.c.vreg a
  let vb := u.c.vreg b
  checkedU (plainChecks u n [(a, 1), (b, 2)]) <|
    u.c.putElems d n (anaOf u.c [a, b]) <|
      eachElem u.c (u.c.mask m) (fmtWidth n) r false (fun _ => true) fun j g _ =>
        roundReal 0 n r (t == 1) g (op (realAt n va j) (realAt n vb j))

/-- A fused row, which reads vd as its third operand (R245). -/
def realTri (u : UEnv) (d a b : BitVec 5) (m : BitVec 3) (f : BitVec 4) (r : BitVec 2) (t : BitVec 1)
    (op : Num → Num → Num → Num) : Except Flt (Ctx × BitVec 3) :=
  let n := f.toNat
  let va := u.c.vreg a
  let vb := u.c.vreg b
  let vd := u.c.vreg d
  checkedU (plainChecks u n [(a, 1), (b, 2), (d, 0)]) <|
    u.c.putElems d n (anaOf u.c [a, b, d]) <|
      eachElem u.c (u.c.mask m) (fmtWidth n) r false (fun _ => true) fun j g _ =>
        roundReal 0 n r (t == 1) g (op (realAt n va j) (realAt n vb j) (realAt n vd j))

/-- A real unary row; `op` gives the pattern and flags from the draw, the operand's pattern and its value. -/
def realUn (u : UEnv) (d a : BitVec 5) (m : BitVec 3) (f : BitVec 4) (r : BitVec 2)
    (op : Nat → Nat → Num → Nat × BitVec 3) : Except Flt (Ctx × BitVec 3) :=
  let n := f.toNat
  let va := u.c.vreg a
  checkedU (plainChecks u n [(a, 1)]) <|
    u.c.putElems d n (anaOf u.c [a]) <|
      eachElem u.c (u.c.mask m) (fmtWidth n) r false (fun _ => true) fun j g _ =>
        op g (elemAt (fmtWidth n) va.data j) (realAt n va j)

/-- Round a value of a unary row. -/
def toFmt (f : BitVec 4) (r : BitVec 2) (t : BitVec 1) (op : Num → Num) : Nat → Nat → Num → Nat × BitVec 3 :=
  fun g _ a => roundReal 0 f.toNat r (t == 1) g (op a)

/-- VADD (R245). -/
def execVadd (d a b : BitVec 5) (m : BitVec 3) (f : BitVec 4) (r : BitVec 2) (t : BitVec 1) (s : State) :
    Host.Outcome State Fault Refusal := micro s [d, a, b] fun u => realBin u d a b m f r t Num.add

/-- VSUB (R245). -/
def execVsub (d a b : BitVec 5) (m : BitVec 3) (f : BitVec 4) (r : BitVec 2) (t : BitVec 1) (s : State) :
    Host.Outcome State Fault Refusal := micro s [d, a, b] fun u => realBin u d a b m f r t Num.sub

/-- VMUL (R245). -/
def execVmul (d a b : BitVec 5) (m : BitVec 3) (f : BitVec 4) (r : BitVec 2) (t : BitVec 1) (s : State) :
    Host.Outcome State Fault Refusal := micro s [d, a, b] fun u => realBin u d a b m f r t Num.mul

/-- VDIV (R245). -/
def execVdiv (d a b : BitVec 5) (m : BitVec 3) (f : BitVec 4) (r : BitVec 2) (t : BitVec 1) (s : State) :
    Host.Outcome State Fault Refusal := micro s [d, a, b] fun u => realBin u d a b m f r t Num.div

/-- VFMA: a · b + d (R245). -/
def execVfma (d a b : BitVec 5) (m : BitVec 3) (f : BitVec 4) (r : BitVec 2) (t : BitVec 1) (s : State) :
    Host.Outcome State Fault Refusal := micro s [d, a, b] fun u => realTri u d a b m f r t fun x y z => (x.mul y).add z

/-- VFNMA: d − a · b (R245). -/
def execVfnma (d a b : BitVec 5) (m : BitVec 3) (f : BitVec 4) (r : BitVec 2) (t : BitVec 1) (s : State) :
    Host.Outcome State Fault Refusal := micro s [d, a, b] fun u => realTri u d a b m f r t fun x y z => z.sub (x.mul y)

/-- VMIN (R245). -/
def execVmin (d a b : BitVec 5) (m : BitVec 3) (f : BitVec 4) (t : BitVec 1) (s : State) :
    Host.Outcome State Fault Refusal := micro s [d, a, b] fun u => realBin u d a b m f 0 t (Num.pick false)

/-- VMAX (R245). -/
def execVmax (d a b : BitVec 5) (m : BitVec 3) (f : BitVec 4) (t : BitVec 1) (s : State) :
    Host.Outcome State Fault Refusal := micro s [d, a, b] fun u => realBin u d a b m f 0 t (Num.pick true)

/-- VABS (R245). -/
def execVabs (d a : BitVec 5) (m : BitVec 3) (f : BitVec 4) (s : State) : Host.Outcome State Fault Refusal :=
  micro s [d, a] fun u => realUn u d a m f 0 (toFmt f 0 0 Num.abs)

/-- VNEG (R245). -/
def execVneg (d a : BitVec 5) (m : BitVec 3) (f : BitVec 4) (s : State) : Host.Outcome State Fault Refusal :=
  micro s [d, a] fun u => realUn u d a m f 0 (toFmt f 0 0 Num.neg)

/-- VSQRT (R245). -/
def execVsqrt (d a : BitVec 5) (m : BitVec 3) (f : BitVec 4) (r : BitVec 2) (t : BitVec 1) (s : State) :
    Host.Outcome State Fault Refusal := micro s [d, a] fun u => realUn u d a m f r (toFmt f r t Num.sqrt)

/-- VRSQ: 1/√a (R245). -/
def execVrsq (d a : BitVec 5) (m : BitVec 3) (f : BitVec 4) (r : BitVec 2) (t : BitVec 1) (s : State) :
    Host.Outcome State Fault Refusal := micro s [d, a] fun u => realUn u d a m f r (toFmt f r t Num.rsqrt)

/-- VRCP: 1/a (R245). -/
def execVrcp (d a : BitVec 5) (m : BitVec 3) (f : BitVec 4) (r : BitVec 2) (t : BitVec 1) (s : State) :
    Host.Outcome State Fault Refusal := micro s [d, a] fun u => realUn u d a m f r (toFmt f r t fun x => (Num.ofInt 1).div x)

/-- VEXP2: 2^a (R245). -/
def execVexp2 (d a : BitVec 5) (m : BitVec 3) (f : BitVec 4) (r : BitVec 2) (t : BitVec 1) (s : State) :
    Host.Outcome State Fault Refusal :=
  micro s [d, a] fun u => realUn u d a m f r fun g p x => roundExp2 f.toNat r (t == 1) g p x

/-- VLOG2: log₂ a (R245). -/
def execVlog2 (d a : BitVec 5) (m : BitVec 3) (f : BitVec 4) (r : BitVec 2) (t : BitVec 1) (s : State) :
    Host.Outcome State Fault Refusal :=
  micro s [d, a] fun u => realUn u d a m f r fun g p x => roundLog2 f.toNat r (t == 1) g p x

/-- VRINT (R245). -/
def execVrint (d a : BitVec 5) (m : BitVec 3) (f : BitVec 4) (r : BitVec 2) (s : State) : Host.Outcome State Fault Refusal :=
  micro s [d, a] fun u => realUn u d a m f r fun g _ x => roundReal 0 f.toNat 0 false 0 (x.integral r g)

/-- VFLOOR (R245). -/
def execVfloor (d a : BitVec 5) (m : BitVec 3) (f : BitVec 4) (s : State) : Host.Outcome State Fault Refusal :=
  micro s [d, a] fun u => realUn u d a m f 0 (toFmt f 0 0 Num.floor)

/-- +0 when a is negative or −0 (R245). -/
def Num.relu (a : Num) : Num := if a.sign then .zero else a

/-- VRELU (R245). -/
def execVrelu (d a : BitVec 5) (m : BitVec 3) (f : BitVec 4) (s : State) : Host.Outcome State Fault Refusal :=
  micro s [d, a] fun u => realUn u d a m f 0 (toFmt f 0 0 Num.relu)

/-- The lane bits of a comparison of elements (R246): both lanes of an FP64 element take its result. -/
def laneBits (w : Nat) (p : Nat → Bool) : BitVec 64 :=
  BitVec.ofNat 64 ((List.range 64).foldl (fun n l => if p (if w = 64 then l / 2 else l) then n + 2 ^ l else n) 0)

/-- A real comparison into a mask (R246). -/
def realCmp (u : UEnv) (d : BitVec 3) (a b : BitVec 5) (m : BitVec 3) (f : BitVec 4) (p : Option Ordering → Bool) :
    Except Flt (Ctx × BitVec 3) :=
  let n := f.toNat
  let va := u.c.vreg a
  let vb := u.c.vreg b
  checkedU (plainChecks u n [(a, 1), (b, 2)])
    (u.c.putMask d m (laneBits (fmtWidth n) fun j => p ((realAt n va j).cmp (realAt n vb j))), 0)

/-- VCMPEQ (R246). -/
def execVcmpeq (d : BitVec 3) (a b : BitVec 5) (m : BitVec 3) (f : BitVec 4) (s : State) : Host.Outcome State Fault Refusal :=
  micro s [a, b] fun u => realCmp u d a b m f (· == some .eq)

/-- VCMPLT (R246). -/
def execVcmplt (d : BitVec 3) (a b : BitVec 5) (m : BitVec 3) (f : BitVec 4) (s : State) : Host.Outcome State Fault Refusal :=
  micro s [a, b] fun u => realCmp u d a b m f (· == some .lt)

/-- VCMPLE (R246). -/
def execVcmple (d : BitVec 3) (a b : BitVec 5) (m : BitVec 3) (f : BitVec 4) (s : State) : Host.Outcome State Fault Refusal :=
  micro s [a, b] fun u => realCmp u d a b m f fun o => o == some .lt || o == some .eq

/-! ### The integer class (R247) -/

/-- A signed element. -/
def intAt (w : Nat) (v : VReg) (j : Nat) : Int := intOf w (elemAt w v.data j)

/-- An integer result of `w` bits: wrapped, or clamped with SATF (R247). -/
def intResult (w : Nat) (sat : Bool) (i : Int) : Nat × BitVec 3 :=
  if sat then
    let (v, fl) := clampInt (-(2 ^ (w - 1) : Nat)) ((2 ^ (w - 1) : Nat) - 1) i
    (wrapInt w v, fl)
  else (wrapInt w i, 0)

/-- An integer row (R247). -/
def intBin (u : UEnv) (d a b : BitVec 5) (m : BitVec 3) (f : BitVec 4) (t : BitVec 1) (op : Nat → Int → Int → Int) :
    Except Flt (Ctx × BitVec 3) :=
  let n := f.toNat
  let w := fmtWidth n
  let va := u.c.vreg a
  let vb := u.c.vreg b
  checkedU (plainChecks u n [(a, 1), (b, 2)]) <|
    u.c.putElems d n (anaOf u.c [a, b]) <|
      eachElem u.c (u.c.mask m) w 0 false (fun _ => true) fun j _ _ => intResult w (t == 1) (op w (intAt w va j) (intAt w vb j))

/-- A bitwise operation on `w`-bit patterns. -/
def bitsOp (op : Nat → Nat → Nat) (w : Nat) (a b : Int) : Int := op (wrapInt w a) (wrapInt w b)

/-- VIADD (R247). -/
def execViadd (d a b : BitVec 5) (m : BitVec 3) (f : BitVec 4) (t : BitVec 1) (s : State) : Host.Outcome State Fault Refusal :=
  micro s [d, a, b] fun u => intBin u d a b m f t fun _ x y => x + y

/-- VISUB (R247). -/
def execVisub (d a b : BitVec 5) (m : BitVec 3) (f : BitVec 4) (t : BitVec 1) (s : State) : Host.Outcome State Fault Refusal :=
  micro s [d, a, b] fun u => intBin u d a b m f t fun _ x y => x - y

/-- VIMUL (R247). -/
def execVimul (d a b : BitVec 5) (m : BitVec 3) (f : BitVec 4) (t : BitVec 1) (s : State) : Host.Outcome State Fault Refusal :=
  micro s [d, a, b] fun u => intBin u d a b m f t fun _ x y => x * y

/-- VIMIN (R247). -/
def execVimin (d a b : BitVec 5) (m : BitVec 3) (f : BitVec 4) (s : State) : Host.Outcome State Fault Refusal :=
  micro s [d, a, b] fun u => intBin u d a b m f 0 fun _ x y => if x ≤ y then x else y

/-- VIMAX (R247). -/
def execVimax (d a b : BitVec 5) (m : BitVec 3) (f : BitVec 4) (s : State) : Host.Outcome State Fault Refusal :=
  micro s [d, a, b] fun u => intBin u d a b m f 0 fun _ x y => if x ≤ y then y else x

/-- VIAND (R247). -/
def execViand (d a b : BitVec 5) (m : BitVec 3) (f : BitVec 4) (s : State) : Host.Outcome State Fault Refusal :=
  micro s [d, a, b] fun u => intBin u d a b m f 0 (bitsOp Nat.land)

/-- VIOR (R247). -/
def execVior (d a b : BitVec 5) (m : BitVec 3) (f : BitVec 4) (s : State) : Host.Outcome State Fault Refusal :=
  micro s [d, a, b] fun u => intBin u d a b m f 0 (bitsOp Nat.lor)

/-- VIXOR (R247). -/
def execVixor (d a b : BitVec 5) (m : BitVec 3) (f : BitVec 4) (s : State) : Host.Outcome State Fault Refusal :=
  micro s [d, a, b] fun u => intBin u d a b m f 0 (bitsOp Nat.xor)

/-- VISLL: a << (b mod w) (R247). -/
def execVisll (d a b : BitVec 5) (m : BitVec 3) (f : BitVec 4) (s : State) : Host.Outcome State Fault Refusal :=
  micro s [d, a, b] fun u => intBin u d a b m f 0 fun w x y => x * 2 ^ (y % (w : Int)).toNat

/-- VISRL: a >> (b mod w), zeros in (R247). -/
def execVisrl (d a b : BitVec 5) (m : BitVec 3) (f : BitVec 4) (s : State) : Host.Outcome State Fault Refusal :=
  micro s [d, a, b] fun u => intBin u d a b m f 0 fun w x y => (wrapInt w x / 2 ^ (y % (w : Int)).toNat : Nat)

/-- VISRA: a >> (b mod w), sign in (R247). -/
def execVisra (d a b : BitVec 5) (m : BitVec 3) (f : BitVec 4) (s : State) : Host.Outcome State Fault Refusal :=
  micro s [d, a, b] fun u => intBin u d a b m f 0 fun w x y => x.fdiv (2 ^ (y % (w : Int)).toNat)

/-- VIDOT: lane l := d + Σ a[4l+k]·b[4l+k] (R247). -/
def execVidot (d a b : BitVec 5) (m : BitVec 3) (_f : BitVec 4) (t : BitVec 1) (s : State) : Host.Outcome State Fault Refusal :=
  micro s [d, a, b] fun u =>
    let va := u.c.vreg a
    let vb := u.c.vreg b
    let vd := u.c.vreg d
    checkedU [tagBad u.cb u.st va [8] 1 true, tagBad u.cb u.st vb [8] 2 true, tagBad u.cb u.st vd [11] 0 true] <|
      u.c.putElems d 11 (anaOf u.c [a, b, d]) <|
        eachElem u.c (u.c.mask m) 32 0 false (fun _ => true) fun l _ _ =>
          intResult 32 (t == 1) ((List.range 4).foldl (fun (i : Int) k => i + intAt 8 va (4 * l + k) * intAt 8 vb (4 * l + k)) (intAt 32 vd l))

/-- An INT32 comparison into a mask (R247). -/
def intCmp (u : UEnv) (d : BitVec 3) (a b : BitVec 5) (m : BitVec 3) (p : Int → Int → Bool) : Except Flt (Ctx × BitVec 3) :=
  checkedU (plainChecks u 11 [(a, 1), (b, 2)])
    (u.c.putMask d m (laneBits 32 fun l => p (intAt 32 (u.c.vreg a) l) (intAt 32 (u.c.vreg b) l)), 0)

/-- VICMPEQ (R247). -/
def execVicmpeq (d : BitVec 3) (a b : BitVec 5) (m : BitVec 3) (_f : BitVec 4) (s : State) : Host.Outcome State Fault Refusal :=
  micro s [a, b] fun u => intCmp u d a b m fun x y => x == y

/-- VICMPLT (R247). -/
def execVicmplt (d : BitVec 3) (a b : BitVec 5) (m : BitVec 3) (_f : BitVec 4) (s : State) : Host.Outcome State Fault Refusal :=
  micro s [a, b] fun u => intCmp u d a b m fun x y => decide (x < y)

/-! ### The complex class (R248, R257) -/

/-- A complex value. -/
abbrev CNum := Num × Num

/-- A complex element. -/
def cplxAt (f : Nat) (v : VReg) (j : Nat) : CNum := decodeElem 0 f (elemAt (fmtWidth f) v.data j)

/-- Each part rounded once, real part first (R72, R248). -/
def roundCplx (f : Nat) (rm : BitVec 2) (sat : Bool) (g1 g2 : Nat) (x : CNum) : Nat × BitVec 3 :=
  let p := (partOf f).getD 1
  let a := roundReal 0 p rm sat g1 x.1
  let b := roundReal 0 p rm sat g2 x.2
  (a.1 + b.1 * 2 ^ fmtWidth p, a.2 ||| b.2)

/-- a + b. -/
def CNum.add (x y : CNum) : CNum := (x.1.add y.1, x.2.add y.2)
/-- a − b. -/
def CNum.sub (x y : CNum) : CNum := (x.1.sub y.1, x.2.sub y.2)
/-- a · b. -/
def CNum.mul (x y : CNum) : CNum := ((x.1.mul y.1).sub (x.2.mul y.2), (x.1.mul y.2).add (x.2.mul y.1))
/-- conj(a). -/
def CNum.conj (x : CNum) : CNum := (x.1, x.2.neg)
/-- a · conj(b): real ar·br + ai·bi, imaginary ai·br − ar·bi. -/
def CNum.mulj (x y : CNum) : CNum := ((x.1.mul y.1).add (x.2.mul y.2), (x.2.mul y.1).sub (x.1.mul y.2))
/-- ar² + ai². -/
def CNum.abs2 (x : CNum) : CNum := ((x.1.mul x.1).add (x.2.mul x.2), .zero)
/-- a · iᵏ. -/
def CNum.rot (k : Nat) (x : CNum) : CNum :=
  match k with | 0 => x | 1 => (x.2.neg, x.1) | 2 => (x.1.neg, x.2.neg) | _ => (x.2, x.1.neg)

/-- A complex row of two operands, or of three with vd (R248). -/
def cplxBin (u : UEnv) (d a b : BitVec 5) (m : BitVec 3) (f : BitVec 4) (r : BitVec 2) (t : BitVec 1) (third : Bool)
    (op : CNum → CNum → CNum → CNum) : Except Flt (Ctx × BitVec 3) :=
  let n := f.toNat
  let va := u.c.vreg a
  let vb := u.c.vreg b
  let vd := u.c.vreg d
  checkedU (plainChecks u n ([(a, 1), (b, 2)] ++ if third then [(d, 0)] else [])) <|
    u.c.putElems d n (anaOf u.c ([a, b] ++ if third then [d] else [])) <|
      eachElem u.c (u.c.mask m) (fmtWidth n) r true (fun _ => true) fun j g1 g2 =>
        roundCplx n r (t == 1) g1 g2 (op (cplxAt n va j) (cplxAt n vb j) (cplxAt n vd j))

/-- A complex unary row (R248). -/
def cplxUn (u : UEnv) (d a : BitVec 5) (m : BitVec 3) (f : BitVec 4) (r : BitVec 2) (t : BitVec 1) (op : CNum → CNum) :
    Except Flt (Ctx × BitVec 3) :=
  let n := f.toNat
  let va := u.c.vreg a
  checkedU (plainChecks u n [(a, 1)]) <|
    u.c.putElems d n (anaOf u.c [a]) <|
      eachElem u.c (u.c.mask m) (fmtWidth n) r true (fun _ => true) fun j g1 g2 => roundCplx n r (t == 1) g1 g2 (op (cplxAt n va j))

/-- VCADD (R248). -/
def execVcadd (d a b : BitVec 5) (m : BitVec 3) (f : BitVec 4) (r : BitVec 2) (t : BitVec 1) (s : State) :
    Host.Outcome State Fault Refusal := micro s [d, a, b] fun u => cplxBin u d a b m f r t false fun x y _ => x.add y

/-- VCSUB (R248). -/
def execVcsub (d a b : BitVec 5) (m : BitVec 3) (f : BitVec 4) (r : BitVec 2) (t : BitVec 1) (s : State) :
    Host.Outcome State Fault Refusal := micro s [d, a, b] fun u => cplxBin u d a b m f r t false fun x y _ => x.sub y

/-- VCMUL (R248). -/
def execVcmul (d a b : BitVec 5) (m : BitVec 3) (f : BitVec 4) (r : BitVec 2) (t : BitVec 1) (s : State) :
    Host.Outcome State Fault Refusal := micro s [d, a, b] fun u => cplxBin u d a b m f r t false fun x y _ => x.mul y

/-- VCMULJ (R248). -/
def execVcmulj (d a b : BitVec 5) (m : BitVec 3) (f : BitVec 4) (r : BitVec 2) (t : BitVec 1) (s : State) :
    Host.Outcome State Fault Refusal := micro s [d, a, b] fun u => cplxBin u d a b m f r t false fun x y _ => x.mulj y

/-- VCFMA: a · b + d (R248). -/
def execVcfma (d a b : BitVec 5) (m : BitVec 3) (f : BitVec 4) (r : BitVec 2) (t : BitVec 1) (s : State) :
    Host.Outcome State Fault Refusal := micro s [d, a, b] fun u => cplxBin u d a b m f r t true fun x y z => (x.mul y).add z

/-- VCONJ (R248). -/
def execVconj (d a : BitVec 5) (m : BitVec 3) (f : BitVec 4) (s : State) : Host.Outcome State Fault Refusal :=
  micro s [d, a] fun u => cplxUn u d a m f 0 0 CNum.conj

/-- VCABS2 (R248). -/
def execVcabs2 (d a : BitVec 5) (m : BitVec 3) (f : BitVec 4) (r : BitVec 2) (t : BitVec 1) (s : State) :
    Host.Outcome State Fault Refusal := micro s [d, a] fun u => cplxUn u d a m f r t CNum.abs2

/-- VCROT: a · iᵏ (R248). -/
def execVcrot (d a : BitVec 5) (k : BitVec 2) (m : BitVec 3) (f : BitVec 4) (s : State) : Host.Outcome State Fault Refusal :=
  micro s [d, a] fun u => cplxUn u d a m f 0 0 (CNum.rot k.toNat)

/-- VTWID: twiddle factors (R257). -/
def twidRes (u : UEnv) (d a l : BitVec 5) (m : BitVec 3) (f : BitVec 4) (inv : BitVec 1) : Except Flt (Ctx × BitVec 3) :=
  let n := f.toNat
  let p := (partOf n).getD 1
  let va := u.c.vreg a
  checkedU [tagBad u.cb u.st va [11] 1 false] <|
    u.c.putElems d n (anaOf u.c [a]) <|
      eachElem u.c (u.c.mask m) (fmtWidth n) 0 true (fun _ => true) fun j _ _ =>
        let (x, y) := twiddle p l.toNat (elemAt 32 va.data j) (inv == 1)
        (x + y * 2 ^ fmtWidth p, 0)

/-- VTWID (R257). -/
def execVtwid (d a l : BitVec 5) (m : BitVec 3) (f : BitVec 4) (v : BitVec 1) (s : State) : Host.Outcome State Fault Refusal :=
  micro s [d, a] fun u => twidRes u d a l m f v

/-! ### Conversion and quantisation (R249 to R251) -/

/-- Every real and complex format. -/
def allFmts : List Nat := (List.range 14).map (· + 1)

/-- Where destination element `j` comes from (R249), for element counts of source and destination. -/
def partSource (ns nd part j : Nat) : Option Nat :=
  if ns ≤ nd then (if part * ns ≤ j ∧ j < part * ns + ns then some (j - part * ns) else none) else some (part * nd + j)

/-- PART is within its limit (R249). -/
def partOk (ns nd part : Nat) : Bool := decide (part < (if ns ≤ nd then nd / ns else ns / nd))

/-- MISUSE 0x1C at a step (R381). -/
def stepMisuse (u : UEnv) : Flt := misuse 0x1C u.st 0

/-- VCVT (R249). A source element that goes to no active destination element is not read for I4RES (entry 107). -/
def cvtRes (u : UEnv) (d a : BitVec 5) (part : BitVec 4) (m : BitVec 3) (f : BitVec 4) (r : BitVec 2) (t : BitVec 1) :
    Except Flt (Ctx × BitVec 3) :=
  let n := f.toNat
  let va := u.c.vreg a
  let sf := tagFmt va.tag
  let ns := fmtCount sf
  let nd := fmtCount n
  let cb := cbOf u.cb va
  let cplx := (partOf n).isSome
  let src := fun j => (partSource ns nd part.toNat j).getD 0
  checkedU [fltIf (allFmts.contains sf && (partOf sf).isSome == cplx && !partOk ns nd part.toNat) (stepMisuse u),
      tagBad u.cb u.st va allFmts 1 false, fltIf ((partOf sf).isSome != cplx) (tagFlt va.tag 1 1 u.st)] <|
    u.c.putElems d n (tagAna va.tag) <|
      eachElem u.c (u.c.mask m) (fmtWidth n) r cplx (fun j => (partSource ns nd part.toNat j).isSome) fun j g1 g2 =>
        let x := valueAt cb va true (src j)
        let y := if cplx then roundCplx n r (t == 1) g1 g2 x else roundReal 0 n r (t == 1) g1 x.1
        (y.1, y.2 ||| i4res va (src j))

/-- VCVT (R249). -/
def execVcvt (d a : BitVec 5) (p : BitVec 4) (m : BitVec 3) (f : BitVec 4) (r : BitVec 2) (t : BitVec 1) (s : State) :
    Host.Outcome State Fault Refusal := micro s [d, a] fun u => cvtRes u d a p m f r t

/-- The block scales that VQNT writes: for each block with a destination element, from the largest active magnitude
(R250). -/
def qntScales (u : UEnv) (va : VReg) (ns nd part : Nat) (k : BitVec 64) (f : Nat) : List (Option Nat) :=
  (List.range 16).map fun b =>
    if 32 * b < nd ∧ (partSource ns nd part (32 * b)).isSome then
      some (chooseScale ((List.range 32).foldl (fun a i =>
        let j := 32 * b + i
        if active k (fmtWidth f) j then maxMag a (valueAt (cbOf u.cb va) va false ((partSource ns nd part j).getD 0)).1 else a)
        .zero) f)
    else none

/-- VQNT (R250). -/
def qntRes (u : UEnv) (d a : BitVec 5) (part : BitVec 4) (m : BitVec 3) (f : BitVec 4) (r : BitVec 2) :
    Except Flt (Ctx × BitVec 3) :=
  let n := f.toNat
  let va := u.c.vreg a
  let vd := u.c.vreg d
  let ns := fmtCount (tagFmt va.tag)
  let nd := fmtCount n
  let p := part.toNat
  let k := u.c.mask m
  let scales := qntScales u va ns nd p k n
  let e := eachElem u.c k (fmtWidth n) r false (fun j => (partSource ns nd p j).isSome) fun j g _ =>
    let x := (valueAt 0 va false ((partSource ns nd p j).getD 0)).1
    match e8m0 ((scales.getD (j / 32) none).getD 127) with
    | none => roundReal 0 n r true g .nan
    | some i => roundReal 0 n r true g (x.scale (-i))
  let bs := packElems 8 ((scales.zipIdx).map fun q => q.1.getD (fldN vd.bs (8 * q.2) 8))
  let (c, fl) := u.c.putElems d n (tagAna va.tag) e
  checkedU [fltIf ([1, 2, 3, 4].contains (tagFmt va.tag) && !partOk ns nd p) (stepMisuse u), tagBad u.cb u.st va [1, 2, 3, 4] 1 false]
    (c.setVreg d { c.vreg d with tag := mkTag n true (tagTsp va.tag) (tagAna va.tag) 0, ts := va.ts, bs := bs.setWidth 128 }, fl)

/-- VQNT (R250). -/
def execVqnt (d a : BitVec 5) (p : BitVec 4) (m : BitVec 3) (f : BitVec 4) (r : BitVec 2) (s : State) :
    Host.Outcome State Fault Refusal := micro s [d, a] fun u => qntRes u d a p m f r

/-- VCVTCB (R251). -/
def execVcvtcb (d a : BitVec 5) (p : BitVec 2) (cb m : BitVec 3) (_r : BitVec 2) (_t : BitVec 1) (s : State) :
    Host.Outcome State Fault Refusal :=
  micro s [d, a] fun u =>
    let va := u.c.vreg a
    let tb := (u.cb cb.toNat).getD 0
    let e := eachElem u.c (u.c.mask m) 4 0 false (fun j => j / 128 == p.toNat) fun j _ _ => nearest tb (realAt 2 va (j % 128))
    let (c, fl) := u.c.putElems d 10 (tagAna va.tag) e
    checkedU [tagBad u.cb u.st va [2] 1 true, fltIf (u.cb cb.toNat).isNone (tagFlt va.tag 3 3 u.st)]
      (c.setVreg d { c.vreg d with tag := mkTag 10 false false (tagAna va.tag) cb }, fl)

/-- VCPK: element j := (a[j], b[j]) (R251). -/
def execVcpk (d a b : BitVec 5) (m : BitVec 3) (f : BitVec 4) (s : State) : Host.Outcome State Fault Refusal :=
  micro s [d, a, b] fun u =>
    let n := f.toNat
    let p := (partOf n).getD 1
    let va := u.c.vreg a
    let vb := u.c.vreg b
    checkedU [tagBad u.cb u.st va [p] 1 false, tagBad u.cb u.st vb [p] 2 false] <|
      u.c.putElems d n (anaOf u.c [a, b]) <|
        eachElem u.c (u.c.mask m) (fmtWidth n) 0 true (fun _ => true) fun j _ _ =>
          roundCplx n 0 false 0 0 ((valueAt 0 va true j).1, (valueAt 0 vb true j).1)

/-- VCRE and VCIM: one part of a complex register, +0 above the complex count (R251). Under SR every active element
draws, the exact parts and the +0 above the complex count too: the model's choice (entry 108). -/
def partRes (u : UEnv) (d a : BitVec 5) (m : BitVec 3) (f : BitVec 4) (r : BitVec 2) (t : BitVec 1) (g : CNum → Num) :
    Except Flt (Ctx × BitVec 3) :=
  let n := f.toNat
  let cf := match n with | 8 => 12 | 2 => 13 | _ => 14
  let va := u.c.vreg a
  checkedU [tagBad u.cb u.st va [cf] 1 false] <|
    u.c.putElems d n (anaOf u.c [a]) <|
      eachElem u.c (u.c.mask m) (fmtWidth n) r false (fun _ => true) fun j w _ =>
        if j < fmtCount cf then roundReal 0 n r (t == 1) w (g (valueAt 0 va true j)) else (0, 0)

/-- VCRE (R251). -/
def execVcre (d a : BitVec 5) (m : BitVec 3) (f : BitVec 4) (r : BitVec 2) (t : BitVec 1) (s : State) :
    Host.Outcome State Fault Refusal := micro s [d, a] fun u => partRes u d a m f r t Prod.fst

/-- VCIM (R251). -/
def execVcim (d a : BitVec 5) (m : BitVec 3) (f : BitVec 4) (r : BitVec 2) (t : BitVec 1) (s : State) :
    Host.Outcome State Fault Refusal := micro s [d, a] fun u => partRes u d a m f r t Prod.snd

/-! ### Reductions (R77, R252) -/

/-- One level of the pairwise tree (R77); an absent item passes its partner up. -/
def treeLevel {α : Type} (f : α → α → α × BitVec 3) : List (Option α) → List (Option α) × BitVec 3
  | a :: b :: l =>
    let (r, fl) := treeLevel f l
    match a, b with
    | some x, some y => let (z, g) := f x y; (some z :: r, fl ||| g)
    | some x, none => (some x :: r, fl)
    | none, y => (y :: r, fl)
  | l => (l, 0)

/-- The pairwise tree (R77), over at most 2^k items. -/
def tree {α : Type} (f : α → α → α × BitVec 3) : Nat → List (Option α) → BitVec 3 → Option α × BitVec 3
  | 0, l, fl => (l.head?.bind id, fl)
  | k + 1, l, fl =>
    if l.length ≤ 1 then (l.head?.bind id, fl)
    else let (l', g) := treeLevel f l; tree f k l' (fl ||| g)

/-- Round under RNE into a reduction's format, as a value. -/
def rneVal (f : Nat) (sat : Bool) (x : Num) : Num × BitVec 3 :=
  let (b, fl) := roundReal 0 f 0 sat 0 x
  (decodeReal 0 f b, fl)

/-- Wrap or clamp to INT32, as a value. -/
def int32Val (sat : Bool) (i : Int) : Int × BitVec 3 :=
  let (b, fl) := intResult 32 sat i
  (intOf 32 b, fl)

/-- vd receives a reduction's result in element 0, +0 elsewhere (R252). -/
def Ctx.putReduced (c : Ctx) (d : BitVec 5) (f : Nat) (ana : Bool) (r : Nat × BitVec 3) : Ctx × BitVec 3 :=
  (c.setVreg d { c.vreg d with data := BitVec.ofNat 2048 (r.1 % 2 ^ fmtWidth f), tag := mkTag f false false ana 0, ts := 0x3F800000 }, r.2)

/-- Source formats of a reduction (R252). -/
def redSources (f : Nat) : List Nat := if f = 1 then [1, 2, 3] else [f]

/-- A reduction of one operand (R252): `sum` masks with +0, the others leave inactive elements out. `fi` and `ff` combine
integers and floating-point values. -/
def reduce (u : UEnv) (d a : BitVec 5) (m : BitVec 3) (f : BitVec 4) (t : BitVec 1) (sum abs : Bool)
    (fi : Int → Int → Int × BitVec 3) (ff : Num → Num → Num × BitVec 3) : Except Flt (Ctx × BitVec 3) :=
  let n := f.toNat
  let va := u.c.vreg a
  let sf := tagFmt va.tag
  let w := fmtWidth sf
  let k := u.c.mask m
  let js := List.range (2048 / w)
  let sat := t == 1
  let any := js.any (active k w)
  checkedU [tagBad u.cb u.st va (redSources n) 1 true] <|
    u.c.putReduced d n (anaOf u.c [a]) <|
      if !any then (0, 0)
      else if n = 11 then
        let (r, fl) := tree fi 16 (js.map fun j =>
          if active k w j then some (if abs then ((intAt 32 va j).natAbs : Int) else intAt 32 va j) else if sum then some 0 else none) 0
        let (b, g) := intResult 32 sat (r.getD 0)
        (b, fl ||| g)
      else
        let (r, fl) := tree ff 16 (js.map fun j =>
          if active k w j then some (if abs then (realAt sf va j).abs else realAt sf va j) else if sum then some .zero else none) 0
        let (b, g) := roundReal 0 n 0 sat 0 (r.getD .zero)
        (b, fl ||| g)

/-- VRSUM (R252). -/
def execVrsum (d a : BitVec 5) (m : BitVec 3) (f : BitVec 4) (t : BitVec 1) (s : State) : Host.Outcome State Fault Refusal :=
  micro s [d, a] fun u => reduce u d a m f t true false (fun x y => int32Val (t == 1) (x + y)) (fun x y => rneVal f.toNat (t == 1) (x.add y))

/-- VRMAX (R252). -/
def execVrmax (d a : BitVec 5) (m : BitVec 3) (f : BitVec 4) (t : BitVec 1) (s : State) : Host.Outcome State Fault Refusal :=
  micro s [d, a] fun u => reduce u d a m f t false false (fun x y => (if x ≤ y then y else x, 0)) (fun x y => (x.pick true y, 0))

/-- VRMIN (R252). -/
def execVrmin (d a : BitVec 5) (m : BitVec 3) (f : BitVec 4) (t : BitVec 1) (s : State) : Host.Outcome State Fault Refusal :=
  micro s [d, a] fun u => reduce u d a m f t false false (fun x y => (if x ≤ y then x else y, 0)) (fun x y => (x.pick false y, 0))

/-- VRAMAX: the maximum of |a| (R252). -/
def execVramax (d a : BitVec 5) (m : BitVec 3) (f : BitVec 4) (t : BitVec 1) (s : State) : Host.Outcome State Fault Refusal :=
  micro s [d, a] fun u => reduce u d a m f t false true (fun x y => (if x ≤ y then y else x, 0)) (fun x y => (x.pick true y, 0))

/-- The products of VRDOT with the flags of their rounding (R252). -/
def dotItems {α : Type} (k : BitVec 64) (w : Nat) (zero : α) (p : Nat → α × BitVec 3) : List (Option α) × BitVec 3 :=
  let l := (List.range (2048 / w)).map fun j => if active k w j then p j else (zero, 0)
  (l.map fun e => some e.1, l.foldl (fun fl e => fl ||| e.2) 0)

/-- VRDOT: Σ RNE(a·b, FMT) (R252). -/
def dotRes (u : UEnv) (d a b : BitVec 5) (m : BitVec 3) (f : BitVec 4) (t : BitVec 1) : Except Flt (Ctx × BitVec 3) :=
  let n := f.toNat
  let va := u.c.vreg a
  let vb := u.c.vreg b
  let sf := tagFmt va.tag
  let w := fmtWidth sf
  let k := u.c.mask m
  let sat := t == 1
  checkedU [tagBad u.cb u.st va (redSources n) 1 true, tagBad u.cb u.st vb (redSources n) 2 true,
      fltIf (sf != tagFmt vb.tag) (tagFlt vb.tag 2 6 u.st)] <|
    u.c.putReduced d n (anaOf u.c [a, b]) <|
      if !(List.range (2048 / w)).any (active k w) then (0, 0)
      else if n = 11 then
        let (l, g) := dotItems k w (0 : Int) fun j => int32Val sat (intAt 32 va j * intAt 32 vb j)
        let (r, fl) := tree (fun x y => int32Val sat (x + y)) 16 l g
        let (o, h) := intResult 32 sat (r.getD 0)
        (o, fl ||| h)
      else
        let (l, g) := dotItems k w Num.zero fun j => rneVal n sat ((realAt sf va j).mul (realAt sf vb j))
        let (r, fl) := tree (fun x y => rneVal n sat (x.add y)) 16 l g
        let (o, h) := roundReal 0 n 0 sat 0 (r.getD .zero)
        (o, fl ||| h)

/-- VRDOT (R252). -/
def execVrdot (d a b : BitVec 5) (m : BitVec 3) (f : BitVec 4) (t : BitVec 1) (s : State) : Host.Outcome State Fault Refusal :=
  micro s [d, a, b] fun u => dotRes u d a b m f t

/-! ### Permutes (R253) -/

/-- A permute: `src` gives for a destination lane whether it comes from vb, and the lane. -/
def permRes (u : UEnv) (d a : BitVec 5) (b : Option (BitVec 5)) (m : BitVec 3) (extra : List (Option Flt)) (ana : Bool)
    (src : Nat → Bool × Nat) : Except Flt (Ctx × BitVec 3) :=
  let va := u.c.vreg a
  let vb := match b with | some b => u.c.vreg b | none => va
  let new := packElems 32 ((List.range 64).map fun l => elemAt 32 (if (src l).1 then vb else va).data (src l).2)
  checkedU ([fltIf (tagBsp va.tag) (tagFlt va.tag 1 4 u.st), fltIf (tagBsp vb.tag) (tagFlt vb.tag 2 4 u.st)] ++ extra)
    (u.c.setVreg d { u.c.vreg d with data := mergeLanes (u.c.mask m) (u.c.vreg d).data new, ts := va.ts,
                                     tag := if ana then va.tag ||| 0x80 else va.tag }, 0)

/-- The tags of two sources must be equal (R253). -/
def sameTags (u : UEnv) (a b : BitVec 5) : List (Option Flt) :=
  [fltIf ((u.c.vreg a).tag != (u.c.vreg b).tag) (tagFlt (u.c.vreg b).tag 2 6 u.st)]

/-- VPERM: lane b[l] mod 64 of va (R253). -/
def execVperm (d a b : BitVec 5) (m : BitVec 3) (s : State) : Host.Outcome State Fault Refusal :=
  micro s [d, a, b] fun u => permRes u d a (some b) m [tagBad u.cb u.st (u.c.vreg b) [11] 2 false] (tagAna (u.c.vreg b).tag)
    fun l => (false, elemAt 32 (u.c.vreg b).data l % 64)

/-- VROT (R253). -/
def execVrot (d a : BitVec 5) (m : BitVec 3) (k : BitVec 6) (s : State) : Host.Outcome State Fault Refusal :=
  micro s [d, a] fun u => permRes u d a none m [] false fun l => (false, (l + k.toNat) % 64)

/-- VZIPL (R253). -/
def execVzipl (d a b : BitVec 5) (m : BitVec 3) (s : State) : Host.Outcome State Fault Refusal :=
  micro s [d, a, b] fun u => permRes u d a (some b) m (sameTags u a b) false fun l => (l % 2 == 1, l / 2)

/-- VZIPH (R253). -/
def execVziph (d a b : BitVec 5) (m : BitVec 3) (s : State) : Host.Outcome State Fault Refusal :=
  micro s [d, a, b] fun u => permRes u d a (some b) m (sameTags u a b) false fun l => (l % 2 == 1, 32 + l / 2)

/-- VUZPE (R253). -/
def execVuzpe (d a b : BitVec 5) (m : BitVec 3) (s : State) : Host.Outcome State Fault Refusal :=
  micro s [d, a, b] fun u => permRes u d a (some b) m (sameTags u a b) false fun l => (decide (32 ≤ l), 2 * (l % 32))

/-- VUZPO (R253). -/
def execVuzpo (d a b : BitVec 5) (m : BitVec 3) (s : State) : Host.Outcome State Fault Refusal :=
  micro s [d, a, b] fun u => permRes u d a (some b) m (sameTags u a b) false fun l => (decide (32 ≤ l), 2 * (l % 32) + 1)

/-- VBCST: lane k of va (R253). -/
def execVbcst (d a : BitVec 5) (m : BitVec 3) (k : BitVec 6) (s : State) : Host.Outcome State Fault Refusal :=
  micro s [d, a] fun u => permRes u d a none m [] false fun _ => (false, k.toNat)

/-! ### Lane masks (R254) -/

/-- A mask row. -/
def maskRes (s : State) (d m : BitVec 3) (f : Ctx → BitVec 64) : Host.Outcome State Fault Refusal :=
  micro s [] fun u => .ok (u.c.putMask d m (f u.c), 0)

/-- MAND (R254). -/
def execMand (d a b m : BitVec 3) (s : State) : Host.Outcome State Fault Refusal := maskRes s d m fun c => c.mask a &&& c.mask b

/-- MOR (R254). -/
def execMor (d a b m : BitVec 3) (s : State) : Host.Outcome State Fault Refusal := maskRes s d m fun c => c.mask a ||| c.mask b

/-- MXOR (R254). -/
def execMxor (d a b m : BitVec 3) (s : State) : Host.Outcome State Fault Refusal := maskRes s d m fun c => c.mask a ^^^ c.mask b

/-- MANDN (R254). -/
def execMandn (d a b m : BitVec 3) (s : State) : Host.Outcome State Fault Refusal :=
  maskRes s d m fun c => c.mask a &&& ~~~(c.mask b)

/-- MNOT (R254). -/
def execMnot (d a m : BitVec 3) (s : State) : Host.Outcome State Fault Refusal := maskRes s d m fun c => ~~~(c.mask a)

/-- MFIRST: bit l := l < n (R254). -/
def execMfirst (d m : BitVec 3) (n : BitVec 7) (s : State) : Host.Outcome State Fault Refusal :=
  maskRes s d m fun _ => BitVec.ofNat 64 (2 ^ n.toNat - 1)

/-- VMPOP: element 0 := the number of true bits, as INT32 (R254); TS, BS and ANA by entry 111. -/
def execVmpop (d : BitVec 5) (a _m : BitVec 3) (s : State) : Host.Outcome State Fault Refusal :=
  micro s [d] fun u =>
    .ok (u.c.putReduced d 11 false (((List.range 64).filter fun l => bit (u.c.mask a) l).length, 0))

/-- MFROMV: bit l := lane l ≠ 0 (R254). -/
def execMfromv (d : BitVec 3) (a : BitVec 5) (m : BitVec 3) (s : State) : Host.Outcome State Fault Refusal :=
  micro s [a] fun u => .ok (u.c.putMask d m (laneBits 32 fun l => elemAt 32 (u.c.vreg a).data l != 0), 0)

end Sys2Proof.Machine
end

