-- ==== Sys2Proof/Machine/Table.lean ====
section
/-! DEFINITION. VXE: the run commands (R234 to R241), table loops (R242), memory micro-orders (R255, R256), the deferral
ring and drain runs (R258, R259, R402), and the step of a table run. -/
namespace Sys2Proof.Machine

open Bits

/-! ### Memory micro-orders (R255) -/

/-- What a micro-order that accesses memory comes to. -/
inductive URes where
  | ok (s : State)
  | fault (s : State) (f : Flt)
  | stall

/-- Perform a micro-order that accesses memory or a ring; effects of units before a failing one stay (R389). -/
def microMem (s : State) (rs : List (BitVec 5)) (f : CtxId → Run → Fin 4 → UEnv → URes) : Host.Outcome State Fault Refusal :=
  let x := s.core.vx
  let c := s.cx x
  match s.run x .vxe with
  | none => .next s
  | some r => match r.x with
    | .table t step _ _ _ _ _ =>
      match rs.find? (lentReg (runLent c r)) with
      | some v => .next (unitFault s x .vxe (misuse 0x11 v.toNat 0))
      | none => match s.core.flaw.bind (microFlaw s x rs) with
        | some u => .next u
        | none => match f x r t ⟨c, cbSeen s x r, step⟩ with
          | .stall => .next s
          | .fault s' e => .next (unitFault s' x .vxe e)
          | .ok s' => .next (microNext s' x t.val step 0 .next)
    | _ => .next s

/-- Base register B[t,b]. -/
def Ctx.vbase (c : Ctx) (t : Fin 4) (b : BitVec 2) : VBase := (c.v.tables.get t).bases[b.toNat]'b.isLt

/-- Set the address of B[t,b]. -/
def Ctx.setVbase (c : Ctx) (t : Fin 4) (b : BitVec 2) (f : VBase → VBase) : Ctx :=
  let k := c.v.tables.get t
  let k' := { k with bases := k.bases.set b.toNat (f (c.vbase t b)) b.isLt }
  { c with v := { c.v with tables := c.v.tables.set t.val k' } }

/-- Contiguous active lanes: first lane and length. -/
def laneRuns (k : BitVec 64) : List (Nat × Nat) :=
  ((List.range 64).foldl (fun (l : List (Nat × Nat)) i =>
    if bit k i then
      match l with
      | (a, n) :: r => if a + n = i then (a, n + 1) :: r else (i, 1) :: (a, n) :: r
      | [] => [(i, 1)]
    else l) []).reverse

/-- The signed offset of a block micro-order in bytes (R255). -/
def blockOff (u : Nat) (o : BitVec 12) : VAddr := BitVec.ofInt 56 (o.toInt * u)

/-- The address of a block micro-order: B + U·off12, or B where INC = 1 (R255). -/
def blockAddr (b : VBase) (i : BitVec 1) (u : Nat) (o : BitVec 12) : VAddr := if i = 1 then b.addr else b.addr + blockOff u o

/-- INC (R255). -/
def incBase (s : State) (x : CtxId) (t : Fin 4) (b : BitVec 2) (i : BitVec 1) (u : Nat) (o : BitVec 12) : State :=
  if i = 1 then s.modCx x fun c => c.setVbase t b fun v => { v with addr := v.addr + blockOff u o } else s

/-- Lane addresses of a gather or scatter (R255). -/
def laneAddrs (k : BitVec 64) (b : VBase) (vi : VReg) : List (Nat × VAddr) :=
  ((List.range 64).filter (bit k ·)).map fun l => (l, b.addr + BitVec.ofNat 56 (4 * elemAt 32 vi.data l))

/-- The first access fault of some ranges. -/
def rangesFault (s : State) (x : CtxId) (kind : Nat) (l : List (VAddr × Nat)) : Option Flt :=
  l.findSome? fun e => (pieces (e.2 / 64 + 2) e.1.toNat e.2).findSome? fun p =>
    match unitCheck s x kind (BitVec.ofNat 56 p.1) with | .error f => some f | .ok _ => none

/-- Read ranges for lanes: the bytes of each, or the first fault; a watermark stalls the run (R203). -/
def readRanges (s : State) (x : CtxId) (l : List (VAddr × Nat)) : Except (Option Flt) (State × List (List Byte)) :=
  match rangesFault s x 5 l with
  | some f => .error (some f)
  | none =>
    if l.any fun e => wmStall (s.cx x) e.1.toNat e.2 then .error none
    else l.foldl (fun r e => match r with
      | .error f => .error f
      | .ok (s, bs) => match engReadAll s x true e.1 e.2 with
        | .error f => .error (some f)
        | .ok (s, b) => .ok (s, bs ++ [b])) (.ok (s, []))

/-- Write ranges in order; a VST (`wm`) into an armed channel at or above its watermark is not performed (R395, reason 2). -/
def writeRanges (s : State) (x : CtxId) (wm : Bool) (seq : Word) (l : List (VAddr × List Byte)) : State × Option Flt :=
  l.foldl (fun r e => match r with
    | (s, some f) => (s, some f)
    | (s, none) =>
      match rangesFault s x 6 [(e.1, e.2.length)] with
      | some f =>
        -- units before the failing one stay
        match engWriteAll s x .vxe seq e.1 e.2 with | (s, some g) => (s, some g) | (s, none) => (s, some f)
      | none =>
        if wm && (inPins (s.cx x) e.1).isNone && wmForbids (s.cx x) e.1.toNat e.2.length then (s, some (queueFlt 2 e.1))
        else engWriteAll s x .vxe seq e.1 e.2) (s, none)

/-- A result of writes, with what follows when none failed. -/
def afterWrites (r : State × Option Flt) (g : State → State) : URes :=
  match r with | (s, some f) => .fault s f | (s, none) => .ok (g s)

/-- A result of reads. -/
def afterReads (s : State) (r : Except (Option Flt) (State × List (List Byte))) (g : State → List (List Byte) → State) : URes :=
  match r with
  | .error none => .stall
  | .error (some f) => .fault s f
  | .ok (s, bs) => .ok (g s bs)

/-- Lanes of `vd` receive words of bytes, with a load tag (R255). -/
def loadLanes (c : Ctx) (d : BitVec 5) (tag : BitVec 16) (l : List (Nat × Nat)) : Ctx :=
  let v := c.vreg d
  c.setVreg d { v with data := mergeElems 32 v.data ((List.range 64).map fun i => (l.find? (·.1 == i)).map (·.2)), tag := tag }

/-- The words of a run of lanes from its bytes. -/
def laneWords (first n : Nat) (bs : List Byte) : List (Nat × Nat) :=
  (List.range n).map fun i => (first + i, ofBytes ((bs.drop (4 * i)).take 4))

/-- The bytes of a run of lanes. -/
def laneBytes (v : VReg) (first n : Nat) : List Byte :=
  (List.range n).flatMap fun i => toBytes (BitVec.ofNat 32 (elemAt 32 v.data (first + i))) 4

/-- VLD (R255). -/
def execVld (d : BitVec 5) (i : BitVec 1) (c : BitVec 2) (o : BitVec 12) (m : BitVec 3) (s : State) :
    Host.Outcome State Fault Refusal :=
  microMem s [d] fun x _ t u =>
    let b := u.c.vbase t c
    let a := blockAddr b i 256 o
    let l := laneRuns (u.c.mask m)
    match alignFlt s x 64 5 a with
    | some f => .fault s f
    | none => afterReads s (readRanges s x (l.map fun e => (a + BitVec.ofNat 56 (4 * e.1), 4 * e.2))) fun s bs =>
      incBase (s.modCx x fun k => loadLanes k d b.tag ((l.zip bs).flatMap fun e => laneWords e.1.1 e.1.2 e.2)) x t c i 256 o

/-- VST (R255). -/
def execVst (r : BitVec 5) (i : BitVec 1) (c : BitVec 2) (o : BitVec 12) (m : BitVec 3) (s : State) :
    Host.Outcome State Fault Refusal :=
  microMem s [r] fun x run t u =>
    let a := blockAddr (u.c.vbase t c) i 256 o
    let v := u.c.vreg r
    match alignFlt s x 64 6 a with
    | some f => .fault s f
    | none => afterWrites (writeRanges s x true run.seq ((laneRuns (u.c.mask m)).map fun e =>
      (a + BitVec.ofNat 56 (4 * e.1), laneBytes v e.1 e.2))) fun s => incBase s x t c i 256 o

/-- VLDG (R255). -/
def execVldg (d : BitVec 5) (c : BitVec 2) (vi : BitVec 5) (m : BitVec 3) (s : State) : Host.Outcome State Fault Refusal :=
  microMem s [d, vi] fun x _ t u =>
    let b := u.c.vbase t c
    let l := laneAddrs (u.c.mask m) b (u.c.vreg vi)
    match tagBad u.cb u.st (u.c.vreg vi) [11] 2 false with
    | some f => .fault s f
    | none => match l.findSome? (fun e => alignFlt s x 4 5 e.2) with
      | some f => .fault s f
      | none => afterReads s (readRanges s x (l.map fun e => (e.2, 4))) fun s bs =>
          -- the indices are interpreted: their analogue origin passes on (R69)
          s.modCx x fun k => loadLanes k d (b.tag ||| if anaOf u.c [vi] then 0x80 else 0)
            ((l.zip bs).flatMap fun e => laneWords e.1.1 1 e.2)

/-- VSCT: active lanes stored in ascending order (R255). -/
def execVsct (r : BitVec 5) (c : BitVec 2) (vi : BitVec 5) (m : BitVec 3) (s : State) : Host.Outcome State Fault Refusal :=
  microMem s [r, vi] fun x run t u =>
    let l := laneAddrs (u.c.mask m) (u.c.vbase t c) (u.c.vreg vi)
    match tagBad u.cb u.st (u.c.vreg vi) [11] 2 false with
    | some f => .fault s f
    | none => match l.findSome? (fun e => alignFlt s x 4 6 e.2) with
      | some f => .fault s f
      | none => afterWrites (writeRanges s x false run.seq (l.map fun e => (e.2, laneBytes (u.c.vreg r) e.1 1))) id

/-- VLDBS: BS of vd := 16 bytes (R255). -/
def execVldbs (d : BitVec 5) (i : BitVec 1) (c : BitVec 2) (o : BitVec 12) (s : State) : Host.Outcome State Fault Refusal :=
  microMem s [d] fun x _ t u =>
    let a := blockAddr (u.c.vbase t c) i 16 o
    match alignFlt s x 16 5 a with
    | some f => .fault s f
    | none => afterReads s (readRanges s x [(a, 16)]) fun s bs =>
      incBase (s.modCx x fun k => k.setVreg d { k.vreg d with bs := BitVec.ofNat 128 (ofBytes (bs.flatMap id)) }) x t c i 16 o

/-- VSTBS: stores BS of vs (R255). -/
def execVstbs (r : BitVec 5) (i : BitVec 1) (c : BitVec 2) (o : BitVec 12) (_m : BitVec 3) (s : State) :
    Host.Outcome State Fault Refusal :=
  microMem s [r] fun x run t u =>
    let a := blockAddr (u.c.vbase t c) i 16 o
    match alignFlt s x 16 6 a with
    | some f => .fault s f
    | none => afterWrites (writeRanges s x false run.seq [(a, toBytes (u.c.vreg r).bs 16)]) fun s => incBase s x t c i 16 o

/-! ### The deferral ring (R258, R402) -/

/-- DEFER with its reason (R390, R402). -/
def deferFlt (reason : Nat) (a : VAddr) : Flt := ⟨0x1C, fld a 0 48 ++ 0#8 ++ BitVec.ofNat 8 reason⟩

/-- The ring header of a context: HEAD and TAIL as read, or the fault of R402. -/
def ringHeader (s : State) (x : CtxId) : Except Flt (State × Nat × Nat) :=
  let a := va56 (s.cx x).v.dqbase
  match unitCheck s x 5 a with
  | .error f => .error f
  | .ok t =>
    if (inPins (s.cx x) a).isNone ∧ ((s.cx x).v.dqbase.toNat % 64 ≠ 0 ∨ rowOf t.pa.toNat ≠ .vault (ownCol s)) then .error (deferFlt 2 a)
    else match engReadAll s x true a 16 with
    | .error f => .error f
    | .ok (s, bs) =>
      let h := dfield bs 0 8
      let t := dfield bs 8 8
      if t < h ∨ 4096 < t - h then .error (deferFlt 3 a) else .ok (s, h, t)

/-- The address of ring entry `i`. -/
def ringEntry (c : Ctx) (i : Nat) : VAddr := va56 c.v.dqbase + BitVec.ofNat 56 (64 + 32 * (i % 4096))

/-- A store of the running entry. -/
def runWrite (s : State) (x : CtxId) (seq : Word) (a : VAddr) (bs : List Byte) : State × Option Flt :=
  engWriteAll s x .vxe seq a bs

/-- Writes in order, stopping at a fault. -/
def runWrites (s : State) (x : CtxId) (seq : Word) (l : List (VAddr × List Byte)) : State × Option Flt :=
  l.foldl (fun r e => match r with | (s, some f) => (s, some f) | (s, none) => runWrite s x seq e.1 e.2) (s, none)

/-- A ring entry of a lane (R258): INDEX, PATH, NV, the values. -/
def deferEntry (c : Ctx) (p a b : BitVec 5) (nv l : Nat) : List Byte :=
  let word (r : BitVec 5) : List Byte := toBytes (BitVec.ofNat 32 (elemAt 32 (c.vreg r).data l)) 4
  word b ++ [p.setWidth 8, BitVec.ofNat 8 nv, 0, 0] ++
    (List.range 4).flatMap (fun q => if q < nv then word (a + BitVec.ofNat 5 q) else [0, 0, 0, 0]) ++ List.replicate 8 0

/-- The registers that a VDEFER of `nv` values names, where they are in range (R258). -/
def deferRegs (a b : BitVec 5) (nv : Nat) : List (BitVec 5) :=
  if 31 < a.toNat + nv - 1 then [a, b] else b :: (List.range nv).map fun q => a + BitVec.ofNat 5 q

/-- VDEFER (R258, R381, R402). -/
def deferRes (s : State) (x : CtxId) (r : Run) (u : UEnv) (p a b : BitVec 5) (m : BitVec 3) (nv : Nat) : URes :=
  let ls := (List.range 64).filter (bit (u.c.mask m) ·)
  match (if 31 < a.toNat + nv - 1 then some (stepMisuse u) else tagBad u.cb u.st (u.c.vreg b) [11] 2 false) with
  | some f => .fault s f
  | none => match ringHeader s x with
    | .error f => .fault s f
    | .ok (s, h, t) =>
      if 4096 < t - h + ls.length then .fault s (deferFlt 1 (va56 u.c.v.dqbase))
      else
        let ws := ls.zipIdx.flatMap fun e =>
          [(ringEntry u.c (t + e.2), deferEntry u.c p a b nv e.1), (va56 u.c.v.dqbase + 8, w64 (t + e.2 + 1))]
        afterWrites (runWrites s x r.seq ws) fun s => s.modCx x fun c =>
          { c with v := { c.v with dqhead := BitVec.ofNat 64 h, dqtail := BitVec.ofNat 64 (t + ls.length) } }

/-- VDEFER (R258). -/
def execVdefer (p a b : BitVec 5) (m : BitVec 3) (n : BitVec 2) (s : State) : Host.Outcome State Fault Refusal :=
  microMem s (deferRegs a b (n.toNat + 1)) fun x r _ u => deferRes s x r u p a b m (n.toNat + 1)

/-! ### Table loops (R242) -/

/-- Levels would nest wrongly with FIN `f` for level `l` (R162, R381). -/
def tableNest (v : VecState) (l : BitVec 1) (f : Nat) : Bool :=
  if l = 0 then (v.loops.get 1).act && decide ((v.loops.get 1).fin < f)
  else (v.loops.get 0).act && decide (f < (v.loops.get 0).fin)

/-- A control micro-order at a step of a run. -/
def microCtl (s : State) (f : CtxId → Run → Fin 4 → Nat → Except Flt (State × Then)) : Host.Outcome State Fault Refusal :=
  let x := s.core.vx
  match s.run x .vxe with
  | none => .next s
  | some r => match r.x with
    | .table t step _ _ _ _ _ =>
      match f x r t step with
      | .error e => .next (unitFault s x .vxe e)
      | .ok (s', k) => .next (microNext s' x t.val step 0 k)
    | _ => .next s

/-- VLOOP: arms a level; a count of 0 skips the body (R242). -/
def execVloop (l : BitVec 1) (f : BitVec 8) (n : BitVec 10) (s : State) : Host.Outcome State Fault Refusal :=
  microCtl s fun x _ t step =>
    let c := s.cx x
    let count : BitVec 32 := if n = 0 then c.v.rc else n.setWidth 32
    if f.toNat ≤ step ∨ (c.v.tables.get t).len ≤ f.toNat then .error (misuse 0x1A step (f.setWidth 32))
    else if count = 0 then .ok (s, .goto (f.toNat + 1))
    else if tableNest c.v l f.toNat then .error (misuse 0x1A step (f.setWidth 32))
    else .ok (s.setCx x { c with v := { c.v with loops := c.v.loops.set l.toNat ⟨true, count, step, f.toNat⟩ (by have := l.isLt; omega) } }, .next)

/-- VEND: ends the run or batch when a bit of the mask is true (R242). -/
def execVend (m : BitVec 3) (s : State) : Host.Outcome State Fault Refusal :=
  microCtl s fun x _ _ _ => .ok (s, if (s.cx x).mask m = 0 then .next else .finish)

/-! ### The step of a table run (R237, R383) -/

/-- The micro-orders that the table run performs by their fields (R147). -/
def tailExec (w : IWord) (s : State) : Option (Host.Outcome State Fault Refusal) :=
  match (uop w).toNat with
  | 0x73 => if fld (ua w) 2 3 = 0 ∧ umod w = 0 then some (execVsct (ud w) (fld (ua w) 0 2) (ub w) (um w) s) else none
  | 0x74 => if fld (ua w) 3 2 = 0 ∧ um w = 0 then
      some (execVldbs (ud w) (fld (ua w) 2 1) (fld (ua w) 0 2) (ub w ++ umod w) s) else none
  | 0x75 => if fld (ua w) 3 2 = 0 then
      some (execVstbs (ud w) (fld (ua w) 2 1) (fld (ua w) 0 2) (ub w ++ umod w) (um w) s) else none
  | 0x78 => if fld (umod w) 0 2 = 0 ∧ cplxFmt (fld (umod w) 3 4) = true ∧ 1 ≤ (ub w).toNat ∧ (ub w).toNat ≤ 16 then
      some (execVtwid (ud w) (ua w) (ub w) (um w) (fld (umod w) 3 4) (fld (umod w) 2 1) s) else none
  | 0x79 => if fld (umod w) 2 5 = 0 then some (execVdefer (ud w) (ua w) (ub w) (um w) (fld (umod w) 0 2) s) else none
  | 0x7A => if fld w 0 6 = 0 then some (execVloop (fld w 24 1) (fld w 16 8) (fld w 6 10) s) else none
  | 0x7B => if ud w = 0 ∧ ua w = 0 ∧ ub w = 0 ∧ umod w = 0 then some (execVend (um w) s) else none
  | _ => none

/-- The other micro-orders, by their constructor. -/
def headExec (i : Instr) (s : State) : Option (Host.Outcome State Fault Refusal) :=
  match i with
  | .vnop => some (execVnop s)
  | .vmov d a m => some (execVmov d a m s)
  | .vspl d m f => some (execVspl d m f s)
  | .vzero d m f => some (execVzero d m f s)
  | .vidx d m r sf => some (execVidx d m r sf s)
  | .vsel d a b m => some (execVsel d a b m s)
  | .vadd d a b m f r sf => some (execVadd d a b m f r sf s)
  | .vsub d a b m f r sf => some (execVsub d a b m f r sf s)
  | .vmul d a b m f r sf => some (execVmul d a b m f r sf s)
  | .vdiv d a b m f r sf => some (execVdiv d a b m f r sf s)
  | .vfma d a b m f r sf => some (execVfma d a b m f r sf s)
  | .vfnma d a b m f r sf => some (execVfnma d a b m f r sf s)
  | .vmin d a b m f sf => some (execVmin d a b m f sf s)
  | .vmax d a b m f sf => some (execVmax d a b m f sf s)
  | .vabs d a m f => some (execVabs d a m f s)
  | .vneg d a m f => some (execVneg d a m f s)
  | .vsqrt d a m f r sf => some (execVsqrt d a m f r sf s)
  | .vrsq d a m f r sf => some (execVrsq d a m f r sf s)
  | .vrcp d a m f r sf => some (execVrcp d a m f r sf s)
  | .vexp2 d a m f r sf => some (execVexp2 d a m f r sf s)
  | .vlog2 d a m f r sf => some (execVlog2 d a m f r sf s)
  | .vrint d a m f r => some (execVrint d a m f r s)
  | .vfloor d a m f => some (execVfloor d a m f s)
  | .vrelu d a m f => some (execVrelu d a m f s)
  | .vcmpeq d a b m f => some (execVcmpeq d a b m f s)
  | .vcmplt d a b m f => some (execVcmplt d a b m f s)
  | .vcmple d a b m f => some (execVcmple d a b m f s)
  | .viadd d a b m f sf => some (execViadd d a b m f sf s)
  | .visub d a b m f sf => some (execVisub d a b m f sf s)
  | .vimul d a b m f sf => some (execVimul d a b m f sf s)
  | .vimin d a b m f => some (execVimin d a b m f s)
  | .vimax d a b m f => some (execVimax d a b m f s)
  | .viand d a b m f => some (execViand d a b m f s)
  | .vior d a b m f => some (execVior d a b m f s)
  | .vixor d a b m f => some (execVixor d a b m f s)
  | .visll d a b m f => some (execVisll d a b m f s)
  | .visrl d a b m f => some (execVisrl d a b m f s)
  | .visra d a b m f => some (execVisra d a b m f s)
  | .vidot d a b m f sf => some (execVidot d a b m f sf s)
  | .vicmpeq d a b m f => some (execVicmpeq d a b m f s)
  | .vicmplt d a b m f => some (execVicmplt d a b m f s)
  | .vcadd d a b m f r sf => some (execVcadd d a b m f r sf s)
  | .vcsub d a b m f r sf => some (execVcsub d a b m f r sf s)
  | .vcmul d a b m f r sf => some (execVcmul d a b m f r sf s)
  | .vcmulj d a b m f r sf => some (execVcmulj d a b m f r sf s)
  | .vcfma d a b m f r sf => some (execVcfma d a b m f r sf s)
  | .vconj d a m f => some (execVconj d a m f s)
  | .vcabs2 d a m f r sf => some (execVcabs2 d a m f r sf s)
  | .vcrot d a k m f => some (execVcrot d a k m f s)
  | .vcvt d a p m f r sf => some (execVcvt d a p m f r sf s)
  | .vqnt d a p m f r => some (execVqnt d a p m f r s)
  | .vcvtcb d a p c m r sf => some (execVcvtcb d a p c m r sf s)
  | .vcpk d a b m f => some (execVcpk d a b m f s)
  | .vcre d a m f r sf => some (execVcre d a m f r sf s)
  | .vcim d a m f r sf => some (execVcim d a m f r sf s)
  | .vrsum d a m f sf => some (execVrsum d a m f sf s)
  | .vrmax d a m f sf => some (execVrmax d a m f sf s)
  | .vrmin d a m f sf => some (execVrmin d a m f sf s)
  | .vramax d a m f sf => some (execVramax d a m f sf s)
  | .vrdot d a b m f sf => some (execVrdot d a b m f sf s)
  | .vperm d a b m => some (execVperm d a b m s)
  | .vrot d a m k => some (execVrot d a m k s)
  | .vzipl d a b m => some (execVzipl d a b m s)
  | .vziph d a b m => some (execVziph d a b m s)
  | .vuzpe d a b m => some (execVuzpe d a b m s)
  | .vuzpo d a b m => some (execVuzpo d a b m s)
  | .vbcst d a m k => some (execVbcst d a m k s)
  | .mand d a b m => some (execMand d a b m s)
  | .mor d a b m => some (execMor d a b m s)
  | .mxor d a b m => some (execMxor d a b m s)
  | .mandn d a b m => some (execMandn d a b m s)
  | .mnot d a m => some (execMnot d a m s)
  | .mfirst d m n => some (execMfirst d m n s)
  | .vmpop d a m => some (execVmpop d a m s)
  | .mfromv d a m => some (execMfromv d a m s)
  | .vld d i c o m => some (execVld d i c o m s)
  | .vst sf i c o m => some (execVst sf i c o m s)
  | .vldg d c x m => some (execVldg d c x m s)
  | _ => none

/-- The micro-order `w` on the running table; none when it encodes no micro-order (R383). -/
def microExec (w : IWord) (s : State) : Option (Host.Outcome State Fault Refusal) :=
  if tailOp w then tailExec w s
  else match checked (decodeMicroFields w) with
    | .error _ => none
    | .ok i => headExec i s

/-- The state of an outcome; a micro-order always has one. -/
def outState (s : State) : Option (Host.Outcome State Fault Refusal) → State
  | some (.next s') => s'
  | _ => s

/-- A stop request covers the run (R239). -/
def stopAsked (c : Ctx) (t : Fin 4) (seq : Word) : Bool := c.v.stops.any fun q => q.1 == t && decide (seq.toNat < q.2.toNat)

/-- ILLEGAL of a micro-order (R370). -/
def microIllegal (w : IWord) (t : Fin 4) (step : Nat) : Flt := ⟨0x01, 0#22 ++ BitVec.ofNat 2 t.val ++ BitVec.ofNat 8 step ++ w⟩

/-- Mark the entry of an engine done. -/
def markDone (s : State) (x : CtxId) (e : Eng) : State := s.modRun x e ({ · with done := true })

/-! ### Drain runs (R259) -/

/-- PATH of a run word. -/
def runPath (r : Run) : Nat := fldN r.a 16 5
/-- START of a run word. -/
def runStart (r : Run) : Nat := fldN r.a 8 8

/-- The held entries below T0 of the path, not yet taken: position and the 32 bytes. -/
def drainPick (s : State) (x : CtxId) (h t0 path : Nat) (taken : List Nat) : Except Flt (State × List (Nat × List Byte)) :=
  ((List.range (t0 - h)).map (· + h)).foldl (fun r i => match r with
    | .error f => .error f
    | .ok (s, l) =>
      if taken.contains i || decide (64 ≤ l.length) then .ok (s, l)
      else match engReadAll s x true (ringEntry (s.cx x) i) 32 with
        | .error f => .error f
        | .ok (s, d) => .ok (s, if dfield d 4 1 = path then l ++ [(i, d)] else l)) (.ok (s, []))

/-- The registers and the mask of a batch (R259). -/
def drainLoad (c : Ctx) (r : Run) (l : List (Nat × List Byte)) : Ctx :=
  let dv := fldN r.c 0 5
  let di : BitVec 5 := fld r.c 5 5
  let dm : BitVec 3 := fld r.c 10 3
  let lane (off : Nat) : BitVec 2048 := packElems 32 (l.map fun e => dfield e.2 off 4)
  let c := (List.range 4).foldl (fun c q =>
    c.setVreg (BitVec.ofNat 5 (dv + q)) { c.vreg (BitVec.ofNat 5 (dv + q)) with
      data := lane (8 + 4 * q), tag := fld r.c 16 12 |>.setWidth 16, ts := 0x3F800000 }) c
  let c := c.setVreg di { c.vreg di with data := lane 0, tag := mkTag 11 false false false 0, ts := 0x3F800000 }
  { c with v := { c.v with
      masks := if dm = 0 then c.v.masks else c.v.masks.set dm.toNat (BitVec.ofNat 64 (2 ^ l.length - 1)) dm.isLt
      loops := Vector.replicate 2 ⟨false, 0, 0, 0⟩ } }

/-- Compaction (R259): the entries kept, in order, from HEAD on, then the header. -/
def drainCompact (s : State) (x : CtxId) (r : Run) (taken : List Nat) : State :=
  match ringHeader s x with
  | .error f => unitFault s x .vxe f
  | .ok (s, h, t) =>
    let keep := ((List.range (t - h)).map (· + h)).filter fun i => !taken.contains i
    match keep.foldl (fun r i => match r with
        | .error f => .error f
        | .ok (s, l) => match engReadAll s x true (ringEntry (s.cx x) i) 32 with
          | .error f => .error f
          | .ok (s, d) => .ok (s, l ++ [d])) (Except.ok (s, [])) with
    | .error f => unitFault s x .vxe f
    | .ok (s, ds) =>
      let c := s.cx x
      let ws := (ds.zipIdx.map fun e => (ringEntry c (h + e.2), e.1)) ++
        [(va56 c.v.dqbase, w64 h), (va56 c.v.dqbase + 8, w64 (h + ds.length))]
      match runWrites s x r.seq ws with
      | (s, some f) => unitFault s x .vxe f
      | (s, none) => markDone (s.modCx x fun c =>
          { c with v := { c.v with dqhead := BitVec.ofNat 64 h, dqtail := BitVec.ofNat 64 (h + ds.length) } }) x .vxe

/-- Between batches of a drain run (R239, R259): the next batch, or the compaction. -/
def drainBatch (s : State) (x : CtxId) (r : Run) (t : Fin 4) (path : BitVec 5) (t0 : Nat) (taken : List Nat) : State :=
  match ringHeader s x with
  | .error f => unitFault s x .vxe f
  | .ok (s, h, _) =>
    match (if stopAsked (s.cx x) t r.seq then .ok (s, []) else drainPick s x h t0 path.toNat taken) with
    | .error f => unitFault s x .vxe f
    | .ok (s, []) => drainCompact s x r taken
    | .ok (s, l) =>
      (s.modCx x fun c => drainLoad c r l).modRun x .vxe fun r =>
        { r with x := .table t (runStart r) true path t0 (taken ++ l.map (·.1)) (l.map (·.1)) }

/-- Micro-order `w` reads mask `m` (R232, R253): it is its mask, or an operand of a mask operation. -/
def readsMask (w : IWord) (m : BitVec 3) : Bool :=
  let o := (uop w).toNat
  m != 0 && ((o != 0x7A && um w == m) || (decide (0x68 ≤ o) && decide (o ≤ 0x6B) && (fld (ua w) 0 3 == m || fld (ub w) 0 3 == m)) ||
    ((o == 0x6C || o == 0x6E) && fld (ua w) 0 3 == m))

/-- A mask that micro-order `w` reads, or the table that a VCVTCB encodes by, is uncorrectable (R411). -/
def wordFlaw (s : State) (x : CtxId) (w : IWord) (f : Store) : Option State :=
  match f with
  | .mask y m => if y = x ∧ readsMask w m then some (ctxError s x f) else none
  | .codebook t => if uop w = 0x4A ∧ fldN (ub w) 0 3 = t then some (tableError s x .vxe t f) else none
  | _ => none

/-- One unit of a table run (R237): a micro-order, or the turn between batches. -/
def tableStep (s : State) (x : CtxId) (r : Run) : State :=
  match r.x with
  | .table t step drain path t0 taken _ =>
    let c := s.cx x
    if drain && step == batchOver then drainBatch s x r t path t0 taken
    else if !drain && stopAsked c t r.seq then markDone s x .vxe
    else
      let w := (c.v.tables.get t).code.toList.getD step 0
      match s.core.flaw.bind (wordFlaw s x w) with
      | some u => u
      | none => match microExec w s with
      | none => unitFault s x .vxe (microIllegal w t step)
      | some o => outState s (some o)
  | _ => s

/-! ### Commands (R234 to R240) -/

/-- MISUSE 0x1D of a command's word (R381). -/
def wordMisuse (cmd : Nat) (w : Word) : Flt := misuse 0x1D cmd (fld w 0 32)

/-- An operand that must be zero (R180, R234). -/
def zeroOperand (off : Nat) (w : Word) : Option Flt := fltIf (w != 0) (limitFlt off false w)

/-- The checks of a VRUN (R237, R259, R381). -/
def vrunFault (c : Ctx) (r : Run) : Option Flt :=
  let t := fldN r.a 0 2
  let drain := bit r.a 2
  let dv := fldN r.c 0 5
  let lent := runLent c r
  firstFlt ([fltIf (fld r.a 3 5 != 0 || fld r.a 21 43 != 0) (wordMisuse 0 r.a),
    fltIf (drain && (fld r.c 13 3 != 0 || fld r.c 32 32 != 0)) (wordMisuse 0 r.c),
    fltIf (decide ((c.table t).len ≤ runStart r) || (!drain && runPath r != 0) ||
      (drain && (fld r.c 10 3 == 0 || decide (31 < dv + 3)))) (misuse 0x1B t (fld r.a 0 32))] ++
    if drain then ((List.range 4).map fun q => BitVec.ofNat 5 (dv + q)) ++ [fld r.c 5 5] |>.map fun v =>
      fltIf (lentReg lent v) (misuse 0x11 v.toNat 0) else [])

/-- The start of a VRUN (R234, R237, R259). -/
def vrunBegin (s : State) (x : CtxId) (r : Run) : Except Flt State :=
  match vrunFault (s.cx x) r with
  | some f => .error f
  | none =>
    let t : Fin 4 := Fin.ofNat 4 (fldN r.a 0 2)
    let tb := (s.cx x).v.tables.get t
    let drain := bit r.a 2
    let s := if (tb.code.toList.take tb.len).any fun w => uop w == 0x79 then setNr s x .vxe else s
    let s := s.modCx x fun c => { c with v := { c.v with
      rc := if r.b.toNat < 2 ^ 32 then fld r.b 0 32 else BitVec.allOnes 32, pr := if drain then 0 else r.c
      loops := Vector.replicate 2 ⟨false, 0, 0, 0⟩ } }
    if drain then match ringHeader s x with
      | .error f => .error f
      | .ok (s, h, t0) =>
        let s := s.modCx x fun c => { c with v := { c.v with dqhead := BitVec.ofNat 64 h, dqtail := BitVec.ofNat 64 t0 } }
        .ok (s.modRun x .vxe fun r => { r with x := .table t batchOver true (fld r.a 16 5) t0 [] [] })
    else .ok (s.modRun x .vxe fun r => { r with x := .table t (runStart r) false 0 0 [] [] })

/-- The checks and effects at the start of a VXE entry (R234 to R240). A misaligned address of VBASE has kind 5
(entry 110). -/
def vxeBegin (s : State) (x : CtxId) (r : Run) : Except Flt State :=
  match fldN r.hdr 0 8 with
  | 0 => vrunBegin s x r
  | 1 => match firstFlt [fltIf (fld r.a 2 62 != 0) (wordMisuse 1 r.a), zeroOperand 24 r.b, zeroOperand 32 r.c] with
    | some f => .error f
    | none => .ok s
  | 2 =>
    let dq := bit r.a 4
    match firstFlt ([fltIf (fld r.a 5 59 != 0 || (dq && fld r.a 0 4 != 0)) (wordMisuse 2 r.a)] ++
      if dq then [zeroOperand 32 r.c]
      else [fltIf (fld r.c 12 4 != 0 || decide (14 < fldN r.c 0 5)) (wordMisuse 2 r.c),
        fltIf (r.b.toNat % 64 != 0) (accFlt 0x10 5 (va56 r.b)), fltIf (fld r.c 16 48 != 0) (limitFlt 32 false r.c)]) with
    | some f => .error f
    | none => .ok s
  | 3 => match firstFlt [zeroOperand 16 r.a, zeroOperand 24 r.b, zeroOperand 32 r.c] with | some f => .error f | none => .ok s
  | _ =>
    match firstFlt [fltIf (fld r.a 2 6 != 0 || fld r.a 16 48 != 0) (wordMisuse 4 r.a),
      alignFlt s x 64 5 (va56 r.b), zeroOperand 32 r.c] with
    | some f => .error f
    | none => .ok s

/-- Table `t` receives `n` micro-orders; the steps above are VNOP (R235). -/
def Ctx.setTable (c : Ctx) (t n : Nat) (code : Vector IWord 256) : Ctx :=
  let ts := c.v.tables.mapIdx fun i k => if i = t then { k with len := n, code := code } else k
  { c with v := { c.v with tables := ts } }

/-- VTLD loads its table (R235). -/
def vtldRun (s : State) (x : CtxId) (r : Run) : State :=
  let t := fldN r.a 0 2
  let n := fldN r.a 8 8 + 1
  match engReadAll s x true (va56 r.b) (4 * n) with
  | .error f => unitFault s x .vxe f
  | .ok (s, bs) =>
    let code : Vector IWord 256 := Vector.ofFn fun i =>
      if i.val < n then BitVec.ofNat 32 (ofBytes ((bs.drop (4 * i.val)).take 4)) else 0
    markDone (s.modCx x (·.setTable t n code)) x .vxe

/-- VBASE (R236). -/
def vbaseRun (s : State) (x : CtxId) (r : Run) : State :=
  if bit r.a 4 then
    let s := s.modCx x fun c => { c with v := { c.v with dqbase := r.b, dqhead := 0, dqtail := 0 } }
    match runWrites s x r.seq [(va56 r.b, w64 0), (va56 r.b + 8, w64 0)] with
    | (s, some f) => unitFault s x .vxe f
    | (s, none) => markDone s x .vxe
  else
    let t : Fin 4 := Fin.ofNat 4 (fldN r.a 0 2)
    markDone (s.modCx x fun c => c.setVbase t (fld r.a 2 2) fun _ => ⟨va56 r.b, fld r.c 0 16⟩) x .vxe

/-- One unit of work of VXE on the started entry of context `x` (R234 to R241). -/
def vxeWork (s : State) (x : CtxId) (r : Run) : State :=
  let s := s.modCore ({ · with vx := x })
  match fldN r.hdr 0 8 with
  | 0 => tableStep s x r
  | 1 =>
    -- every run that the request covered has completed
    markDone (s.modCx x fun c => { c with v := { c.v with stops := c.v.stops.filter fun q => q.2 != r.seq } }) x .vxe
  | 2 => vbaseRun s x r
  | 3 => markDone s x .vxe
  | _ => vtldRun s x r

/-- A VRUN of either form: NRcode is 1 for DRAIN = 1 (R234). -/
def vrunRes (s : State) (sync : BitVec 16) (a b c t : BitVec 6) (cb : BitVec 8) : Res :=
  command s .vxe 0 sync a b c t cb (bit (s.reg a) 2) [] namesRun

/-- VRUN (R234, R237). -/
def execVrun (sync : BitVec 16) (a b c t : BitVec 6) (cb : BitVec 8) (s : State) : Host.Outcome State Fault Refusal :=
  retire s 2 (vrunRes s sync a b c t cb)

/-- The drain form of VRUN (R234, R259). -/
def execVrunDrain (sync : BitVec 16) (a b c t : BitVec 6) (cb : BitVec 8) (s : State) : Host.Outcome State Fault Refusal :=
  retire s 2 (vrunRes s sync a b c t cb)

/-- VSTOP: records the stop request with its own number (R239). -/
def execVstop (sync : BitVec 16) (a b c t : BitVec 6) (cb : BitVec 8) (s : State) : Host.Outcome State Fault Refusal :=
  retire s 2 (
    let n : Fin 4 := Fin.ofNat 4 (fldN (s.reg a) 0 2)
    match command s .vxe 1 sync a b c t cb false [] namesNone with
    | .done s => .done (s.modCx s.core.cur fun c => { c with v := { c.v with stops := c.v.stops ++ [(n, (c.eq .vxe).qlast)] } })
    | r => r)

/-- VBASE (R236). -/
def execVbase (sync : BitVec 16) (a b c t : BitVec 6) (cb : BitVec 8) (s : State) : Host.Outcome State Fault Refusal :=
  retire s 2 (command s .vxe 2 sync a b c t cb false [] namesNone)

/-- The ring form of VBASE (R236). -/
def execVbaseDq (sync : BitVec 16) (a b c t : BitVec 6) (cb : BitVec 8) (s : State) : Host.Outcome State Fault Refusal :=
  retire s 2 (command s .vxe 2 sync a b c t cb false [] namesNone)

/-- VWAIT: appends an entry and waits until it has completed (R240). -/
def execVwait (sync : BitVec 16) (a b c t : BitVec 6) (cb : BitVec 8) (s : State) : Host.Outcome State Fault Refusal :=
  retire s 2 (
    let x := s.core.cur
    let k := s.cx x
    match k.vwait with
    | some n =>
      if n.toNat ≤ (k.eq .vxe).qseq.toNat then .done (s.modCx x ({ · with vwait := none })) else .wait 15
    | none => match command s .vxe 3 sync a b c t cb false [] namesNone with
      | .done s => .stay (waitFor (s.modCx x fun c => { c with vwait := some (c.eq .vxe).qlast }) 15)
      | r => r)

/-- VTLD (R235). -/
def execVtld (sync : BitVec 16) (a b c t : BitVec 6) (cb : BitVec 8) (s : State) : Host.Outcome State Fault Refusal :=
  retire s 2 (command s .vxe 4 sync a b c t cb false [] namesTable)

end Sys2Proof.Machine
end

