-- ==== Sys2Proof/Machine/Copy.lean ====
section
/-! DEFINITION. The core copy engine (R182 to R187, R202, R220): CPY, CPY2D, FILL, CPS, ADRAIN, CMC, CPOST and CWAIT,
their checks at the start, one unit of work, and what their completion does to comb slots. Poison is propagated by the
data reads of the copies and consumed by every other read (R409). -/
namespace Sys2Proof.Machine

open Bits

/-! ### Units (R108, R183, R389, R409) -/

/-- Whether each of `n` bytes read at `va` lies in a poisoned word (R409). -/
def poisonFlags (s : State) (x : CtxId) (va : VAddr) (n : Nat) : List Bool :=
  if s.pkg.poison.isEmpty then List.replicate n false
  else (List.range n).map fun i =>
    match xlate s x 5 (va + BitVec.ofNat 56 i) with
    | .error _ => false
    | .ok t => s.pkg.poison.contains (t.pa.toNat / 8)

/-- The propagation of poison is recorded (R409, R412), outcome 1. -/
def poisonNoted (s : State) (x : CtxId) (va : VAddr) (bad : List Bool) : State :=
  match bad.findIdx? id with
  | none => s
  | some i => match xlate s x 5 (va + BitVec.ofNat 56 i) with
    | .error _ => s
    | .ok t => rasRecord s (t.pa.toNat / 8 * 8) (rasUnit s t.pa.toNat) 1 (some (lcore s))

/-- The written bytes that come from poisoned words poison their words (R409). -/
def poisonTo (s : State) (x : CtxId) (va : VAddr) (bad : List Bool) : State :=
  if bad.any id then
    bad.zipIdx.foldl (fun s e => if e.1 then
      match xlate s x 6 (va + BitVec.ofNat 56 e.2) with
      | .error _ => s
      | .ok t => addPoison s t.pa.toNat 1 else s) s
  else s

/-- The first fault of the pieces that a unit of `n` bytes at `va` writes (R389): none of it is performed then. -/
def unitWriteFlt (s : State) (x : CtxId) (va : VAddr) (n : Nat) : Option Flt :=
  (pieces (n / 64 + 2) va.toNat n).findSome? fun p =>
    match unitCheck s x 6 (BitVec.ofNat 56 p.1) with | .error f => some f | .ok _ => none

/-- One unit of a copy: its source bytes are read before it is written (R183). -/
def copyUnit (s : State) (x : CtxId) (e : Eng) (seq : Word) (src dst : VAddr) (n : Nat) : State × Option Flt :=
  match engReadAll s x false src n with
  | .error f => (s, some f)
  | .ok (s', bs) =>
    match unitWriteFlt s' x dst n with
    | some f => (s', some f)
    | none =>
      let bad := poisonFlags s' x src n
      match engWriteAll (poisonNoted s' x src bad) x e seq dst bs with
      | (s', some f) => (s', some f)
      | (s', none) => (poisonTo s' x dst bad, none)

/-- One unit of work ends: a fault, or the progress advances; the entry is done at its last unit. -/
def unitEnd (x : CtxId) (e : Eng) (total : Nat) (r : State × Option Flt) : State :=
  match r with
  | (s, some f) => unitFault s x e f
  | (s, none) => s.modRun x e fun r => { r with prog := r.prog + 1, done := decide (total ≤ r.prog + 1) }

/-! ### CPY, CPY2D, FILL (R183, R184, R202, R418) -/

/-- The watermark channel `i` armed for [base, base + n), at its base (R202). -/
def Ctx.armWm (c : Ctx) (i : Nat) (base : VAddr) (n : Nat) : Ctx :=
  { c with wm := c.wm.setIfInBounds i (0x80#8 ++ base)
           wmbase := c.wmbase.setIfInBounds i base
           wmlim := c.wmlim.setIfInBounds i (base + BitVec.ofNat 56 n) }

/-- The rows of a CPY2D span these bytes (R418). -/
def spanOf (rowb nrow stride : Nat) : Nat := if nrow = 0 ∨ rowb = 0 then 0 else 64 * stride * (nrow - 1) + rowb

/-- The start of CPY, CPY2D and FILL: LIMIT, NR for overlapping ranges, the watermark channel (R183, R202, R418). -/
def copyBegin (s : State) (x : CtxId) (r : Run) : Except Flt State :=
  let code := fldN r.hdr 0 8
  if code = 1 then
    let n := spanOf (fldN r.c 0 16) (fldN r.c 16 16) (fldN r.c 32 16)
    let m := spanOf (fldN r.c 0 16) (fldN r.c 16 16) (fldN r.c 48 16)
    .ok (if rangesMeet (va56 r.a).toNat n (va56 r.b).toNat m then setNr s x .cpe else s)
  else if fld r.c 36 28 ≠ 0 then .error (limitFlt 32 false r.c)
  else
    let n := copyLen r.c
    let s := if code = 0 ∧ rangesMeet (va56 r.a).toNat n (va56 r.b).toNat n then setNr s x .cpe else s
    .ok (if bit r.c 35 then s.modCx x (·.armWm (fldN r.c 32 3) (copyDst r) n) else s)

/-- Byte `i` of a FILL (R183). -/
def fillByte (w : Word) (i : Nat) : Byte := fld w (8 * (i % 8)) 8

/-- One unit of CPY or FILL (R183, R202). -/
def copyWork (s : State) (x : CtxId) (r : Run) : State :=
  let n := copyLen r.c
  let o := 64 * r.prog
  let k := min 64 (n - o)
  let dst := copyDst r + BitVec.ofNat 56 o
  if n ≤ o then markDone s x .cpe
  else
    let res := if fldN r.hdr 0 8 = 4 then
        match unitWriteFlt s x dst k with
        | some f => (s, some f)
        | none => engWriteAll s x .cpe r.seq dst ((List.range k).map fun i => fillByte r.b (o + i))
      else copyUnit s x .cpe r.seq (va56 r.a + BitVec.ofNat 56 o) dst k
    let s' := unitEnd x .cpe (unitsIn n) res
    if bit r.c 35 && res.2.isNone then s'.modCx x (·.followMark) else s'

/-- One unit of CPY2D (R184). -/
def copy2dWork (s : State) (x : CtxId) (r : Run) : State :=
  let rowb := fldN r.c 0 16
  let upr := unitsIn rowb
  let total := upr * fldN r.c 16 16
  if total ≤ r.prog then markDone s x .cpe
  else
    let i := r.prog / upr
    let o := 64 * (r.prog % upr)
    unitEnd x .cpe total (copyUnit s x .cpe r.seq (va56 r.a + BitVec.ofNat 56 (64 * fldN r.c 32 16 * i + o))
      (va56 r.b + BitVec.ofNat 56 (64 * fldN r.c 48 16 * i + o)) (min 64 (rowb - o)))

/-! ### Fills of comb slots (R185, R210, R211, R214) -/

/-- The formats of a comb tile (R210). -/
def tileFmts : List Nat := [2, 5, 6, 7, 9, 10]
/-- A 4-bit tile format (R210). -/
def fmt4 (f : Nat) : Bool := f == 7 || f == 9 || f == 10
/-- Bytes of the sideband image of a format class (R210). -/
def sideBytes (f : Nat) : Nat := 2 * tileK f
/-- LIVE of a dense tile (R210). -/
def denseLive (f : Nat) : BitVec 32 := BitVec.ofNat 32 (2 ^ (tileK f / 8) - 1)

/-- A fill of slot `i` by context `x` waits (R214): FILLING or IN-USE. -/
def fillWaits (s : State) (x : CtxId) (i : BitVec 6) : Bool :=
  let v := s.slot i
  v.own == x && (v.state == 2 || v.state == 4)

/-- MISUSE 0x01: slot `i` is FREE or of another context (R381). -/
def ownMisuse (s : State) (x : CtxId) (i : BitVec 6) : Option Flt :=
  let v := s.slot i
  fltIf (v.state == 0 || v.own != x) (misuse 0x01 i.toNat (slotDetail v))

/-- Slot `i` is the odd half of a pair (R211). -/
def oddHalf (s : State) (i : BitVec 6) : Bool := (s.slot i).pair && bit i 0

/-- MISUSE 0x02: the odd half of a pair is named (R381). -/
def oddMisuse (s : State) (i : BitVec 6) : Option Flt := fltIf (oddHalf s i) (misuse 0x02 i.toNat 0)

/-- MISUSE of an entry that names slot `i` (R381, codes 0x01 and 0x02). -/
def fillMisuse (s : State) (x : CtxId) (i : BitVec 6) : Option Flt := (ownMisuse s x i).or (oddMisuse s i)

/-- MISUSE 0x04: a 4-bit tile with block scales outside the even half of a pair (R185, R211). -/
def pairMisuse (s : State) (i : BitVec 6) (f : Nat) (bsp : Bool) : Option Flt :=
  let v := s.slot i
  fltIf (fmt4 f && bsp && !(v.pair && !bit i 0)) (misuse 0x04 i.toNat (0#28 ++ b1 v.pair ++ v.state))

/-- Change slot `i`, and with it the other half of its pair (R211). -/
def modSlot (s : State) (i : BitVec 6) (f : Slot → Slot) : State :=
  let v := s.slot i
  let s := s.setSlot i (f v)
  if v.pair then s.setSlot (i + 1) (f (s.slot (i + 1))) else s

/-- A fill starts: FILLING (R214), and the slot is filled once more (R419). -/
def fillStart (s : State) (i : BitVec 6) : State := modSlot s i fun v => { v with state := 2, fills := v.fills + 1 }

/-- A fill completes (R185, R214): the tag, scale and LIVE are set, and the slot is READY, or FREE when RELP = 1. -/
def fillEnd (s : State) (i : BitVec 6) (tag : BitVec 16) (ts live : BitVec 32) : State :=
  let v := s.slot i
  if v.state ≠ 2 then s
  else
    let s := s.setSlot i { v with tag := tag, ts := ts, live := live }
    modSlot s i fun v => if v.relp then v.freed else { v with state := 3 }

/-- Bytes `o` to `o + n` of a slot's data replaced. -/
def Slot.putData (v : Slot) (o : Nat) (bs : List Byte) : Slot :=
  { v with data := setFld v.data (8 * o) (BitVec.ofNat (8 * bs.length) (ofBytes bs)) }

/-- Bytes of the sideband of a slot, or of the odd half of its pair, from byte `o` of the image (R211). -/
def putSide (s : State) (i : BitVec 6) (o : Nat) (bs : List Byte) : State :=
  let j := if o < 256 then i else i + 1
  let v := s.slot j
  s.setSlot j { v with side := setFld v.side (8 * (o % 256)) (BitVec.ofNat (8 * bs.length) (ofBytes bs)) }

/-- The slot number of a CPS or GEXP. -/
def slotArg (r : Run) : BitVec 6 := fld r.b 0 6

/-- LIMIT for the slot format word (R185). -/
def cpsLimit (r : Run) : Option Flt :=
  let f := fldN r.c 0 5
  firstFlt [fltIf (fld r.b 6 58 != 0) (limitFlt 24 false r.b),
    fltIf (!tileFmts.contains f || bit r.c 7 || fld r.c 11 21 != 0 ||
      (if bit r.c 6 then fld r.c 32 32 &&& ~~~(denseLive f) != 0 else fld r.c 32 32 != 0)) (limitFlt 32 false r.c)]

/-- The start of a CPS (R185, R214, R381). -/
def cpsBegin (s : State) (x : CtxId) (r : Run) : Except Flt State :=
  let i := slotArg r
  match firstFlt [ownMisuse s x i, pairMisuse s i (fldN r.c 0 5) (bit r.c 5), oddMisuse s i, cpsLimit r] with
  | some f => .error f
  | none => .ok (fillStart s i)

/-- Bytes that a CPS reads. -/
def cpsBytes (r : Run) : Nat := 8192 + (if bit r.c 5 then sideBytes (fldN r.c 0 5) else 0)

/-- One unit of a CPS: 64 bytes into the slot's data or sideband (R185). -/
def cpsWork (s : State) (x : CtxId) (r : Run) : State :=
  let o := 64 * r.prog
  unitEnd x .cpe (cpsBytes r / 64) (match engReadAll s x true (va56 r.a + BitVec.ofNat 56 o) 64 with
    | .error f => (s, some f)
    | .ok (s, bs) =>
      (if o < 8192 then s.setSlot (slotArg r) ((s.slot (slotArg r)).putData o bs) else putSide s (slotArg r) (o - 8192) bs, none))

/-- The completion of a CPS (R185); the tensor scale, which the rule does not name, becomes 1.0 (entry 121). -/
def cpsEnd (s : State) (r : Run) : State :=
  let f := fldN r.c 0 5
  fillEnd s (slotArg r) (mkTag f (bit r.c 5) false false (fld r.c 8 3) ||| (b1 (bit r.c 6)).setWidth 16 <<< 11)
    0x3F800000 (if bit r.c 6 then fld r.c 32 32 else denseLive f)

/-! ### ADRAIN and the row word (R219, R220) -/

/-- Bank, first row, number of rows, number of columns of a row word (R219). -/
def rowWord (a : Word) : BitVec 5 × Nat × Nat × Nat := (fld a 0 5, fldN a 5 6, fldN a 11 5 + 1, fldN a 16 6 + 1)

/-- MISUSE of the row word of an AREAD or ADRAIN (R381, codes 0x0D and 0x09). -/
def rowMisuse (s : State) (x : CtxId) (a : Word) : Option Flt :=
  let (i, r0, nr, _) := rowWord a
  let b := s.bank i
  let d : Fin 2 := if 32 ≤ r0 then 1 else 0
  if 63 < r0 + nr - 1 ∨ r0 / 32 ≠ (r0 + nr - 1) / 32 then some (misuse 0x0D i.toNat (fld a 0 32))
  else if b.state ≠ 0 ∧ !b.owns x d then some (misuse 0x09 i.toNat (BitVec.ofNat 32 d.val))
  else none

/-- The checks of an ADRAIN (R220, R368, R381, R390). -/
def adrainFault (s : State) (x : CtxId) (r : Run) : Option Flt :=
  let (i, _, _, nc) := rowWord r.a
  let b := s.bank i
  let z := drainSize (fldN r.c 0 5)
  let rs := fldN r.c 32 16
  firstFlt [rowMisuse s x r.a,
    fltIf (b.state != 0 && tagFmt b.tag != 1) (tagFlt b.tag 0 8 0),
    fltIf (b.state != 0 && bit b.tag 11) (tagFlt b.tag 0 2 0),
    if z = 0 then none else alignFlt s x z 6 (va56 r.b),
    fltIf (fld r.a 22 42 != 0) (limitFlt 16 false r.a),
    fltIf (z == 0 || fld r.c 5 2 == 3 || fld r.c 9 23 != 0 || fld r.c 48 16 != 0 || decide (rs < nc * z) || rs % z != 0)
      (limitFlt 32 false r.c)]

/-- The elements of row `i` of an ADRAIN, drawn in ascending columns (R72, R220): generators, flags, bytes. -/
def drainRow (s : State) (x : CtxId) (r : Run) (row : Nat) : Vector (BitVec 32) 64 × BitVec 3 × List Byte :=
  let (i, _, _, nc) := rowWord r.a
  let b := s.bank i
  let f := fldN r.c 0 5
  let rm : BitVec 2 := fld r.c 5 2
  let d : BitVec 2048 := b.rows.toList.getD row 0
  (List.range nc).foldl (fun (q : Vector (BitVec 32) 64 × BitVec 3 × List Byte) j =>
    let y := if b.state = 0 then Num.zero
      else
        let v := decodeReal 0 1 (elemAt 32 d j)
        if bit r.c 8 then v.mul (decodeReal 0 1 b.ts.toNat) else v
    let (g, gen) := drawIf rm q.1 j
    let (p, fl) := roundReal 0 f rm (bit r.c 7) g y
    (gen, q.2.1 ||| fl, q.2.2 ++ toBytes (BitVec.ofNat 32 p) (drainSize f))) ((s.cx x).v.gen, 0, [])

/-- Write a row in 64-byte units of ascending address, each in vault SRAM (R220), or in the pinned set, through which no unit faults
(R357). -/
def drainWrite (s : State) (x : CtxId) (r : Run) (va : VAddr) (bs : List Byte) : State × Option Flt :=
  (pieces (bs.length / 64 + 2) va.toNat bs.length).foldl (fun q p => match q with
    | (s, some f) => (s, some f)
    | (s, none) =>
      let at' := BitVec.ofNat 56 p.1
      match unitCheck s x 6 at' with
      | .error f => (s, some f)
      | .ok t => match rowOf t.pa.toNat with
        | .vault _ => match engWrite (beatPassed s x) x .cpe r.seq at' ((bs.drop (p.1 - va.toNat)).take p.2) with
          | .ok s => (s, none)
          | .error f => (s, some f)
        | _ =>
          if (inPins (s.cx x) at').isSome then
            match engWrite (beatPassed s x) x .cpe r.seq at' ((bs.drop (p.1 - va.toNat)).take p.2) with
            | .ok s => (s, none)
            | .error f => (s, some f)
          else (s, some (limitFlt 24 false r.b))) (s, none)

/-- One row of an ADRAIN (R220). -/
def adrainWork (s : State) (x : CtxId) (r : Run) : State :=
  let (i, r0, nr, _) := rowWord r.a
  let (gen, fl, bs) := drainRow s x r (r0 + r.prog)
  let free : BitVec 2 := if (s.bank i).state = 0 then aUnalloc else 0
  match drainWrite s x r (va56 r.b + BitVec.ofNat 56 (fldN r.c 32 16 * r.prog)) bs with
  | (s, some f) => unitFault s x .cpe f
  | (s, none) =>
    (s.modCx x fun c => { c with v := { c.v with gen := gen } }).modRun x .cpe fun q =>
      { q with prog := q.prog + 1, done := decide (nr ≤ q.prog + 1), fmtst := q.fmtst ||| fl, accf := q.accf ||| free }

/-! ### CMC (R131, R187) -/

/-- The descriptor that an entry read at its start. -/
def descOf (r : Run) : List Byte := match r.x with | .desc d => d | _ => []

/-- The limits of a multicast descriptor (R187, R390). -/
def cmcLimits (d : List Byte) : Option Flt :=
  let off := dfield d 8 8
  firstFlt [fltIf (0x300000 < off) (descLimit d 8 8), fltIf (0x300000 < off + dfield d 16 4) (descLimit d 16 4),
    fltIf (!groupOk (BitVec.ofNat 16 (dfield d 20 2))) (descLimit d 20 2), reservedLimit d 22 2]

/-- The start of a CMC (R187). -/
def cmcBegin (s : State) (x : CtxId) (r : Run) : Except Flt State :=
  match firstFlt [zeroOperand 24 r.b, zeroOperand 32 r.c] with
  | some f => .error f
  | none => match engReadAll s x true (va56 r.a) 32 with
    | .error f => .error f
    | .ok (s, d) => match cmcLimits d with
      | some f => .error f
      | none => .ok (s.modRun x .cpe ({ · with x := .desc d }))

/-- Perform a write held under a contract (R92, R131, R187): the sections act for the launch of the sender; it is a beat of its CMC
(R343, R435). -/
def contractPerform (s : State) (c : Contract) : State :=
  let a := c.pa.toNat
  let n := c.bytes.length
  let (s, ok) := sectionAct s c.lid a
  let (s, ok) := if ok && n != 0 then sectionAct s c.lid (a + n - 1) else (s, ok)
  if !ok then s
  else
    let s := rawStore s a c.bytes
    let s := c.bad.zipIdx.foldl (fun s e => if e.1 then addPoison s (a + e.2) 1 else s) s
    if (s.run c.eng .cpe).any fun r => entryName s c.eng 3 r.seq == c.name then
      hitStop (cpeNote (beatPassed s c.eng) c.eng a a n c.name) (some c.lid) (dwStops s a n false)
    else hitCheck s (some c.lid) a n ⟨2, 3, c.name, 0⟩

/-- The first held write whose stroke value has come, of context `x` where one is given, is performed (R131). -/
def contractDue (s : State) (p : Contract → Bool) : State :=
  match s.pkg.contracts.findIdx? fun c => p c && decide (c.t.toNat ≤ (now s).toNat) with
  | none => s
  | some k => match s.pkg.contracts[k]? with
    | none => s
    | some c => contractPerform (s.modPkg fun q => { q with contracts := q.contracts.eraseIdx k }) c

/-- Bytes of contract writes that the controller of a vault holds (R187). -/
def contractLoad (s : State) (k : Nat) : Nat :=
  ((s.pkg.contracts.filter fun c => rowOf c.pa.toNat == .vault k).map (·.bytes.length)).foldl (· + ·) 0

/-- One write of a CMC: unit `u` of the source to one target core (R187). It acts in the context's world, its faults name the physical
address, and a write that the full controller holds waits whatever its T is (entry 122). -/
def cmcSend (s : State) (x : CtxId) (r : Run) (d : List Byte) (u : Nat) (c : BitVec 9) : State × Option Flt × Bool :=
  let o := 64 * u
  let n := min 64 (dfield d 16 4 - o)
  let src : VAddr := BitVec.ofNat 56 (dfield d 0 8) + BitVec.ofNat 56 o
  let p := ((lmap s c.toNat).getD 0).toNat
  let a := vaultBase (p / 4) + p % 4 * 0x300000 + dfield d 8 8 + o
  let world := (s.cx x).world
  if !world && worldOf s a then (s, some (accFlt 0x13 6 (BitVec.ofNat 56 a)), false)
  else if region s a = .none then (s, some (accFlt 0x14 6 (BitVec.ofNat 56 a)), false)
  else if 0x10000 < contractLoad s (p / 4) + n then (s, none, true)
  else match engReadAll s x false src n with
    | .error f => (s, some f, false)
    | .ok (s, bs) =>
      let bad := poisonFlags s x src n
      let k : Contract := ⟨BitVec.ofNat 52 a, bs, BitVec.ofNat 64 (dfield d 24 8), (s.cx x).lid, world, x, bad, entryName s x 3 r.seq⟩
      let s := poisonNoted s x src bad
      (if k.t.toNat ≤ (now s).toNat then contractPerform s k
       else s.modPkg fun q => { q with contracts := q.contracts ++ [k] }, none, false)

/-- One unit of a CMC (R187): a write to one target; the entry is done once every write has been performed. -/
def cmcWork (s : State) (x : CtxId) (r : Run) : State :=
  let d := descOf r
  let cores := cmcCores s d
  let total := unitsIn (dfield d 16 4) * cores.length
  if total ≤ r.prog then
    let s := contractDue s (·.eng == x)
    if s.pkg.contracts.any (·.eng == x) then s else markDone s x .cpe
  else
    match cmcSend s x r d (r.prog / cores.length) (cores.getD (r.prog % cores.length) 0) with
    | (s, some f, _) => unitFault s x .cpe f
    | (s, none, true) => contractDue s (·.eng == x)
    | (s, none, false) => s.modRun x .cpe fun q => { q with prog := q.prog + 1 }

/-! ### CPOST and CWAIT (R127, R186) -/

/-- The start of a CPOST or CWAIT: alignment, then LIMIT (R186, R368). -/
def counterBegin (s : State) (x : CtxId) (r : Run) (kind : Nat) : Except Flt State :=
  match firstFlt [alignFlt s x 8 kind (va56 r.a), zeroOperand 32 r.c] with
  | some f => .error f
  | none => .ok s

/-- CPOST: the atomic add at the home (R186, R409). -/
def cpostWork (s : State) (x : CtxId) (r : Run) : State :=
  let va := va56 r.a
  match unitCheck s x 3 va with
  | .error f => unitFault s x .cpe f
  | .ok t =>
    let (s, ok) := sectionFor (tlbFill s x va t) x t.pa.toNat
    if !ok then s
    else
      let p := t.pa.toNat
      match poisonAt s p 8 with
      | some u => unitFault s x .cpe ⟨0x30, uceVal va (rasUnit s (8 * u))⟩
      | none =>
        let s := writeHome s (.core t.world) p 8 (readHome s p 8 + r.b)
        markDone (hitCheck s (actsFor s x) p 8 ⟨3, 3, entryName s x 3 r.seq, 0⟩) x .cpe

/-- CWAIT: a read of the counter; the entry is done once it is at least the threshold (R186). -/
def cwaitWork (s : State) (x : CtxId) (r : Run) : State :=
  match engReadAll s x true (va56 r.a) 8 with
  | .error f => unitFault s x .cpe f
  | .ok (s, bs) =>
    if r.b.toNat ≤ ofBytes bs then markDone (s.modRun x .cpe ({ · with waits := false })) x .cpe
    else s.modRun x .cpe ({ · with waits := true })

/-! ### The engine -/

/-- The interlock of a CPE head (R214): the flag of R337 it waits with. -/
def cpeReady (s : State) (x : CtxId) (d : List Byte) : Option Nat :=
  if entryCode d = 2 ∧ fillWaits s x (BitVec.ofNat 6 (dfield d 24 8)) then some 10 else none

/-- The checks and effects at the start of a CPE entry. -/
def cpeBegin (s : State) (x : CtxId) (r : Run) : Except Flt State :=
  match fldN r.hdr 0 8 with
  | 2 => cpsBegin s x r
  | 3 => match adrainFault s x r with | some f => .error f | none => .ok s
  | 5 => cmcBegin s x r
  | 6 => counterBegin s x r 3
  | 7 => counterBegin s x r 5
  | _ => copyBegin s x r

/-- One unit of work of a CPE entry. -/
def cpeWork (s : State) (x : CtxId) (r : Run) : State :=
  match fldN r.hdr 0 8 with
  | 1 => copy2dWork s x r
  | 2 => cpsWork s x r
  | 3 => adrainWork s x r
  | 5 => cmcWork s x r
  | 6 => cpostWork s x r
  | 7 => cwaitWork s x r
  | _ => copyWork s x r

/-- What the completion of a CPE entry does to the comb. -/
def cpeEnd (s : State) (r : Run) : State := if fldN r.hdr 0 8 = 2 then cpsEnd s r else s

/-! ### The instructions (R182) -/

/-- CPY (R182, R183). -/
def execCpy (sync : BitVec 16) (a b c t : BitVec 6) (cb : BitVec 8) (s : State) : Host.Outcome State Fault Refusal :=
  retire s 2 (command s .cpe 0 sync a b c t cb false [] namesNone)

/-- CPY2D (R182, R184). -/
def execCpy2d (sync : BitVec 16) (a b c t : BitVec 6) (cb : BitVec 8) (s : State) : Host.Outcome State Fault Refusal :=
  retire s 2 (command s .cpe 1 sync a b c t cb false [] namesNone)

/-- CPS (R182, R185). -/
def execCps (sync : BitVec 16) (a b c t : BitVec 6) (cb : BitVec 8) (s : State) : Host.Outcome State Fault Refusal :=
  retire s 2 (command s .cpe 2 sync a b c t cb false [] namesSlot)

/-- ADRAIN (R182, R220). -/
def execAdrain (sync : BitVec 16) (a b c t : BitVec 6) (cb : BitVec 8) (s : State) : Host.Outcome State Fault Refusal :=
  retire s 2 (command s .cpe 3 sync a b c t cb false [] namesBand)

/-- FILL (R182, R183). -/
def execFill (sync : BitVec 16) (a b c t : BitVec 6) (cb : BitVec 8) (s : State) : Host.Outcome State Fault Refusal :=
  retire s 2 (command s .cpe 4 sync a b c t cb false [] namesNone)

/-- CMC (R182, R187). -/
def execCmc (sync : BitVec 16) (a b c t : BitVec 6) (cb : BitVec 8) (s : State) : Host.Outcome State Fault Refusal :=
  retire s 2 (command s .cpe 5 sync a b c t cb false [] namesNone)

/-- CPOST (R182, R186), marked NR. -/
def execCpost (sync : BitVec 16) (a b c t : BitVec 6) (cb : BitVec 8) (s : State) : Host.Outcome State Fault Refusal :=
  retire s 2 (command s .cpe 6 sync a b c t cb true [] namesNone)

/-- CWAIT (R182, R186). -/
def execCwait (sync : BitVec 16) (a b c t : BitVec 6) (cb : BitVec 8) (s : State) : Host.Outcome State Fault Refusal :=
  retire s 2 (command s .cpe 7 sync a b c t cb false [] namesNone)

end Sys2Proof.Machine
end

