-- ==== Sys2Proof/Machine/Clp.lean ====
section
/-! DEFINITION. The collective port (R190 to R193, R400): LSEND, COLAR, COLRS and COLAG, their checks, one step of the
ring algorithm, and what a received chunk or abort flit does. -/
namespace Sys2Proof.Machine

open Bits

/-! ### Links (R327, R400) -/

/-- Link `l` is trained (R327). -/
def linkUp (s : State) (l : Nat) : Bool := decide (l < 12) && bit (ctl s (oLink l)) 0

/-- A flit leaves on link `l`. -/
def sendOut (s : State) (m : OutMsg) : State := s.modPkg fun p => { p with out := p.out ++ [m] }

/-! ### LSEND (R125, R190) -/

/-- The start of an LSEND (R190, R390). -/
def lsendBegin (s : State) (r : Run) : Except Flt State :=
  if fld r.c 32 32 ≠ 0 then .error (limitFlt 32 false r.c) else .ok s

/-- One 64-byte unit of an LSEND: its destination lies in the peer window (R190). -/
def lsendWork (s : State) (x : CtxId) (r : Run) : State :=
  let n := fldN r.c 0 32
  if unitsIn n ≤ r.prog then markDone s x .clp
  else
    let o := 64 * r.prog
    let k := min 64 (n - o)
    let dst := va56 r.b + BitVec.ofNat 56 o
    let bad := (pieces 3 dst.toNat k).any fun p =>
      match xlate s x 6 (BitVec.ofNat 56 p.1) with | .ok t => rowOf t.pa.toNat != .peer | .error _ => false
    if bad then unitFault s x .clp (limitFlt 24 false r.b)
    else unitEnd x .clp (unitsIn n) (copyUnit s x .clp r.seq (va56 r.a + BitVec.ofNat 56 o) dst k)

/-! ### The collective descriptor (R191) -/

/-- N. -/
def colN (d : List Byte) : Nat := dfield d 24 4
/-- SFMT. -/
def colS (d : List Byte) : Nat := dfield d 28 1
/-- WFMT. -/
def colW (d : List Byte) : Nat := dfield d 29 1
/-- RFMT. -/
def colR (d : List Byte) : Nat := dfield d 30 1
/-- The operation of OPS. -/
def colOp (d : List Byte) : Nat := dfield d 31 1 % 4
/-- RM of OPS. -/
def colRm (d : List Byte) : BitVec 2 := BitVec.ofNat 2 (dfield d 31 1 / 4)
/-- NDEV. -/
def colDev (d : List Byte) : Nat := dfield d 32 1
/-- RANK. -/
def colRank (d : List Byte) : Nat := dfield d 33 1
/-- LNEXT. -/
def colNext (d : List Byte) : Nat := dfield d 34 1
/-- LPREV. -/
def colPrev (d : List Byte) : Nat := dfield d 35 1

/-- A field of the descriptor lies outside R191. -/
def colBad (d : List Byte) : Bool :=
  colN d == 0 || decide (2 ^ 30 < colN d) || !([1, 2].contains (colS d)) || !([1, 2, 5, 6, 7].contains (colW d)) ||
  !([1, 2].contains (colR d)) || colOp d == 3 || colRm d == 3 || decide (16 ≤ dfield d 31 1) ||
  decide (colDev d < 2) || decide (64 < colDev d) || decide (colDev d ≤ colRank d) || decide (11 < colNext d) ||
  decide (11 < colPrev d) || (firstNonzero d 36 28).isSome

/-- The chunk size C (R192). -/
def colChunk (d : List Byte) : Nat := ((colN d + colDev d - 1) / colDev d + 31) / 32 * 32

/-- First element and element count of chunk `i`: a part of the N elements, or for an all-gather the data of rank `i`
(R192). -/
def colPart (d : List Byte) (gather : Bool) (i : Nat) : Nat × Nat :=
  if gather then (i * colN d, colN d)
  else (i * colChunk d, min ((i + 1) * colChunk d) (colN d) - i * colChunk d)

/-- Bytes of an element of SFMT or RFMT. -/
def colSize (f : Nat) : Nat := if f = 1 then 4 else 2

/-- COLL with its reason, link, and the descriptor's address (R390, R400). -/
def collFlt (r : Run) (reason link : Nat) : Flt := ⟨0x1A, fld r.a 0 48 ++ BitVec.ofNat 8 link ++ BitVec.ofNat 8 reason⟩

/-- An abort flit on each of some links that is UP (R400). -/
def abortFlits (s : State) (ls : List Nat) : State :=
  ls.foldl (fun s l => if linkUp s l then sendOut s (.abortFlit (Fin.ofNat 12 l)) else s) s

/-- The kinds of collective: 1 all-reduce, 2 reduce-scatter, 3 all-gather (R190). -/
def colKind (r : Run) : Nat := fldN r.hdr 0 8

/-- A collective stops after its start (R400): whether a chunk of DST was already written is open, and the values that
remain are not specified (entry 18). -/
def colSpoil (s : State) (x : CtxId) (r : Run) (d : List Byte) : State :=
  match r.x with
  | .coll _ _ _ _ _ =>
    (List.range (if colKind r = 2 then 1 else colDev d)).foldl (fun u i =>
      let p := if colKind r = 2 then (0, (colPart d false (colRank d)).2) else colPart d (colKind r == 3) i
      let z := colSize (colS d)
      if bit (freeWord s (300 + 64 * x.val + i)) 0 then
        (engWriteAll u x .clp r.seq (BitVec.ofNat 56 (dfield d 8 8 + z * p.1))
          ((List.range (z * p.2)).map fun j => (freeWord s (2 ^ 40 * (64 * x.val + i + 1) + j)).setWidth 8)).1
      else u) s
  | _ => s

/-- A rank raises COLL: abort flits on its links, then the fault (R400). -/
def collRaise (s : State) (x : CtxId) (r : Run) (d : List Byte) (reason link : Nat) : State :=
  unitFault (abortFlits (colSpoil s x r d) [colNext d, colPrev d].eraseDups) x .clp (collFlt r reason link)

/-! ### Wire and Unwire (R193) -/

/-- The lane that draws for element `j` of a chunk under stochastic rounding: the spec names none (entry 20). -/
def colLane (s : State) (j : Nat) : Nat := (freeWord s (100 + j)).toNat % 64

/-- Bytes of packed patterns of `w` bits, w = 4 or a multiple of 8. -/
def packBits (w : Nat) (l : List Nat) : List Byte :=
  toBytes (BitVec.ofNat (w * l.length + 8) (l.zipIdx.foldl (fun n e => n + e.1 * 2 ^ (w * e.2)) 0)) ((w * l.length + 7) / 8)

/-- The block scale of some elements, for the 8-bit and 4-bit formats (R193). -/
def wireScale (w : Nat) (xs : List Num) : Option Nat :=
  if w ≤ 2 then none else some (chooseScale (xs.foldl maxMag .zero) w)

/-- One block on the wire: its elements packed, then its scale (R193); `base` is the position of its first element. -/
def wireBlock (s : State) (d : List Byte) (gen : Vector (BitVec 32) 64) (base : Nat) (xs : List Num) :
    Vector (BitVec 32) 64 × List Byte :=
  let w := colW d
  let sc := wireScale w xs
  let r := xs.zipIdx.foldl (fun (q : Vector (BitVec 32) 64 × List Nat) e =>
    let y := match sc with
      | none => e.1
      | some b => match e8m0 b with | none => .nan | some k => e.1.scale (-k)
    let (g, gen) := drawIf (colRm d) q.1 (colLane s (base + e.2))
    (gen, q.2 ++ [(roundReal 0 w (colRm d) sc.isSome g y).1])) (gen, [])
  (r.1, packBits (fmtWidth w) r.2 ++ (match sc with | some b => [BitVec.ofNat 8 b] | none => []))

/-- The block of 32 elements that starts at each multiple of 32. -/
def blocks32 {α : Type} : Nat → List α → List (List α)
  | 0, _ => []
  | k + 1, l => if l.isEmpty then [] else l.take 32 :: blocks32 k (l.drop 32)

/-- Wire(x) over a chunk (R193): the context's generators afterwards, and the bytes. -/
def wireOf (s : State) (x : CtxId) (d : List Byte) (xs : List Num) : State × List Byte :=
  let r := (blocks32 (xs.length / 32 + 1) xs).zipIdx.foldl (fun (q : Vector (BitVec 32) 64 × List Byte) e =>
    let (gen, bs) := wireBlock s d q.1 (32 * e.2) e.1
    (gen, q.2 ++ bs)) ((s.cx x).v.gen, [])
  (s.modCx x fun c => { c with v := { c.v with gen := r.1 } }, r.2)

/-- Wire bytes of `n` elements. -/
def wireBytes (w n : Nat) : Nat := (fmtWidth w * n + 7) / 8 + (if w ≤ 2 then 0 else (n + 31) / 32)

/-- Wire bytes of a whole block. -/
def wireBlockBytes (w : Nat) : Nat := 4 * fmtWidth w + (if w ≤ 2 then 0 else 1)

/-- Unwire: the `n` elements of a chunk (R67, R193). -/
def unwire (d : List Byte) (n : Nat) (bs : List Byte) : List Num :=
  let w := colW d
  (List.range n).map fun j =>
    let blk := bs.drop (j / 32 * wireBlockBytes w)
    let m := min 32 (n - j / 32 * 32)
    let bytes := (fmtWidth w * m + 7) / 8
    let v := decodeReal 0 w (ofBytes (blk.take bytes) / 2 ^ (fmtWidth w * (j % 32)) % 2 ^ fmtWidth w)
    if w ≤ 2 then v else scaleVal (some (blk.getD bytes 0).toNat) none v

/-! ### The algorithm (R192) -/

/-- Values of patterns of a reduction format. -/
def accVals (f : Nat) (l : List (BitVec 32)) : List Num := l.map fun b => decodeReal 0 f b.toNat

/-- Patterns of values in a reduction format, under RNE. -/
def accOf (f : Nat) (l : List Num) : List (BitVec 32) := l.map fun v => BitVec.ofNat 32 (rne f v)

/-- Op(y, acc) (R192). -/
def colCombine (d : List Byte) (ys acc : List Num) : List Num :=
  (ys.zip acc).map fun e => match colOp d with
    | 0 => e.1.add e.2
    | 1 => Num.pick true e.1 e.2
    | _ => Num.pick false e.1 e.2

/-- Read elements of SFMT in SRC (R191). -/
def colRead (s : State) (x : CtxId) (d : List Byte) (first n : Nat) : Except Flt (State × List Num) :=
  let z := colSize (colS d)
  match engReadAll s x true (BitVec.ofNat 56 (dfield d 0 8 + z * first)) (z * n) with
  | .error f => .error f
  | .ok (s, bs) => .ok (s, (List.range n).map fun j => decodeReal 0 (colS d) (dfield bs (z * j) z))

/-- Write elements to DST in SFMT (R192). -/
def colWrite (s : State) (x : CtxId) (r : Run) (d : List Byte) (first : Nat) (vs : List Num) : State × Option Flt :=
  let z := colSize (colS d)
  engWriteAll s x .clp r.seq (BitVec.ofNat 56 (dfield d 8 8 + z * first))
    (vs.flatMap fun v => toBytes (BitVec.ofNat 32 (rne (colS d) v)) z)

/-- Links of a running collective that are not UP (R400): the lowest of LNEXT and LPREV. -/
def colDown (s : State) (d : List Byte) : Option Nat := [colNext d, colPrev d].find? fun l => !linkUp s l

/-- The scratch area holds what the algorithm leaves there, which the spec does not state (R191; entry 20). -/
def colScratch (s : State) (x : CtxId) (r : Run) (d : List Byte) : State × Option Flt :=
  engWriteAll s x .clp r.seq (BitVec.ofNat 56 (dfield d 16 8))
    ((List.range (16 * colChunk d)).map fun i => (freeWord s (200 + i)).setWidth 8)

/-- A collective counts among those of LNEXT and of LPREV, by which the device pairs it with the other end's (R191). It counts at
its first unit of work, when its descriptor has been read (the model's choice, entry 126). -/
def colCount (s : State) (d : List Byte) : State :=
  s.modPkg fun q => { q with
    colSent := q.colSent.setIfInBounds (colNext d) (q.colSent.toList.getD (colNext d) 0 + 1)
    colRecv := q.colRecv.setIfInBounds (colPrev d) (q.colRecv.toList.getD (colPrev d) 0 + 1) }

/-- A collective begins, with its numbers on its links (R191). -/
def colIssue (s : State) (x : CtxId) (d : List Byte) (acc : List (List (BitVec 32))) (wire : List (List Byte)) : State :=
  (colCount s d).modRun x .clp ({ · with
    x := .coll d 0 acc wire (s.pkg.colSent.toList.getD (colNext d) 0, s.pkg.colRecv.toList.getD (colPrev d) 0) })

/-- An abort flit that came on link `l` reaches a collective (R400): it is forwarded, and reason 5 is raised. -/
def colAborted (s : State) (x : CtxId) (r : Run) (d : List Byte) (l : Nat) : State :=
  unitFault (abortFlits (colSpoil s x r d) ([colNext d, colPrev d].eraseDups.filter (· != l))) x .clp (collFlt r 5 l)

/-- The link on which an abort flit waits for a collective (R400). -/
def colWaiting (s : State) (d : List Byte) : Option (Fin 12) :=
  s.pkg.colAborts.find? fun l => l.val == colNext d || l.val == colPrev d

/-- The number of the collective of a run on its links. -/
def colOrd (r : Run) : Nat × Nat := match r.x with | .coll _ _ _ _ o => o | _ => (0, 0)

/-- The first step: descriptor, links, the source and the scratch area (R191, R192, R400). -/
def colStart (s : State) (x : CtxId) (r : Run) : State :=
  match engReadAll s x true (va56 r.a) 64 with
  | .error f => unitFault s x .clp f
  | .ok (s, d) =>
    if colBad d then collRaise (colCount s d) x r d 1 0
    else match colDown s d with
    | some l => collRaise (colCount s d) x r d 3 l
    | none =>
    match colWaiting s d with
    | some l => colAborted ((colCount s d).modPkg fun q => { q with colAborts := q.colAborts.filter (· != l) }) x r d l.val
    | none =>
      let gather := colKind r == 3
      let n := if gather then colN d else colDev d
      match colRead s x d 0 (colN d) with
      | .error f => unitFault s x .clp f
      | .ok (s, vs) => match colScratch s x r d with
        | (s, some f) => unitFault s x .clp f
        | (s, none) =>
          if gather then
            let (s, w) := wireOf s x d vs
            colIssue s x d [] ((List.replicate (colDev d) []).set (colRank d) w)
          else
            let acc := (List.range n).map fun i => let p := colPart d false i; accOf (colR d) ((vs.drop p.1).take p.2)
            colIssue s x d acc (List.replicate n [])

/-- A chunk is one of the run's collective: on its LPREV, with its number there (R191). -/
def rxMine (r : Run) (d : List Byte) (e : Fin 12 × Nat × List Byte) : Bool := e.1.val == colPrev d && e.2.1 == (colOrd r).2

/-- The first chunk received for a collective and not yet consumed. -/
def rxHead (s : State) (r : Run) (d : List Byte) : Option (List Byte) := (s.pkg.rx.find? (rxMine r d)).map (·.2.2)

/-- That chunk is consumed. -/
def rxDrop (s : State) (r : Run) (d : List Byte) : State :=
  s.modPkg fun p => { p with rx := match p.rx.findIdx? (rxMine r d) with | some k => p.rx.eraseIdx k | none => p.rx }

/-- A chunk leaves on LNEXT (R192). -/
def colSend (s : State) (r : Run) (d : List Byte) (w : List Byte) : State := sendOut s (.flits (Fin.ofNat 12 (colNext d)) (colOrd r).1 w)

/-- Rank index `a − b` in a ring of `n`. -/
def ringSub (n a b : Nat) : Nat := (a + 2 * n - b % n) % n

/-- The collective waits for a chunk. -/
def colAwait (s : State) (x : CtxId) : State := s.modRun x .clp ({ · with waits := true })

/-- The collective's state after a step. -/
def colNow (s : State) (x : CtxId) (d : List Byte) (step : Nat) (acc : List (List (BitVec 32))) (wire : List (List Byte)) : State :=
  s.modRun x .clp fun r => { r with x := .coll d step acc wire (colOrd r), waits := false, prog := step }

/-- The results are written to DST (R192). -/
def colFinish (s : State) (x : CtxId) (r : Run) (d : List Byte) (acc : List (List (BitVec 32))) (wire : List (List Byte)) : State :=
  let put (q : State × Option Flt) (first : Nat) (vs : List Num) : State × Option Flt :=
    match q with | (s, some f) => (s, some f) | (s, none) => colWrite s x r d first vs
  let res := match colKind r with
    | 2 => put (s, none) 0 (accVals (colR d) (acc.getD (colRank d) []))
    | 1 => (List.range (colDev d)).foldl (fun q i => put q (colPart d false i).1 (accVals (colR d) (acc.getD i []))) (s, none)
    | _ => (List.range (colDev d)).foldl (fun q i => put q (i * colN d) (unwire d (colN d) (wire.getD i []))) (s, none)
  match res with
  | (s, some f) => unitFault s x .clp f
  | (s, none) => markDone s x .clp

/-- A step of the first phase (R192): even steps send, odd ones receive and combine. -/
def colReduce (s : State) (x : CtxId) (r : Run) (d : List Byte) (step : Nat) (acc : List (List (BitVec 32))) (wire : List (List Byte)) : State :=
  let n := colDev d
  let t := step / 2
  if step % 2 = 0 then
    let (s, w) := wireOf s x d (accVals (colR d) (acc.getD (ringSub n (colRank d) (t + 1)) []))
    colNow (colSend s r d w) x d (step + 1) acc wire
  else
    let c := ringSub n (colRank d) (t + 2)
    let m := (colPart d false c).2
    match rxHead s r d with
    | none => colAwait s x
    | some bs =>
      let s := rxDrop s r d
      if bs.length ≠ wireBytes (colW d) m then collRaise s x r d 2 (colPrev d)
      else
        let v := colCombine d (unwire d m bs) (accVals (colR d) (acc.getD c []))
        colNow s x d (step + 1) (acc.set c (accOf (colR d) v)) wire

/-- A step of the second phase of an all-reduce, or of an all-gather (R192): step 0 sends the rank's own chunk, each later
one receives and forwards. -/
def colSpread (s : State) (x : CtxId) (r : Run) (d : List Byte) (base step : Nat) (acc : List (List (BitVec 32))) (wire : List (List Byte)) : State :=
  let n := colDev d
  let gather := colKind r == 3
  if step = 0 then
    let (s, w) := if gather then (s, wire.getD (colRank d) []) else wireOf s x d (accVals (colR d) (acc.getD (colRank d) []))
    let m := (colPart d gather (colRank d)).2
    let acc := if gather then acc else acc.set (colRank d) (accOf (colR d) (unwire d m w))
    colNow (colSend s r d w) x d (base + 1) acc (wire.set (colRank d) w)
  else
    let c := ringSub n (colRank d) step
    let m := (colPart d gather c).2
    match rxHead s r d with
    | none => colAwait s x
    | some bs =>
      let s := rxDrop s r d
      if bs.length ≠ wireBytes (colW d) m then collRaise s x r d 2 (colPrev d)
      else
        let s := if step < n - 1 then colSend s r d bs else s
        let acc := if gather then acc else acc.set c (accOf (colR d) (unwire d m bs))
        colNow s x d (base + step + 1) acc (wire.set c bs)

/-- One step of a collective (R192, R400). -/
def colWork (s : State) (x : CtxId) (r : Run) : State :=
  match r.x with
  | .coll d step acc wire _ =>
    let n := colDev d
    let base := if colKind r = 3 then 0 else 2 * (n - 1)
    let last := if colKind r = 2 then base else base + n
    match colDown s d with
    | some l => collRaise s x r d 3 l
    | none =>
      if last ≤ step then colFinish s x r d acc wire
      else if step < base then colReduce s x r d step acc wire
      else colSpread s x r d base (step - base) acc wire
  | _ => colStart s x r

/-! ### The engine -/

/-- The checks at the start of a CLP entry. -/
def clpBegin (s : State) (_ : CtxId) (r : Run) : Except Flt State :=
  if fldN r.hdr 0 8 = 0 then lsendBegin s r
  else match firstFlt [zeroOperand 24 r.b, zeroOperand 32 r.c] with | some f => .error f | none => .ok s

/-- One unit of work of a CLP entry. -/
def clpWork (s : State) (x : CtxId) (r : Run) : State := if fldN r.hdr 0 8 = 0 then lsendWork s x r else colWork s x r

/-- The descriptor of the collective that runs for context `x`. -/
def colRunning (s : State) (x : CtxId) : Option (Run × List Byte) :=
  match s.run x .clp with
  | none => none
  | some r => match r.x with | .coll d _ _ _ _ => if r.fault.isNone && !r.done then some (r, d) else none | _ => none

/-- A chunk arrives on LPREV (R192): it is held until the algorithm takes it, which it does at once when it waits. -/
def execCollChunkReceive (x : CtxId) (chunk : List Byte) (s : State) : Host.Outcome State Fault Refusal :=
  .next (match colRunning s x with
    | none => s
    | some (r, d) =>
      let s := s.modPkg fun p => { p with rx := p.rx ++ [(Fin.ofNat 12 (colPrev d), (colOrd r).2, chunk)] }
      if r.waits && mayWork s x .clp then colWork s x r else s)

/-- The fields that the two ends exchange when their collectives pair agree (R400): N, SFMT, WFMT, RFMT, OPS and NDEV. -/
def colAgree (d p : List Byte) : Bool := (d.drop 24).take 9 == (p.drop 24).take 9

/-- The rank that the other end of a link has: the next one's on LNEXT, the one before on LPREV (R191, R400). -/
def colPeerRank (d : List Byte) (next : Bool) : Nat := (colRank d + if next then 1 else colDev d - 1) % colDev d

/-- The collective of context `x` pairs on link `l` with the one of number `n` of the other end, whose descriptor's fields are
`p`: reason 2 or 4 where they do not match (R191, R400). -/
def colPairs (s : State) (x : CtxId) (l : Fin 12) (next : Bool) (n : Nat) (p : List Byte) : State :=
  match colRunning s x with
  | none => s
  | some (r, d) =>
    let o := colOrd r
    if (if next then l.val ≠ colNext d ∨ n ≠ o.1 else l.val ≠ colPrev d ∨ n ≠ o.2) then s
    else if !colAgree d p then collRaise s x r d 2 l.val
    else if dfield p 33 1 ≠ colPeerRank d next then collRaise s x r d 4 l.val
    else s

/-- The ends of link `l` pair their collectives of number `n` and exchange their descriptors (R191, R400; entry 64). -/
def colPeer (s : State) (l : Fin 12) (next : Bool) (n : Nat) (p : List Byte) : State :=
  ctxs.foldl (fun s x => colPairs s x l next n p) s

/-- The head of context `x` is a collective that has faulted: the flit of its ring has nothing left to end. -/
def colEnded (s : State) (x : CtxId) : Bool :=
  match s.run x .clp with | some r => colKind r != 0 && r.fault.isSome | none => false

/-- An abort flit for a collective of context `x` arrives on link `l` (R400): the collective that runs on the link forwards it and
raises reason 5. With none yet, the flit waits on the link for the next (entry 64). -/
def execCollAbortFlit (x : CtxId) (l : Fin 12) (s : State) : Host.Outcome State Fault Refusal :=
  let keep := if s.pkg.colAborts.contains l then s else s.modPkg fun q => { q with colAborts := q.colAborts ++ [l] }
  .next (match colRunning s x with
    | none => if colEnded s x then s else keep
    | some (r, d) => if l.val = colNext d ∨ l.val = colPrev d then colAborted s x r d l.val else keep)

/-! ### The instructions (R190) -/

/-- LSEND (R190), marked NR. -/
def execLsend (sync : BitVec 16) (a b c t : BitVec 6) (cb : BitVec 8) (s : State) : Host.Outcome State Fault Refusal :=
  retire s 2 (command s .clp 0 sync a b c t cb true [] namesNone)

/-- COLAR (R190), marked NR. -/
def execColar (sync : BitVec 16) (a b c t : BitVec 6) (cb : BitVec 8) (s : State) : Host.Outcome State Fault Refusal :=
  retire s 2 (command s .clp 1 sync a b c t cb true [] namesNone)

/-- COLRS (R190), marked NR. -/
def execColrs (sync : BitVec 16) (a b c t : BitVec 6) (cb : BitVec 8) (s : State) : Host.Outcome State Fault Refusal :=
  retire s 2 (command s .clp 2 sync a b c t cb true [] namesNone)

/-- COLAG (R190), marked NR. -/
def execColag (sync : BitVec 16) (a b c t : BitVec 6) (cb : BitVec 8) (s : State) : Host.Outcome State Fault Refusal :=
  retire s 2 (command s .clp 3 sync a b c t cb true [] namesNone)

end Sys2Proof.Machine
end

