-- ==== Sys2Proof/Machine/Gather.lean ====
section
/-! DEFINITION. The gather and expansion engine (R101 to R104, R188, R189, R399): compressed weight blocks and their
checks, GEXP, GEXPV, GATH and GSCAT. -/
namespace Sys2Proof.Machine

open Bits

/-! ### Blocks (R102, R103) -/

/-- One bit of the CRC of R102. -/
def crcBit (c : BitVec 16) : BitVec 16 := if bit c 15 then (c <<< 1) ^^^ 0x1021 else c <<< 1

/-- One byte of the CRC of R102. -/
def crcByte (c : BitVec 16) (b : Byte) : BitVec 16 :=
  (List.range 8).foldl (fun c _ => crcBit c) (c ^^^ (b ++ 0#8))

/-- The CRC of R102: polynomial 0x1021, initial value 0xFFFF, unreflected. -/
def crc16 (bs : List Byte) : BitVec 16 := bs.foldl crcByte 0xFFFF

/-- A block's header (R102). -/
structure Block where
  fmt    : Nat
  cbt    : BitVec 3
  sparse : Bool
  bsp    : Bool
  live   : BitVec 32
  plen   : Nat
deriving DecidableEq, Repr

/-- The header of a block (R102). -/
def blockOfBytes (d : List Byte) : Block where
  fmt := dfield d 1 1 % 32
  cbt := BitVec.ofNat 3 (dfield d 1 1 / 32)
  sparse := dfield d 2 1 % 2 == 1
  bsp := dfield d 2 1 / 2 % 2 == 1
  live := BitVec.ofNat 32 (dfield d 4 4)
  plen := dfield d 8 4

/-- Octets of a tile of format `f` (R102). -/
def octets (f : Nat) : Nat := tileK f / 8

/-- The live octets of a block, ascending (R103). -/
def Block.lives (b : Block) : List Nat := (List.range (octets b.fmt)).filter fun i => bit b.live i

/-- Bytes of one live octet (R103). -/
def Block.octetBytes (b : Block) : Nat := if b.sparse then 32 * fmtWidth b.fmt + 64 else 64 * fmtWidth b.fmt

/-- PLEN by R103. -/
def Block.size (b : Block) : Nat := b.lives.length * b.octetBytes + (if b.bsp then sideBytes b.fmt else 0)

/-- BLOCK with its reason and the tile index tr·NTC + tc, or a linear step index (R390, R399). -/
def blockFlt (reason idx : Nat) : Flt := ⟨0x18, BitVec.ofNat 48 idx ++ 0#8 ++ BitVec.ofNat 8 reason⟩

/-- The positions of index byte `v` break R103: two of one group are equal or descend. -/
def indexBad (v : Byte) : Bool :=
  decide (fldN v 2 2 ≤ fldN v 0 2) || decide (fldN v 6 2 ≤ fldN v 4 2)

/-- Bytes `o` to `o + n` of a list. -/
def slice (d : List Byte) (o n : Nat) : List Byte := (d.drop o).take n

/-- Some index byte of the live octets is bad (R399, reason 10). -/
def Block.indexFault (b : Block) (pay : List Byte) : Bool :=
  b.sparse && (List.range b.lives.length).any fun i =>
    (slice pay (i * b.octetBytes + 32 * fmtWidth b.fmt) 64).any indexBad

/-- Element `e` of width `w` of packed bytes (R59). -/
def elemOf (w : Nat) (d : List Byte) (e : Nat) : Nat :=
  if w = 4 then (d.getD (e / 2) 0).toNat / 16 ^ (e % 2) % 16 else dfield d (w / 8 * e) (w / 8)

/-- Elements of width `w` packed into bytes (R59). -/
def packBytes (w : Nat) (l : List Nat) : List Byte :=
  toBytes (BitVec.ofNat (w * l.length) (l.foldr (fun e a => e % 2 ^ w + a * 2 ^ w) 0)) (w * l.length / 8)

/-- The dense form of a sparse octet (R103, R104): b[8i+k′, j], the omitted values zero. -/
def denseOctet (w : Nat) (oct : List Byte) : List Byte :=
  packBytes w ((List.range 512).map fun e =>
    let k := e / 64
    let j := e % 64
    let g := k / 4
    let v : Byte := oct.getD (32 * w + j) 0
    let p0 := fldN v (4 * g) 2
    let p1 := fldN v (4 * g + 2) 2
    if k % 4 = p0 then elemOf w oct (64 * (2 * g) + j)
    else if k % 4 = p1 then elemOf w oct (64 * (2 * g + 1) + j) else 0)

/-- The dense vault form of a block's payload (R104): every octet, then the scales. -/
def Block.dense (b : Block) (pay : List Byte) : List Byte :=
  let w := fmtWidth b.fmt
  let oct (i : Nat) : List Byte :=
    match b.lives.findIdx? (· == i) with
    | none => List.replicate (64 * w) 0
    | some n => let o := slice pay (n * b.octetBytes) b.octetBytes; if b.sparse then denseOctet w o else o
  (List.range (octets b.fmt)).flatMap oct ++ pay.drop (b.lives.length * b.octetBytes)

/-! ### Reading a tile (R101, R104, R399) -/

/-- What an expansion finds: a block and its payload, or a tile of zeros; and the tensor scale where it applies. -/
structure Tile where
  block : Option (Block × List Byte)
  ts    : Option (BitVec 32)

/-- The checks of a block's header, reasons 4 to 8 (R399). -/
def headerReason (d : List Byte) (len : Nat) : Option Nat :=
  let b := blockOfBytes d
  if dfield d 0 1 ≠ 1 ∨ dfield d 3 1 ≠ 0 ∨ (firstNonzero d 12 18).isSome then some 4
  else if !tileFmts.contains b.fmt || (b.cbt != 0 && b.fmt != 10) then some 5
  else if dfield d 2 1 / 8 ≠ 0 ∨ (b.sparse ∧ dfield d 2 1 / 4 % 2 = 1) then some 6
  else if b.live &&& ~~~(denseLive b.fmt) ≠ 0 then some 7
  else if b.plen ≠ b.size ∨ len ≠ 32 + b.plen then some 8
  else none

/-- The next thing an expansion does: it reads some bytes, fails, or has the whole tile. -/
inductive TileStep where
  | want (va : VAddr) (n : Nat)
  | bad (f : Flt)
  | got (t : Tile)

/-- An expansion that has read the bytes `g`: 64 of the directory header, 8 of the tile's entry, 32 of the block's header, then
the payload unit by unit (R104); the checks of R399 in their order. `pair` is the check of R185 once the format is known. -/
def tileStep (r : Run) (g : List Byte) (pair : Nat → Bool → Option Flt) : TileStep :=
  let dir := va56 r.a
  let tr := fldN r.c 0 32
  let tc := fldN r.c 32 32
  let ntc := dfield g 12 4
  let idx := tr * ntc + tc
  if g.length < 64 then .want dir 64
  else if (firstNonzero g 21 43).isSome ∨ dfield g 20 1 / 2 ≠ 0 ∨ dfield g 0 8 % 32 ≠ 0 then .bad (blockFlt 1 idx)
  else if dfield g 8 4 ≤ tr ∨ ntc ≤ tc then .bad (blockFlt 2 idx)
  else if g.length < 72 then .want (dir + BitVec.ofNat 56 (64 + 8 * idx)) 8
  else
    let w : Word := BitVec.ofNat 64 (dfield g 64 8)
    let ts := if dfield g 20 1 = 1 then some (BitVec.ofNat 32 (dfield g 16 4)) else none
    let at' : VAddr := BitVec.ofNat 56 (dfield g 0 8 + fldN w 0 40)
    if fld w 60 3 ≠ 0 ∨ fldN w 0 40 % 32 ≠ 0 then .bad (blockFlt 3 idx)
    else if bit w 63 then .got ⟨none, ts⟩
    else if g.length < 104 then .want at' 32
    else
      let d := slice g 72 32
      let b := blockOfBytes d
      let pay := g.drop 104
      match headerReason d (fldN w 40 20), pair b.fmt b.bsp with
      | some n, p => .bad (if 6 < n then p.getD (blockFlt n idx) else blockFlt n idx)
      | none, some f => .bad f
      | none, none =>
        let va := at' + BitVec.ofNat 56 (32 + pay.length)
        if pay.length < b.plen then .want va (min (64 - va.toNat % 64) (b.plen - pay.length))
        else if crc16 (d.take 30 ++ pay) ≠ BitVec.ofNat 16 (dfield d 30 2) then .bad (blockFlt 9 idx)
        else if b.indexFault pay then .bad (blockFlt 10 idx)
        else .got ⟨some (b, pay), ts⟩

/-- The bytes that an expansion has read. -/
def Run.tileBytes (r : Run) : List Byte := match r.x with | .tile g => g | _ => []

/-- An expansion reads its next unit (R104, R389). -/
def tileRead (s : State) (x : CtxId) (r : Run) (va : VAddr) (n : Nat) : Except Flt State :=
  match engReadAll s x true va n with
  | .error f => .error f
  | .ok (s, bs) => .ok (s.modRun x .gxe ({ · with x := .tile (r.tileBytes ++ bs) }))

/-- A fault of an expansion: a replay reads the tile again from its start. -/
def tileFault (s : State) (x : CtxId) (f : Flt) : State :=
  if f = heldFlt then s else unitFault (s.modRun x .gxe ({ · with x := .plain })) x .gxe f

/-! ### GEXP and GEXPV (R188, R399) -/

/-- A slot's tag and scale from a block and the directory (R188). -/
def gexpTag (f : Nat) (cbt : BitVec 3) (bsp sparse : Bool) (ts : Option (BitVec 32)) : BitVec 16 :=
  mkTag f bsp ts.isSome false cbt ||| (b1 sparse).setWidth 16 <<< 11

/-- The slot takes a tile's data and scales (R188, R210). The bytes of the dead octets of a sparse slot stay as they were (entry
123). -/
def gexpData (s : State) (i : BitVec 6) (b : Block) (pay : List Byte) : State :=
  let n := b.lives.length * b.octetBytes
  let put (v : Slot) (e : Nat × Nat) : Slot := v.putData (e.1 * b.octetBytes) (slice pay (e.2 * b.octetBytes) b.octetBytes)
  let v := if b.sparse then b.lives.zipIdx.foldl put (s.slot i)
    else (s.slot i).putData 0 ((b.dense pay).take 8192)
  let s := s.setSlot i v
  if b.bsp then
    let side := pay.drop n
    let s := putSide s i 0 (side.take 256)
    if 256 < side.length then putSide s i 256 (side.drop 256) else s
  else s

/-- The format of a tile that the directory says is zero: its block is not read, and the spec states none (entry 20). -/
def zeroFmt (s : State) : Nat := tileFmts.getD ((freeWord s 0).toNat % 6) 2

/-- What the slot's tag, scale and LIVE become is kept with the entry until it completes. -/
def Run.keepTag (r : Run) (tag : BitVec 16) (ts live : BitVec 32) : Run := { r with x := .desc (toBytes (live ++ ts ++ 0#48 ++ tag) 16) }

/-- The fault of a GEXP returns its slot to CLAIMED (R399). One that names the odd half of a pair faults with MISUSE 0x04, once it learns
that the tile has 4-bit elements and block scales, and otherwise with 0x02 (R185, R368, R381). -/
def gexpFault (s : State) (x : CtxId) (r : Run) (f : Flt) : State :=
  if f = heldFlt then s
  else if oddHalf s (slotArg r) then tileFault s x (if f.cause = 0x06 then f else misuse 0x02 (slotArg r).toNat 0)
  else tileFault (modSlot s (slotArg r) fun v => { v with state := 1, tag := 0, ts := 0x3F800000, live := 0 }) x f

/-- GEXP into its slot (R188): one unit read, or the slot filled; a replay fills the slot again from the start. -/
def gexpWork (s : State) (x : CtxId) (r : Run) : State :=
  let i := slotArg r
  match (if (s.slot i).state = 2 then none else ownMisuse s x i) with
  | some f => unitFault s x .gxe f
  | none =>
    let s := if (s.slot i).state = 2 || oddHalf s i then s else fillStart s i
    let odd := oddMisuse s i
    match tileStep r r.tileBytes (fun f b => (pairMisuse (s.setSlot i { s.slot i with state := 1 }) i f b).or odd) with
    | .bad f => gexpFault s x r f
    | .want va n => match tileRead s x r va n with | .ok s => s | .error f => gexpFault s x r f
    | .got t =>
      if odd.isSome then gexpFault s x r (odd.getD heldFlt)
      else
      let ts := t.ts.getD 0x3F800000
      match t.block with
      | some (b, pay) =>
        (gexpData s i b pay).modRun x .gxe fun q =>
          { q.keepTag (gexpTag b.fmt b.cbt b.bsp b.sparse t.ts) ts (if b.sparse then b.live else denseLive b.fmt) with
            done := true }
      | none =>
        let f := zeroFmt s
        (s.setSlot i { s.slot i with data := 0 }).modRun x .gxe fun q =>
          { q.keepTag (gexpTag f 0 false false t.ts) ts (denseLive f) with done := true }

/-- The completion of a GEXP (R188). -/
def gexpEnd (s : State) (r : Run) : State :=
  match r.x with
  | .desc d => fillEnd s (slotArg r) (BitVec.ofNat 16 (dfield d 0 2)) (BitVec.ofNat 32 (dfield d 8 4)) (BitVec.ofNat 32 (dfield d 12 4))
  | _ => s

/-- Write bytes in 64-byte units of offset from unit `u` on, counting them (R389). -/
def writeUnits (s : State) (x : CtxId) (e : Eng) (seq : Word) (va : VAddr) (bs : List Byte) (u : Nat) : State × Option Flt :=
  (List.range (unitsIn bs.length)).foldl (fun q i => match q with
    | (s, some f) => (s, some f)
    | (s, none) =>
      if i < u then (s, none)
      else
        let b := slice bs (64 * i) 64
        match unitWriteFlt s x (va + BitVec.ofNat 56 (64 * i)) b.length with
        | some f => (s, some f)
        | none => match engWriteAll s x e seq (va + BitVec.ofNat 56 (64 * i)) b with
          | (s, some f) => (s, some f)
          | (s, none) => (s.modRun x e ({ · with prog := i + 1 }), none)) (s, none)

/-- GEXPV writes the dense vault form (R104, R188): one unit read, or the destination written. -/
def gexpvWork (s : State) (x : CtxId) (r : Run) : State :=
  match tileStep r r.tileBytes fun _ _ => none with
  | .bad f => tileFault s x f
  | .want va n => match tileRead s x r va n with | .ok s => s | .error f => tileFault s x f
  | .got t =>
    let bs := match t.block with | some (b, pay) => b.dense pay | none => List.replicate 8192 0
    match writeUnits s x .gxe r.seq (va56 r.b) bs r.prog with
    | (s, some f) => tileFault s x f
    | (s, none) => markDone s x .gxe

/-! ### GATH and GSCAT (R189, R418) -/

/-- Element size of a gather descriptor. -/
def gathSize (d : List Byte) : Nat := 2 ^ dfield d 28 1

/-- NR for a gather or scatter whose ranges overlap (R418). -/
def gathNr (d : List Byte) (scat : Bool) : Bool :=
  let z := gathSize d
  let n := dfield d 24 4
  let list (b m : Nat) : Bool := rangesMeet (dfield d 16 8) (z * n) b m
  let reach := z * 2 ^ 32
  decide (0 < n) && (list (dfield d 0 8) reach ||
    (if scat then rangesMeet (dfield d 0 8) reach (dfield d 8 8) (4 * n) else list (dfield d 8 8) (4 * n)))

/-- The start of a GATH or GSCAT: its descriptor (R189, R390, R418). -/
def gathBegin (s : State) (x : CtxId) (r : Run) : Except Flt State :=
  match firstFlt [zeroOperand 24 r.b, zeroOperand 32 r.c] with
  | some f => .error f
  | none => match engReadAll s x true (va56 r.a) 32 with
    | .error f => .error f
    | .ok (s, d) => match firstFlt [fltIf (6 < dfield d 28 1) (descLimit d 28 1), reservedLimit d 29 3] with
      | some f => .error f
      | none =>
        let s := s.modRun x .gxe ({ · with x := .desc d })
        .ok (if gathNr d (fldN r.hdr 0 8 == 3) then setNr s x .gxe else s)

/-- One element of a GATH or GSCAT (R189). -/
def gathWork (s : State) (x : CtxId) (r : Run) : State :=
  let d := descOf r
  let n := dfield d 24 4
  let z := gathSize d
  let i := r.prog
  if n ≤ i then markDone s x .gxe
  else unitEnd x .gxe n (match engReadAll s x true (BitVec.ofNat 56 (dfield d 8 8 + 4 * i)) 4 with
    | .error f => (s, some f)
    | .ok (s, k) =>
      let tab : VAddr := BitVec.ofNat 56 (dfield d 0 8 + z * ofBytes k)
      let lst : VAddr := BitVec.ofNat 56 (dfield d 16 8 + z * i)
      if fldN r.hdr 0 8 = 3 then copyUnit s x .gxe r.seq lst tab z else copyUnit s x .gxe r.seq tab lst z)

/-! ### The engine -/

/-- The interlock of a GXE head (R214). -/
def gxeReady (s : State) (x : CtxId) (d : List Byte) : Option Nat :=
  if entryCode d = 0 ∧ fillWaits s x (BitVec.ofNat 6 (dfield d 24 8)) then some 10 else none

/-- The checks and effects at the start of a GXE entry. -/
def gxeBegin (s : State) (x : CtxId) (r : Run) : Except Flt State :=
  match fldN r.hdr 0 8 with
  | 0 => match ownMisuse s x (slotArg r) with
    | some f => .error f
    | none => .ok (if oddHalf s (slotArg r) then s else fillStart s (slotArg r))
  | 1 => .ok s
  | _ => gathBegin s x r

/-- One unit of work of a GXE entry. -/
def gxeWork (s : State) (x : CtxId) (r : Run) : State :=
  match fldN r.hdr 0 8 with
  | 0 => gexpWork s x r
  | 1 => gexpvWork s x r
  | _ => gathWork s x r

/-- What the completion of a GXE entry does to the comb. -/
def gxeEnd (s : State) (r : Run) : State := if fldN r.hdr 0 8 = 0 then gexpEnd s r else s

/-! ### The instructions (R188) -/

/-- GEXP (R188). -/
def execGexp (sync : BitVec 16) (a b c t : BitVec 6) (cb : BitVec 8) (s : State) : Host.Outcome State Fault Refusal :=
  retire s 2 (command s .gxe 0 sync a b c t cb false [] namesSlot)

/-- GEXPV (R188). -/
def execGexpv (sync : BitVec 16) (a b c t : BitVec 6) (cb : BitVec 8) (s : State) : Host.Outcome State Fault Refusal :=
  retire s 2 (command s .gxe 1 sync a b c t cb false [] namesNone)

/-- GATH (R188, R189). -/
def execGath (sync : BitVec 16) (a b c t : BitVec 6) (cb : BitVec 8) (s : State) : Host.Outcome State Fault Refusal :=
  retire s 2 (command s .gxe 2 sync a b c t cb false [] namesNone)

/-- GSCAT (R188, R189). -/
def execGscat (sync : BitVec 16) (a b c t : BitVec 6) (cb : BitVec 8) (s : State) : Host.Outcome State Fault Refusal :=
  retire s 2 (command s .gxe 3 sync a b c t cb false [] namesNone)

end Sys2Proof.Machine
end

