-- ==== Sys2Proof/Machine/Mxe.lean ====
section
/-! DEFINITION. The matrix engine (R78, R79, R145, R210, R219 to R231, R341, R415, R419): the steps of a nest over exact
octet trees, low-rank correction and epilogue, the exponent bound, AREAD and CBLD, the rebuild of a bank, and the
instructions MGO and AREAD. -/
namespace Sys2Proof.Machine

open Bits

/-! ### Operands of a step (R67, R103, R210, R226) -/

/-- A row of A or a column of B in one octet: its eight values, those that the sparse layout omits, the block scale, and
whether a reserved INT4S pattern was read. -/
structure OctRow where
  vals : List Num
  bs   : Option Nat
  res  : Bool

/-- Element `e` of width `w` of a slot's data (R59). -/
def Slot.elem (v : Slot) (w e : Nat) : Nat := fldN v.data (w * e) w

/-- Byte `k` of the sideband image of a slot, which for a pair goes on in the odd half (R211). -/
def sideByte (s : State) (i : BitVec 6) (k : Nat) : Nat :=
  if k < 256 then fldN (s.slot i).side (8 * k) 8 else fldN (s.slot (i + 1)).side (8 * (k - 256)) 8

/-- The block scale of row or column `r` in octet `o`; none when BSP = 0 (R103). -/
def octScale (s : State) (i : BitVec 6) (o r : Nat) : Option Nat :=
  if tagBsp (s.slot i).tag then some (sideByte s i (64 * (o / 4) + r)) else none

/-- The elements of row or column `r` in octet `o` of a dense tile (R103). -/
def denseRow (v : Slot) (w o r : Nat) (aRole : Bool) : List (Option Nat) :=
  (List.range 8).map fun k => some (v.elem w (512 * o + if aRole then 8 * r + k else 64 * k + r))

/-- The elements of column `j` in octet `o` of a sparse tile, none where the layout omits one (R103, R226). -/
def sparseRow (v : Slot) (w o j : Nat) : List (Option Nat) :=
  let base := o * (32 * w + 64)
  let idx := fldN v.data (8 * (base + 32 * w + j)) 8
  let e0 := base * 8 / w + j
  (List.range 8).map fun k =>
    let g := k / 4
    if k % 4 = idx / 16 ^ g % 4 then some (v.elem w (e0 + 128 * g))
    else if k % 4 = idx / 4 / 16 ^ g % 4 then some (v.elem w (e0 + 128 * g + 64)) else none

/-- Row or column `r` of octet `o` of slot `i`, in format `f` with codebook `cb`, scaled by its block scale (R67, R78). -/
def octRow (s : State) (i : BitVec 6) (f : Nat) (cb : BitVec 256) (o : Nat) (aRole sparse : Bool) (r : Nat) : OctRow :=
  let v := s.slot i
  let w := fmtWidth f
  let es := if sparse then sparseRow v w o r else denseRow v w o r aRole
  let bs := octScale s i o r
  { vals := es.map fun e => match e with | none => Num.zero | some b => scaleVal bs none (decodeReal cb f b)
    bs := bs
    res := decide (f = 9) && es.any (· == some 8) }

/-- The products of an omitted place count as +0 (R78): no product is formed. -/
def octKept (s : State) (i : BitVec 6) (f o r : Nat) (sparse : Bool) : List Bool :=
  if sparse then (sparseRow (s.slot i) (fmtWidth f) o r).map (·.isSome) else List.replicate 8 true

/-- The tree of R78 over eight terms, exact. -/
def tree8 (l : List Num) : Num :=
  let p (i : Nat) : Num := l.getD i .zero
  (((p 0).add (p 1)).add ((p 2).add (p 3))).add (((p 4).add (p 5)).add ((p 6).add (p 7)))

/-- The eight products of an output (R78). -/
def octProducts (a b : List Num) (kept : List Bool) : List Num :=
  ((a.zip b).zip kept).map fun e => if e.2 then e.1.1.mul e.1.2 else .zero

/-! ### The exponent bound (R229) -/

/-- The exponent of a finite nonzero value. -/
def Num.exponent : Num → Option Int
  | .fin _ m e => if m = 0 then none else some ((m.log2 : Int) + e)
  | _ => none

/-- X of a format (R229): for CB4, of the largest-magnitude entry of the table. -/
def boundX (f : Nat) (cb : BitVec 256) : Int :=
  match f with
  | 2 => 127 | 5 => 8 | 6 => 15 | 7 => 2 | 9 => 2
  | _ => (((List.range 16).filterMap fun i => (cbEntry cb i).exponent).foldl max (-133))

/-- The octet's sum exceeds its bound (R229). -/
def suspect (sv : Num) (products : List Num) (bnd : Int) : Bool :=
  match sv with
  | .inf _ => products.all fun p => match p with | .fin _ _ _ => true | _ => false
  | .fin _ _ _ => match sv.exponent with | some e => decide (bnd < e) | none => false
  | .nan => false

/-! ### A tile of accumulators -/

/-- The accumulators of a bank: FP32 patterns, row by row. -/
abbrev Acc64 := List (List Nat)

/-- The rows of a bank. -/
def Bank.acc (b : Bank) : Acc64 := b.rows.toList.map fun r => (List.range 64).map (elemAt 32 r)

/-- A bank with new rows. -/
def Bank.putAcc (b : Bank) (a : Acc64) : Bank := { b with rows := Vector.ofFn fun i => packElems 32 (a.getD i.val []) }

/-- A tile of zeros. -/
def zeroAcc : Acc64 := List.replicate 64 (List.replicate 64 0)

/-- An FP32 pattern as a value. -/
def f32 (b : Nat) : Num := decodeReal 0 1 b

/-- A pattern is a NaN or an infinity: the kind of R341. -/
def eventKind (b : Nat) : Option Nat := match f32 b with | .nan => some 1 | .inf _ => some 2 | _ => none

/-- What a K-octet step comes to: the accumulators, the first provenance event, flags, and the output that exceeded its
bound (octet, i, j). -/
structure StepRes where
  acc : Acc64
  ev  : Option NumEvent
  fl  : BitVec 3
  sus : Option (Nat × Nat × Nat)

/-- The place of an event in the order of R341: (i, j), octet, kind. -/
def NumEvent.rank (e : NumEvent) : Nat := ((e.i * 64 + e.j) * 128 + e.oct) * 8 + e.kind

/-- The first of two provenance events of a step (R341). -/
def evMin (a b : Option NumEvent) : Option NumEvent :=
  match a, b with
  | none, b => b
  | a, none => a
  | some a, some b => if b.rank < a.rank then some b else some a

/-- The NaN and infinite results of a tile, as events of octet `o` (R341). -/
def resultEvents (o : Nat) (acc : Acc64) (ev : Option NumEvent) : Option NumEvent :=
  acc.zipIdx.foldl (fun e row => row.1.zipIdx.foldl (fun e v =>
    match eventKind v.1 with | none => e | some k => evMin e (some ⟨row.2, v.2, o, k⟩)) e) ev

/-- The operands of a step: slots, formats, codebooks, and whether B is sparse. -/
structure StepOps where
  sa  : BitVec 6
  sb  : BitVec 6
  fa  : Nat
  fb  : Nat
  ca  : BitVec 256
  cb  : BitVec 256
  spb : Bool

/-- An error that strikes the octet tree of one output as its K-octet step is performed, and the sum that comes out (R415;
entry 95). -/
def treeError (s : State) : Option ((Nat × Nat) × Nat) :=
  match s.core.flaw with
  | some (.tree i j) => some ((i.toNat, j.toNat), (Config.bits s.tick 32).toNat)
  | _ => none

/-- One live octet of a step (R78, R224, R229): `first` stores the sum, otherwise it is added; the tree of `bad` errs (R415). -/
def octStep (s : State) (p : StepOps) (o : Nat) (first : Bool) (bad : Option ((Nat × Nat) × Nat)) (q : StepRes) : StepRes :=
  let rows := (List.range 64).map (octRow s p.sa p.fa p.ca o true false)
  let cols := (List.range 64).map fun j => (octRow s p.sb p.fb p.cb o false p.spb j, octKept s p.sb p.fb o j p.spb)
  let xab := boundX p.fa p.ca + boundX p.fb p.cb + 4
  let sc := fun (r : OctRow) => ((r.bs.bind e8m0).getD 0 : Int)
  let cell (r : OctRow) (i : Nat) (c : OctRow × List Bool) (j : Nat) : Nat × Bool :=
    let ps := octProducts r.vals c.1.vals c.2
    let sb := match bad.filter (·.1 == (i, j)) with | some b => b.2 | none => rne 1 (tree8 ps)
    let v := if first then sb else rne 1 ((f32 ((q.acc.getD i []).getD j 0)).add (f32 sb))
    (v, suspect (f32 sb) ps (sc r + sc c.1 + xab))
  let out : List (List (Nat × Bool)) := rows.zipIdx.map fun r => cols.zipIdx.map fun c => cell r.1 r.2 c.1 c.2
  let acc := out.map (·.map (·.1))
  let ev1 := resultEvents o acc q.ev
  let ev2 := rows.zipIdx.foldl (fun e r => if r.1.res then evMin e (some ⟨r.2, 0, o, 3⟩) else e) ev1
  let ev3 := cols.zipIdx.foldl (fun e c => if c.1.1.res then evMin e (some ⟨0, c.2, o, 3⟩) else e) ev2
  let hit := out.zipIdx.findSome? fun row => (row.1.findIdx? (·.2)).map fun j => (o, row.2, j)
  { acc := acc, ev := ev3,
    fl := q.fl ||| (if rows.any (·.res) || cols.any (·.1.res) then fI4res else 0),
    sus := if q.sus.isSome then q.sus else hit }

/-- The octets of a step that are live in its B slot, ascending (R224, R225). -/
def StepOps.live (s : State) (p : StepOps) : List Nat := (List.range (octets p.fb)).filter fun o => bit (s.slot p.sb).live o

/-! ### Low-rank correction (R227) -/

/-- T[i, c]: the octet trees of a[i, ·]·V[·, c] over K, rounded to FP32 and then to BF16. -/
def lowT (s : State) (p : StepOps) (vs : List Nat) (i : Nat) (c : Nat) : Nat :=
  let sum := (List.range (octets p.fa)).foldl (fun (q : Option Nat) o =>
    let a := (octRow s p.sa p.fa p.ca o true false i).vals
    let v := (octRow s (BitVec.ofNat 6 (vs.getD (o / 8) 0)) 2 0 (o % 8) false false c).vals
    let t := rne 1 (tree8 (octProducts a v (List.replicate 8 true)))
    some (match q with | none => t | some x => rne 1 ((f32 x).add (f32 t)))) none
  rne 2 (f32 (sum.getD 0))

/-- The low-rank term reads the A tile whole (R227): a reserved INT4S pattern in an octet that is dead in B counts as read there
(R63, R341). -/
def lowReads (s : State) (p : StepOps) : Option NumEvent :=
  if p.fa ≠ 9 then none
  else ((List.range (octets p.fa)).filter fun o => !(p.live s).contains o).foldl (fun e o =>
    (List.range 64).foldl (fun e i =>
      if (octRow s p.sa p.fa p.ca o true false i).res then evMin e (some ⟨i, 0, o, 3⟩) else e) e) none

/-- Elements (i, c) of T are put into the lent banks from LB on, with the BF16 tag (R227). Their ANA is also that
of the U slot, an operand of the step though not of T: the model's choice (entry 124). -/
def putT (c : Ctx) (lb r : Nat) (t : List (List Nat)) (ana : Bool) : Ctx :=
  let put (c : Ctx) (k : Nat) : Ctx :=
    -- register k of the banks: elements 128·k … of the bank's 512
    let reg : BitVec 5 := BitVec.ofNat 5 (4 * lb + k)
    let v := c.vreg reg
    let es := (List.range 128).map fun e =>
      let n := 128 * (k % 4) + e
      let col := 8 * (k / 4) + n % 8
      if col < r then some ((t.getD (n / 8) []).getD col 0) else none
    c.setVreg reg { v with data := mergeElems 16 v.data es, tag := mkTag 2 false false ana 0 }
  (List.range (4 * ((r + 7) / 8))).foldl put c

/-- acc[i, j] + RNE(Σ T[i, c]·U[j, c]) (R227). -/
def lowAdd (s : State) (usl : BitVec 6) (r : Nat) (t : List (List Nat)) (acc : Acc64) : Acc64 :=
  let us := (List.range 64).map fun j => (List.range r).map fun c =>
    (octRow s usl 2 0 (c / 8) true false j).vals.getD (c % 8) .zero
  acc.zipIdx.map fun (row, i) =>
    let ti := (t.getD i []).map fun b => decodeReal 0 2 b
    row.zipIdx.map fun (a, j) =>
      let l := ((ti.zip (us.getD j [])).map fun e => e.1.mul e.2).foldl Num.add (.fin true 0 0)
      rne 1 ((f32 a).add (f32 (rne 1 l)))

/-! ### Epilogue (R228) -/

/-- EOP 1 and 2: the bias of each column is added, under RNE. -/
def biasSum (eop : Nat) (bias : List Num) (acc : Acc64) : Acc64 :=
  acc.map fun row => row.zipIdx.map fun (v, j) => if eop = 1 ∨ eop = 2 then rne 1 ((f32 v).add (bias.getD j .zero)) else v

/-- A negative element, −0 included, is +0; a NaN stays. -/
def relu (v : Nat) : Nat := match f32 v with | .nan => v | x => if x.sign then 0 else v

/-- EOP 2 and 3: every negative element is replaced. -/
def reluAll (eop : Nat) (acc : Acc64) : Acc64 := acc.map (·.map fun v => if eop = 2 ∨ eop = 3 then relu v else v)

/-- The epilogue over a tile, with the bias of each column. -/
def epilogue (eop : Nat) (bias : List Num) (acc : Acc64) : Acc64 := reluAll eop (biasSum eop bias acc)

/-! ### One step (R224) -/

/-- The tag check of a slot in a role (R68, R225, R378): operand 1 A, 2 B, 3 V or U. -/
def slotTag (s : State) (lid : BitVec 16) (i : BitVec 6) (f : Nat) (sparse : Bool) (operand step : Nat) : Option Flt :=
  let t := (s.slot i).tag
  if tagFmt t ≠ f then some (tagFlt t operand 1 step)
  else if bit t 11 ≠ sparse then some (tagFlt t operand 2 step)
  else if f = 10 ∧ (cbLoaded s lid (fldN t 8 3)).isNone then some (tagFlt t operand 3 step)
  else none

/-- The tensor scale of a slot, 1.0 when it has none (R79). -/
def slotTs (v : Slot) : Num := if tagTsp v.tag then f32 v.ts.toNat else .fin false 1 0

/-- The table that a CB4 slot names, as it stands (R64, R230). -/
def slotCb (s : State) (v : Slot) : BitVec 256 := (s.core.cbs.toList.getD (fldN v.tag 8 3) ⟨0, none, []⟩).data

/-- A writer of context `x` names a bank that is FREE, FREEING, or another context's (R381, code 0x08). -/
def writeMisuse (s : State) (x : CtxId) (i : BitVec 5) : Option Flt :=
  let b := s.bank i
  if b.state ≠ 1 ∨ b.alc ≠ x then
    some (misuse 0x08 i.toNat (0#28 ++ BitVec.ofNat 2 b.alc.val ++ b.state)) else none

/-- The checks of step `k` before it has any effect (R68, R79, R224, R227, R228, R399). -/
def stepFault (s : State) (x : CtxId) (c : NestCfg) (k : Nat) : Option Flt :=
  let is := c.indices k
  let (sa, sb, bk) := c.place is
  let a := s.slot (BitVec.ofNat 6 sa)
  let b := s.slot (BitVec.ofNat 6 sb)
  let bank := s.bank (BitVec.ofNat 5 bk)
  let lid := (s.cx x).lid
  let ts := BitVec.ofNat 32 (rne 1 ((slotTs a).mul (slotTs b)))
  let fk := c.first is
  let er := (s.cx x).vreg (BitVec.ofNat 5 c.ereg)
  let tsNow := if fk then ts else bank.ts
  let st := k % 256
  let badIndex := c.spb && (List.range (octets c.bfmt)).any fun o => bit b.live o && (List.range 64).any fun j =>
    indexBad (fld b.data (8 * (o * (32 * fmtWidth c.bfmt + 64) + 32 * fmtWidth c.bfmt + j)) 8)
  firstFlt ([writeMisuse s x (BitVec.ofNat 5 bk),
    slotTag s lid (BitVec.ofNat 6 sa) c.afmt false 1 st, slotTag s lid (BitVec.ofNat 6 sb) c.bfmt c.spb 2 st,
    fltIf (!fk && tagFmt bank.tag != 1) (tagFlt bank.tag 0 1 st), fltIf (!fk && bit bank.tag 11) (tagFlt bank.tag 0 2 st), fltIf (!fk && bank.ts != ts) (tagFlt bank.tag 0 5 st)] ++
    (if c.lr then ((c.vslots is).map fun v => slotTag s lid (BitVec.ofNat 6 v) 2 false 3 st) ++
      [slotTag s lid (BitVec.ofNat 6 c.usl) 2 false 3 st] else []) ++
    (if c.last is && (c.eop == 1 || c.eop == 2) then
      [fltIf (tagFmt er.tag != 1) (tagFlt er.tag 3 1 st), fltIf (bit er.tag 11) (tagFlt er.tag 3 2 st),
       fltIf (tagTsp er.tag && er.ts != tsNow) (tagFlt er.tag 3 5 st)] else []) ++
    [fltIf badIndex (blockFlt 10 k)])

/-- SUSPECT of a step (R415). -/
def suspectFlt (k : Nat) (h : Nat × Nat × Nat) : Flt :=
  ⟨0x31, 0#8 ++ BitVec.ofNat 8 h.2.2 ++ BitVec.ofNat 8 h.2.1 ++ BitVec.ofNat 8 h.1 ++ BitVec.ofNat 32 k⟩

/-- The operands of step `k`. -/
def stepOps (s : State) (c : NestCfg) (k : Nat) : StepOps :=
  let (sa, sb, _) := c.place (c.indices k)
  let a : BitVec 6 := BitVec.ofNat 6 sa
  let b : BitVec 6 := BitVec.ofNat 6 sb
  ⟨a, b, c.afmt, c.bfmt, slotCb s (s.slot a), slotCb s (s.slot b), c.spb⟩

/-- The bank that step `k` updates. -/
def stepTarget (c : NestCfg) (k : Nat) : BitVec 5 := BitVec.ofNat 5 (c.place (c.indices k)).2.2

/-- Some slot of the low-rank term of step `k` has analogue origin (R69). -/
def lowAna (s : State) (c : NestCfg) (k : Nat) : Bool :=
  c.lr && (c.usl :: c.vslots (c.indices k)).any fun v => tagAna (s.slot (BitVec.ofNat 6 v)).tag

/-- A step that begins (R79, R224): a first-K step zeroes the bank and sets its tag and scale; any step merges ANA. -/
def beginStep (s : State) (c : NestCfg) (k : Nat) : State :=
  let p := stepOps s c k
  let a := s.slot p.sa
  let b := s.slot p.sb
  let i := stepTarget c k
  let bank := s.bank i
  let ana := tagAna a.tag || tagAna b.tag
  if c.first (c.indices k) then
    s.setBank i { (bank.putAcc zeroAcc) with
      tag := mkTag 1 false (tagTsp a.tag || tagTsp b.tag) ana 0
      ts := BitVec.ofNat 32 (rne 1 ((slotTs a).mul (slotTs b))), emit := false }
  else s.setBank i { bank with tag := bank.tag ||| (b1 ana).setWidth 16 <<< 7 }

/-- What follows the octets of step `k` (R227, R228): the low-rank term and the epilogue, with their events (R341), as of an
octet after the last. A bias sum is a result whether or not it is then replaced. -/
def endStepWork (s : State) (x : CtxId) (c : NestCfg) (k : Nat) : State × StepRes :=
  let is := c.indices k
  let p := stepOps s c k
  let i := stepTarget c k
  let bank := s.bank i
  let lk := c.last is
  let er := (s.cx x).vreg (BitVec.ofNat 5 c.ereg)
  let bias := (List.range 64).map fun j => (valueAt 0 er false j).1
  let useBias := lk && (c.eop == 1 || c.eop == 2)
  let t := if c.lr then (List.range 64).map fun r => (List.range c.rank).map (lowT s p (c.vslots is) r) else []
  let low := if c.lr then lowAdd s (BitVec.ofNat 6 c.usl) c.rank t bank.acc else bank.acc
  let acc := if lk then epilogue c.eop bias low else low
  let reads := if c.lr then lowReads s p else none
  let n := octets p.fa
  let ev := if c.lr then resultEvents n low reads else reads
  let ev := if useBias then resultEvents n (biasSum c.eop bias low) ev else ev
  let ana := lowAna s c k || (useBias && tagAna er.tag)
  let s := s.setBank i { (bank.putAcc acc) with tag := bank.tag ||| (b1 ana).setWidth 16 <<< 7, emit := bank.emit || lk }
  (if c.lr then s.modCx x fun v => putT v c.lb c.rank t (tagAna (s.slot p.sa).tag || lowAna s c k) else s,
   ⟨acc, ev, if reads.isSome then fI4res else 0, none⟩)

/-- K-octet step `u` of step `k` (R221, R224), its checks passed: one live octet added into the bank, or, after the last of
them, what follows; the tree of `bad` errs (R415). -/
def octetUnit (s : State) (x : CtxId) (c : NestCfg) (k u : Nat) (bad : Option ((Nat × Nat) × Nat)) : State × StepRes :=
  let p := stepOps s c k
  let s := if u = 0 then beginStep s c k else s
  match (p.live s)[u]? with
  | none => endStepWork s x c k
  | some o =>
    let i := stepTarget c k
    let q := octStep s p o (c.first (c.indices k) && u == 0) bad ⟨(s.bank i).acc, none, 0, none⟩
    (s.setBank i ((s.bank i).putAcc q.acc), q)

/-- Number of K-octet steps of step `k`, with what follows the octets. -/
def stepUnits (s : State) (c : NestCfg) (k : Nat) : Nat := ((stepOps s c k).live s).length + 1

/-- The first `n` K-octet steps of step `k`, one after another. -/
def stepEffect (s : State) (x : CtxId) (c : NestCfg) (k n : Nat) : State :=
  (List.range n).foldl (fun s u => (octetUnit s x c k u none).1) s

/-- RAS.CTL.SUSACT, 3 treated as 1 (R412). -/
def susAct (s : State) : Nat := let v := fldN (ctl s 0xF00000) 0 2; if v = 3 then 1 else v

/-- DBG.NPIDX[p] (R332). -/
def oNpidx (p : Nat) : Nat := 0x801000 + 8 * p
/-- DBG.NPREC[p,0] (R332). -/
def oNprec (p : Nat) : Nat := 0x900000 + 0x200 * p

/-- A numeric provenance record (R341); of a result that no octet gives the octet byte is free (entry 97). -/
def provenance (s : State) (x : CtxId) (r : Run) (c : NestCfg) (e : NumEvent) : State :=
  let is := c.indices r.prog
  let (sa, sb, bk) := c.place is
  let byte (n : Nat) : Byte := BitVec.ofNat 8 n
  let bs := toBytes (entryName s x 1 r.seq) 8 ++ is.map byte ++ [byte sa, byte sb, byte bk, byte e.i, byte e.j,
    if e.oct < octets c.afmt then byte e.oct else Config.bits s.tick 8, byte e.kind, byte c.afmt, byte c.bfmt] ++ List.replicate 9 0
  let p := s.core.phys.toNat
  let idx := ctl s (oNpidx p)
  setCtl (setCtlBytes s (oNprec p + 32 * (idx.toNat % 16)) bs) (oNpidx p) (idx + 1)

/-- The nest of a started MGO. -/
def nestOf (r : Run) : Option NestCfg := match r.x with | .nest c _ _ _ => some c | _ => none

/-- The bank as the step in progress found it, beside its owners (R415). -/
def undoStep (s : State) (i : BitVec 5) (old : Option Bank) : State :=
  match old with
  | none => s
  | some o => s.setBank i { s.bank i with rows := o.rows, tag := o.tag, ts := o.ts, emit := o.emit }

/-- K-octet step `u` of step `k` as it is performed, with what CTL.SUSACT directs for a suspect one (R415): 1 recomputes the octet,
which clears an error of the tree and counts it. The last part is the output that stays suspect, which raises SUSPECT. -/
def octetTried (s : State) (x : CtxId) (c : NestCfg) (k u : Nat) : State × StepRes × Option (Nat × Nat × Nat) :=
  let (t, q) := octetUnit s x c k u (treeError s)
  if q.sus.isNone || susAct s = 0 then (t, q, none)
  else if susAct s = 2 then (t, q, q.sus)
  else
    let (t, p) := octetUnit s x c k u none
    match p.sus with
    | none => (countCE t 9, { p with sus := q.sus }, none)
    | some h => (t, p, some h)

/-- One unit of an MGO: a K-octet step (R221, R224, R415). A suspect sum that raises SUSPECT leaves the bank as before the step. -/
def nestUnit (s : State) (x : CtxId) (r : Run) (c : NestCfg) (u : Nat) (old : Option Bank) (ev : Option NumEvent) : State :=
  let k := r.prog
  let i := stepTarget c k
  match (if u = 0 then stepFault s x c k else none) with
  | some f => unitFault s x .mxe f
  | none =>
    let old := if u = 0 then some (s.bank i) else old
    let (s', q, sus) := octetTried s x c k u
    match sus with
    | some h =>
      let s := (undoStep s i old).modRun x .mxe ({ · with x := .nest c 0 none none })
      unitFault (s.modCx x (·.setFlags 0 aSuspect)) x .mxe (suspectFlt k h)
    | none =>
      let e := evMin ev q.ev
      let s' := s'.modRun x .mxe fun r => { r with
        fmtst := r.fmtst ||| q.fl, accf := r.accf ||| (if q.sus.isSome then aSuspect else 0) }
      if u + 1 < stepUnits s' c k then s'.modRun x .mxe ({ · with x := .nest c (u + 1) old e })
      else
        let s' := match e with | some e => if r.npdone then s' else provenance s' x r c e | none => s'
        s'.modRun x .mxe fun r => { r with
          prog := k + 1, done := decide (c.steps ≤ k + 1), npdone := r.npdone || e.isSome, x := .nest c 0 none none }

/-! ### The start of an MGO (R214, R222 to R224, R381, R418) -/

/-- The nest committed in the shadow set that byte 40 names. -/
def shadowNest (c : Ctx) (b40 : Byte) : Option NestCfg := ((c.shadow.toList.getD b40.toNat none).map (·.1))

/-- MISUSE 0x12 of MXCn (R381). -/
def mxcMisuse (c : NestCfg) (n : Nat) : Flt := misuse 0x12 n (fld (c.toList.getD n 0) 0 32)

/-- Lent banks that the low-rank intermediate takes (R227). -/
def NestCfg.lowBanks (c : NestCfg) : List Nat := (List.range ((c.rank + 7) / 8)).map (c.lb + ·)

/-- The checks of a nest as it starts (R222, R228, R381): codes 0x12, 0x11, then the slots. -/
def nestMisuse (s : State) (x : CtxId) (r : Run) (c : NestCfg) : Option Flt :=
  let lent := runLent (s.cx x) r
  let er : BitVec 5 := BitVec.ofNat 5 c.ereg
  firstFlt ([fltIf (!tileFmts.contains c.afmt || !tileFmts.contains c.bfmt || tileK c.afmt != tileK c.bfmt) (mxcMisuse c 7),
    fltIf (c.lr && (c.rank == 0 || decide (32 < c.rank) || decide (c.lb < 4) || decide (7 < c.lb + (c.rank + 7) / 8 - 1)))
      (mxcMisuse c 8),
    fltIf (decide (3 < c.eop)) (mxcMisuse c 9)] ++
    (if c.lr then c.lowBanks.map fun b => fltIf (!lentReg lent (BitVec.ofNat 5 (4 * b))) (misuse 0x11 (4 * b) 0) else []) ++
    [fltIf ((c.eop == 1 || c.eop == 2) && !lentReg lent er) (misuse 0x11 c.ereg 0)] ++
    (c.slotSet.mergeSort (· ≤ ·)).map fun i => fillMisuse s x (BitVec.ofNat 6 i))

/-- A read of the slots starts: IN-USE (R214). -/
def slotsInUse (s : State) (c : NestCfg) : State :=
  c.slotSet.foldl (fun s i => modSlot s (BitVec.ofNat 6 i) ({ · with state := 4 })) s

/-- The window keeps the nest and the fills of its slots (R419). -/
def keepNest (s : State) (x : CtxId) (seq : Word) (c : NestCfg) : State :=
  let fs := c.slotSet.map fun i => (BitVec.ofNat 6 i, (s.slot (BitVec.ofNat 6 i)).fills)
  s.modEq x .mxe fun q => { q with window := q.window.map fun k => if k.seq = seq then { k with nest := some c, fills := fs } else k }

/-- The start of an MGO. -/
def mgoBegin (s : State) (x : CtxId) (r : Run) : Except Flt State :=
  match shadowNest (s.cx x) r.b40 with
  | none => .error ⟨0x01, r.hdr⟩
  | some c =>
    match nestMisuse s x r c with
    | some f => .error f
    | none =>
      let s := keepNest (slotsInUse s c) x r.seq c
      let s := s.modRun x .mxe ({ · with x := .nest c 0 none none })
      .ok (if 2 ^ 20 < c.steps then setNr s x .mxe else s)

/-! ### AREAD (R219) and CBLD (R230) -/

/-- The checks of an AREAD (R219, R381, R390). -/
def areadFault (s : State) (x : CtxId) (r : Run) : Option Flt :=
  let (i, _, nr, _) := rowWord r.a
  firstFlt [fltIf (decide (31 < fldN r.b 0 5 + nr - 1)) (misuse 0x0D i.toNat (fld r.a 0 32)), rowMisuse s x r.a,
    fltIf (fld r.a 22 42 != 0) (limitFlt 16 false r.a), fltIf (fld r.b 5 59 != 0) (limitFlt 24 false r.b), zeroOperand 32 r.c]

/-- The register that a row of a bank becomes (R219). -/
def rowReg (b : Bank) (row : Nat) : VReg :=
  if b.state = 0 then .reset
  else { data := b.rows.toList.getD row 0, tag := setFld b.tag 5 0#1, ts := b.ts, bs := 0 }

/-- One row of an AREAD (R219). -/
def areadWork (s : State) (x : CtxId) (r : Run) : State :=
  let (i, r0, nr, _) := rowWord r.a
  let b := s.bank i
  (s.modCx x (·.setVreg (fld r.b 0 5 + BitVec.ofNat 5 r.prog) (rowReg b (r0 + r.prog)))).modRun x .mxe fun q =>
    { q with prog := q.prog + 1, done := decide (nr ≤ q.prog + 1), accf := q.accf ||| (if b.state = 0 then aUnalloc else 0) }

/-- CBLD replaces its table and records the launch that loaded it (R230); entries of VXE that were appended before it keep what
they see (R64). -/
def cbldWork (s : State) (x : CtxId) (r : Run) : State :=
  match engReadAll s x true (va56 r.b) 32 with
  | .error f => unitFault s x .mxe f
  | .ok (s, bs) =>
    let keep := (ctxs.any fun y => !(s.eq y .vxe).records.isEmpty) ||
      s.pkg.tasks.any fun t => t.kept.any fun c => !(c.eq .vxe).records.isEmpty
    let load (b : Codebook) : Codebook := ⟨BitVec.ofNat 256 (ofBytes bs), some (s.cx x).lid,
      if keep then ⟨(s.cx x).task, ((r.pend.map (·.rel)).getD 0), b.data, b.lid⟩ :: b.past else []⟩
    markDone (s.modCore fun k => { k with cbs := k.cbs.mapIdx fun i b => if i = fldN r.a 0 3 then load b else b }) x .mxe

/-! ### Uncorrectable errors inside the core (R411, R412, R419; entry 95) -/

/-- The banks that a step writes, and whether it is a first-K step. -/
def stepBank (c : NestCfg) (k : Nat) : Nat × Bool := let is := c.indices k; ((c.place is).2.2, c.first is)

/-- The steps of a window's nests, oldest first, with the number of K-octet steps of each; for an entry still running only
those it has performed. -/
def windowSteps (s : State) (x : CtxId) : List (NestCfg × Nat × Nat) :=
  let q := s.eq x .mxe
  q.window.flatMap fun k => match k.nest with
    | none => []
    | some v =>
      let c : NestCfg := v
      let whole (n : Nat) := (List.range n).map fun i => (c, i, stepUnits s c i)
      match q.run with
      | some r => if r.seq = k.seq then
          whole r.prog ++ (match r.x with | .nest _ u _ _ => if u = 0 then [] else [(c, r.prog, u)] | _ => [])
        else whole c.steps
      | none => whole c.steps

/-- The banks that a window writes. -/
def windowBanks (st : List (NestCfg × Nat × Nat)) : List Nat := (st.map fun e => (stepBank e.1 e.2.1).1).eraseDups

/-- The window of context `x` covers a rebuild (R419). -/
def rebuildOk (s : State) (x : CtxId) : Bool :=
  let q := s.eq x .mxe
  let st := windowSteps s x
  covered q && (windowBanks st).all (fun b => let v := s.bank (BitVec.ofNat 5 b); v.state == 1 && v.alc == x &&
      ((st.map fun e => stepBank e.1 e.2.1).find? (·.1 == b)).any (·.2)) &&
    q.window.all fun k => k.fills.all fun f => (s.slot f.1).fills == f.2

/-- Rebuild the banks that the window of `x` writes (R419): zeros, then every nest again. -/
def rebuildBanks (s : State) (x : CtxId) : State :=
  let st := windowSteps s x
  let s := (windowBanks st).foldl (fun s b => s.setBank (BitVec.ofNat 5 b) ((s.bank (BitVec.ofNat 5 b)).putAcc zeroAcc)) s
  st.foldl (fun s e => stepEffect s x e.1 e.2.1 e.2.2) s

/-- A UCE on a bank at reading entry `r` of engine `e` is answered by a rebuild where it is possible (R411, R419): at
most two for one entry; UEINFO.OUT := 2. None: UCE is raised. -/
def rebuild (s : State) (x : CtxId) (e : Eng) (r : Run) (bank : BitVec 5) : Option State :=
  let y := (s.bank bank).alc
  if r.rebuilt < 2 ∧ rebuildOk s y then
    some (rasRecord ((rebuildBanks s y).modRun x e fun k => { k with rebuilt := k.rebuilt + 1 }) 0 6 2 (some (lcore s)))
  else none

/-- The bank that a started entry reads or updates now. -/
def runBank (r : Run) : BitVec 5 := match nestOf r with | some c => stepTarget c r.prog | none => fld r.a 0 5

/-- A bank that entry `r` reads is uncorrectable (R411): rebuilt, or UCE on the reading engine. -/
def bankError (s : State) (x : CtxId) (e : Eng) (r : Run) (f : Store) : State :=
  match rebuild (countUE s (storeUnit f)) x e r (runBank r) with
  | some s => s
  | none => entryFault (storeError s f) x e (storeUce f)

/-- A slot that MXE reads is uncorrectable (R411): its data is not defined until it is refilled. -/
def slotError (s : State) (x : CtxId) (i : BitVec 6) (f : Store) : State :=
  entryFault ((storeError s f).setSlot i { s.slot i with data := Config.bits s.tick 65536, side := Config.bits (s.tick + 1) 2048 })
    x .mxe (storeUce f)

/-- The slots that K-octet step `u` of step `k` reads. -/
def unitSlots (s : State) (c : NestCfg) (k u : Nat) : List (BitVec 6) :=
  let p := stepOps s c k
  if u < (p.live s).length then [p.sa, p.sb]
  else if c.lr then p.sa :: (c.usl :: c.vslots (c.indices k)).map (BitVec.ofNat 6) else []

/-- A store that K-octet step `u` of a nest's step reads is uncorrectable (R411). -/
def nestFlaw (s : State) (x : CtxId) (r : Run) (c : NestCfg) (u : Nat) (f : Store) : Option State :=
  let k := r.prog
  let n := ((stepOps s c k).live s).length
  let p := stepOps s c k
  let reads (fmt : Nat) (i : BitVec 6) (t : Nat) : Bool := fmt == 10 && fldN (s.slot i).tag 8 3 == t
  match f with
  | .bank i row =>
    if i = stepTarget c k ∧ row < 64 ∧ ¬ (u = 0 ∧ c.first (c.indices k)) then some (bankError s x .mxe r f) else none
  | .slot i => if (unitSlots s c k u).contains i then some (slotError s x i f) else none
  | .codebook t => if (u < n ∨ c.lr) ∧ reads p.fa p.sa t ∨ u < n ∧ reads p.fb p.sb t then some (tableError s x .mxe t f) else none
  | .vdata y v | .vtag y v | .vscale y v =>
    if y = x ∧ v.toNat = c.ereg ∧ c.last (c.indices k) ∧ (c.eop = 1 ∨ c.eop = 2) ∧ n ≤ u then some (ctxError s x f) else none
  | _ => none

/-- A store that the unit of entry `r` on MXE reads is uncorrectable (R411). -/
def mxeFlaw (s : State) (x : CtxId) (r : Run) (f : Store) : Option State :=
  match r.x, f with
  | .nest c u _ _, f => nestFlaw s x r c u f
  | .plain, .bank i row =>
    let (b, r0, _, _) := rowWord r.a
    if fldN r.hdr 0 8 = 1 ∧ i = b ∧ row = r0 + r.prog then some (bankError s x .mxe r f) else none
  | _, _ => none

/-- One unit of an MGO. -/
def nestWork (s : State) (x : CtxId) (r : Run) : State :=
  match r.x with
  | .nest c u old ev => nestUnit s x r c u old ev
  | _ => markDone s x .mxe

/-! ### The engine -/

/-- The interlock of an MXE head (R214, R224): a slot of the context that its nest reads is not READY. -/
def mxeReady (s : State) (x : CtxId) (d : List Byte) : Option Nat :=
  if entryCode d ≠ 0 then none
  else match shadowNest (s.cx x) (BitVec.ofNat 8 (dfield d 40 1)) with
  | none => none
  | some c =>
    if c.slotSet.any fun i =>
      let v := s.slot (BitVec.ofNat 6 i)
      v.own == x && (v.state == 1 || v.state == 2 || v.state == 4) then some 10 else none

/-- The checks and effects at the start of an MXE entry. -/
def mxeBegin (s : State) (x : CtxId) (r : Run) : Except Flt State :=
  match fldN r.hdr 0 8 with
  | 0 => mgoBegin s x r
  | 1 => match areadFault s x r with | some f => .error f | none => .ok s
  | _ => match alignFlt s x 32 5 (va56 r.b) with | some f => .error f | none => .ok s

/-- One unit of work of an MXE entry. -/
def mxeWork (s : State) (x : CtxId) (r : Run) : State :=
  match s.core.flaw.bind (mxeFlaw s x r) with
  | some t => t
  | none => match fldN r.hdr 0 8 with
  | 0 => nestWork s x r
  | 1 => areadWork s x r
  | _ => cbldWork s x r

/-- What the completion of an MXE entry does to slots and shadow set (R214, R223). -/
def mxeEnd (s : State) (x : CtxId) (r : Run) : State :=
  if fldN r.hdr 0 8 ≠ 0 then s
  else
    let s := match nestOf r with
      | none => s
      | some c => c.slotSet.foldl (fun s i =>
          if (s.slot (BitVec.ofNat 6 i)).state = 4 ∧ (s.slot (BitVec.ofNat 6 i)).own = x then
            modSlot s (BitVec.ofNat 6 i) fun v => if v.relp then v.freed else { v with state := 3 }
          else s) s
    s.modCx x fun c => { c with shadow := c.shadow.map fun h => match h with
      | some (n, seq) => if seq = r.seq then none else some (n, seq)
      | none => none }

/-! ### The instructions (R219, R223) -/

/-- The lowest free shadow set (R223). -/
def freeSet (c : Ctx) : Option Nat := c.shadow.toList.findIdx? (·.isNone)

/-- The configuration that an MGO commits: MXC0 to MXC9, MXC6 from s[a] when a ≠ 0 (R223). -/
def mgoNest (s : State) (a : BitVec 6) : NestCfg :=
  let c := s.cx s.core.cur
  if a = 0 then c.mxc else c.mxc.set 6 (s.reg a)

/-- MGO (R223): waits for a shadow set, commits the nest and appends its entry. -/
def execMgo (sync : BitVec 16) (a t : BitVec 6) (cb : BitVec 8) (s : State) : Host.Outcome State Fault Refusal :=
  retire s 2 (
    let x := s.core.cur
    match freeSet (s.cx x) with
    | none => .wait 12
    | some k =>
      if hazard s [a, t] [] then .wait 15
      else
      let n := mgoNest s a
      match command s .mxe 0 sync a 0 0 t cb false [BitVec.ofNat 8 k] (fun _ _ _ _ => namesNest n) with
      | .done s => .done (s.modCx x fun c => { c with shadow := c.shadow.setIfInBounds k (some (n, (c.eq .mxe).qlast)) })
      | r => r)

/-- AREAD (R219). -/
def execAread (sync : BitVec 16) (a b c t : BitVec 6) (cb : BitVec 8) (s : State) : Host.Outcome State Fault Refusal :=
  retire s 2 (command s .mxe 1 sync a b c t cb false [] namesRead)

end Sys2Proof.Machine
end

