-- ==== Sys2Proof/Machine/Packet.lean ====
section
/-! DEFINITION. Consumers of shared queues (R148 to R151, R206, R396, R450): the check of a control block, taking a
packet, rejecting one, its post, and the services of the copy hubs (R207). -/
namespace Sys2Proof.Machine

open Bits

/-! ### Physical accesses of a consumer (R389) -/

/-- The fault of an access at a physical address for a world, when it has one (R317, R389). -/
def physFault (s : State) (world : Bool) (kind a : Nat) : Option Flt :=
  if !world && worldOf s a then some (accFlt 0x13 kind (BitVec.ofNat 56 a))
  else if region s a = .none then some (accFlt 0x14 kind (BitVec.ofNat 56 a))
  else ndRefused s a

/-- UCE at a poisoned word of memory (R409, R410), at its address as the consumer sees it. -/
def uceAt (s : State) (va : VAddr) (u : Nat) : Flt := ⟨0x30, uceVal va (rasUnit s (8 * u))⟩

/-- The record of an uncorrectable error that no core met (R412). -/
def ueSeen (s : State) (u out : Nat) : State := rasRecord s (8 * u) (rasUnit s (8 * u)) out none

/-- A unit of the range is held, since its near-DRAM bank is (R99). -/
def qHeld (s : State) (root : Word) (world : Bool) (kind : Nat) (va : VAddr) (n : Nat) : Bool :=
  (pieces (n / 64 + 2) va.toNat n).any fun p =>
    match xlateUnit s root world kind (BitVec.ofNat 56 p.1) with | .error f => decide (f = heldFlt) | .ok _ => false

/-- Read a range through a queue's root, piece by piece (R206, R389): bytes, and which lie in poisoned words; `heldFlt` for a unit
that is held (R99). -/
def qRead (s : State) (root : Word) (world : Bool) (va : VAddr) (n : Nat) : Except Flt (List (Byte × Option Nat)) :=
  (pieces (n / 64 + 2) va.toNat n).foldl (fun r p => match r with
    | .error f => .error f
    | .ok bs => match xlateUnit s root world 5 (BitVec.ofNat 56 p.1) with
      | .error f => .error f
      | .ok t =>
        let a := t.pa.toNat
        .ok (bs ++ ((homeBytes s a p.2).zipIdx.map fun e =>
          (e.1, if s.pkg.poison.contains ((a + e.2) / 8) then some ((a + e.2) / 8) else none)))) (.ok [])

/-- Read a range whose poison is consumed (R409). -/
def qReadStrict (s : State) (root : Word) (world : Bool) (va : VAddr) (n : Nat) : Except Flt (List Byte) :=
  match qRead s root world va n with
  | .error f => .error f
  | .ok l => match l.zipIdx.findSome? fun e => e.1.2.map fun u => (u, e.2) with
    | some (u, i) => .error (uceAt s (va + BitVec.ofNat 56 i) u)
    | none => .ok (l.map (·.1))

/-- The first fault of the pieces that a write meets (R389). -/
def qWriteFault (s : State) (root : Word) (world : Bool) (va : VAddr) (n : Nat) : Option Flt :=
  (pieces (n / 64 + 2) va.toNat n).findSome? fun p =>
    match xlateUnit s root world 6 (BitVec.ofNat 56 p.1) with | .error f => some f | .ok _ => none

/-- Write a range through a queue's root, piece by piece; pieces before one that faults stay written (R396). Nothing is written
while a piece is held (R99). -/
def qWrite (s : State) (root : Word) (world : Bool) (lid : Option (BitVec 16)) (who : Writer) (va : VAddr) (bs : List Byte) : State × Option Flt :=
  if qHeld s root world 6 va bs.length then (s, some heldFlt)
  else (pieces (bs.length / 64 + 2) va.toNat bs.length).foldl (fun r p => match r with
    | (s, some f) => (s, some f)
    | (s, none) => match xlateRoot s root world 6 (BitVec.ofNat 56 p.1) with
      | .error f => (s, some f)
      | .ok t =>
        let b := (bs.drop (p.1 - va.toNat)).take p.2
        let a := t.pa.toNat
        (hitCheck (homeStore s (.core world) a b) lid a b.length who, none)) (s, none)

/-- The ports through which a write of [va, va + n) leaves the package (R124, R125, R207). -/
def outPorts (s : State) (root : Word) (world : Bool) (va : VAddr) (n : Nat) : List Nat :=
  ((pieces (n / 64 + 2) va.toNat n).filterMap fun p =>
    match xlateRoot s root world 6 (BitVec.ofNat 56 p.1) with
    | .error _ => none
    | .ok t => portOf (homeOf s t.pa.toNat)).eraseDups

/-! ### Records and posts (R363, R396, R450) -/

/-- A fault-log record of kind 7 (R363): the cause with its TVAL (R390, R410), and the address concerned. -/
def queueRecord (s : State) (n i : Nat) (f : Flt) (addr : Word) : State :=
  faultLog s 7 f.cause 0 0 (BitVec.ofNat 64 (n + 256 * i)) 0 0 f.val addr


/-- The address whose access faulted, for the causes that name one (R363, R390). -/
def Flt.addr (f : Flt) : Word :=
  if f.cause = 0x30 ∨ (0x10 ≤ f.cause ∧ f.cause ≤ 0x16 ∧ f.cause ≠ 0x15) then fld f.val 0 56 |>.setWidth 64 else 0

/-- CPL of a packet. -/
def Packet.cpl (p : Packet) : Bool := dfield p.bytes 5 1 % 2 == 1
/-- COMPL of a packet. -/
def Packet.compl (p : Packet) : VAddr := BitVec.ofNat 56 (dfield p.bytes 8 8)
/-- CODE of a packet. -/
def Packet.code (p : Packet) : Nat := dfield p.bytes 4 1

/-- Post `v` to COMPL when CPL is set; a post that faults is not performed and is recorded (R396). -/
def packetPost (s : State) (p : Packet) (v : Word) : State :=
  if !p.cpl then s
  else match postRoot s p.root p.world p.compl v with
    | .ok s => s
    | .error f => queueRecord s p.cons p.slot f (p.compl.setWidth 64)

/-- The record of a packet that gets no post (R396, R450). -/
def packetRecord (s : State) (p : Packet) (f : Flt) : State := queueRecord s p.cons p.slot f f.addr

/-- The value posted for a rejected packet (R396). -/
def errorPost : Word := 0x8000000000000001

/-- An OPP entry that wrote packet `p` has its report. -/
def Run.report (p : Packet) (ok : Bool) (r : Run) : Run :=
  match r.x with
  | .opp i (some n) true none b => if i.val = p.slot ∧ n = p.index then { r with x := .opp i (some n) true (some ok) b } else r
  | _ => r

/-- The OPP entry of a saved context has its report. -/
def Ctx.report (p : Packet) (ok : Bool) (c : Ctx) : Ctx :=
  { c with q := c.q.set 5 { c.q.get 5 with run := (c.q.get 5).run.map (·.report p ok) } }

/-- The report of an optical packet reaches the OPP entry that wrote it (R272, R395), also one that a save has kept (R366). -/
def reportTo (s : State) (p : Packet) (ok : Bool) : State :=
  if p.cons ≠ 16 then s
  else (ctxs.foldl (fun s x => s.modRun x .opp (·.report p ok)) s).modPkg fun k =>
    { k with tasks := k.tasks.map fun t => { t with kept := t.kept.map (·.report p ok) } }

/-- A packet is rejected for a fault (R396): no further work; the error post where it asks for one that may be made, and otherwise
a record (R450). -/
def rejectPacket (s : State) (p : Packet) (post : Bool) (f : Flt) : State :=
  reportTo (if post && p.cpl then packetPost s p errorPost else packetRecord s p f) p false

/-- The uncorrectable error behind a rejection is recorded (R401, R412). -/
def rejectUe (s : State) (p : Packet) (f : Flt) : State :=
  if f.cause = 0x30 then
    match xlateRoot s p.root p.world 5 (fld f.val 0 56) with
    | .ok t => ueSeen s (t.pa.toNat / 8) 3
    | .error _ => s
  else s

/-- A packet whose work faulted ends (R127, R396): its error post comes once its writes are performed. With `sel` it is found
again. -/
def Packet.failed (p : Packet) (f : Flt) : Packet := { p with done := true, err := some (f.cause, f.val) }

/-- The end of a packet whose writes are performed: its post, or its rejection (R207, R396). -/
def packetEnd (s : State) (p : Packet) : State :=
  match p.err with
  | some f => rejectPacket s p true ⟨f.1, f.2⟩
  | none => reportTo (packetPost s p 1) p true

/-- Its post is held with its near-DRAM bank (R99). -/
def postHeld (s : State) (p : Packet) : Bool := p.cpl && qHeld s p.root p.world 6 p.compl 8

/-! ### The control block (R148, R206, R450) -/

/-- SQ.QCB[n,i]. -/
def qcb (s : State) (n i : Nat) : Word := ctl s (oQcb n i)
/-- The control block of a queue. -/
def qAddr (s : State) (n i : Nat) : Nat := fldN (qcb s n i) 6 46 * 64
/-- The queue's world. -/
def qWorld (s : State) (n i : Nat) : Bool := bit (qcb s n i) 62

/-- What a consumer finds at a queue's turn: nothing to take, a queue that waits or is passed over, or a packet: its
index, its slot's address, and its VALID word. -/
inductive Turn where
  | idle
  | stuck (f : Flt) (addr : Word)
  | ready (index : Word) (va : VAddr) (valid : Nat)
deriving DecidableEq, Repr

/-- The check of a control block as bytes: LDEPTH, BASE, reserved bytes (R450). -/
def cbFault (d : List Byte) : Option Flt :=
  firstFlt [fltIf (decide (dfield d 24 1 < 4) || decide (12 < dfield d 24 1)) (descLimit d 24 1),
    fltIf (dfield d 16 8 % 4096 != 0) (descLimit d 16 8), reservedLimit d 25 39]

/-- The slot of index `i` (R148). -/
def slotVa (d : List Byte) (i : Word) : VAddr := BitVec.ofNat 56 (dfield d 16 8 + 64 * (i.toNat % 2 ^ dfield d 24 1))

/-- The turn of queue `i` of consumer `n` (R148, R151, R318, R450). -/
def queueTurn (s : State) (n i : Nat) : Turn :=
  let w := qWorld s n i
  let a := qAddr s n i
  if !bit (qcb s n i) 63 then .idle
  else if n < 16 ∧ (blockWorld s (.hub (Fin.ofNat 16 n)) ≠ w ∨ blockChanging s (.hub (Fin.ofNat 16 n))) then .idle
  else match physFault s w 5 a with
  | some f => .stuck f (BitVec.ofNat 64 a)
  | none => if ndHold s a then .idle else match poisonAt s a 64 with
    | some u => .stuck (uceAt s (BitVec.ofNat 56 (8 * u)) u) (BitVec.ofNat 64 (8 * u))
    | none =>
      let d := homeBytes s a 64
      match cbFault d with
      | some f => .stuck f (BitVec.ofNat 64 a)
      | none =>
        let r : Word := BitVec.ofNat 64 (dfield d 8 8)
        let va := slotVa d r
        match qReadStrict s (ctl s (oQroot n i)) w va 4 with
        | .error f => if f = heldFlt then .idle else .stuck f (va.setWidth 64)
        | .ok v => if ofBytes v % 2 ^ 16 = (r.toNat + 1) % 2 ^ 16 then .ready r va (ofBytes v) else .idle

/-- A poisoned word that keeps a queue from being served is recorded (R409, R412): one of the control block, or of VALID. -/
def stuckUe (s : State) (n i : Nat) (f : Flt) : State :=
  if f.cause ≠ 0x30 then s
  else match poisonAt s (qAddr s n i) 64 with
  | some u => ueSeen s u 3
  | none => match xlateRoot s (ctl s (oQroot n i)) (qWorld s n i) 5 (fld f.val 0 56) with
    | .ok t => ueSeen s (t.pa.toNat / 8) 3
    | .error _ => s

/-- One record of a queue that waits or is passed over, until its QCB is written (R450). -/
def queueStuck (s : State) (n i : Nat) (f : Flt) (addr : Word) : State :=
  if s.pkg.qbad.contains (n, i) then s
  else (queueRecord (stuckUe s n i f) n i f addr).modPkg fun p => { p with qbad := p.qbad ++ [(n, i)] }

/-- The consumer can take a packet of queue `i` now: a hub works on fewer than eight (R207), the dispatcher holds none of
that queue (R273), the launch service holds none (R324). -/
def consumerFree (s : State) (n i : Nat) : Bool :=
  if n < 16 then decide ((s.pkg.packets.filter (·.cons == n)).length < 8)
  else if n = 16 then !s.pkg.packets.any (fun p => p.cons == 16 && p.slot == i && !p.done)
  else s.pkg.submit.isNone

/-- The rotation of consumer `n` (R206). -/
def rotation (s : State) (n : Nat) : List Nat :=
  (List.range 16).map fun k => ((lookup s.pkg.qrot n).getD 15 + 1 + k) % 16

/-- The first queue of the rotation with a packet that the consumer can take. -/
def nextQueue (s : State) (n : Nat) : Option Nat :=
  (rotation s n).find? fun i => consumerFree s n i && (match queueTurn s n i with | .ready _ _ _ => true | _ => false)

/-- The queues before `i` in the rotation that wait or are passed over are recorded (R450). -/
def recordStuck (s : State) (n : Nat) : State :=
  (rotation s n).foldl (fun s i => match queueTurn s n i with | .stuck f a => queueStuck s n i f a | _ => s) s

/-! ### Fields of packets (R149, R207, R324, R396) -/

/-- The CODE is one of the service's (R396; entry 103 for the cause). -/
def codeFault (p : Packet) (l : List Nat) : Option Flt := fltIf (!l.contains p.code) (descLimit p.bytes 4 1)

/-- The fields that every service checks: VALID[31:16], PFLAGS, bytes 6 and 7 (R149, R396). -/
def commonFault (p : Packet) : Option Flt :=
  firstFlt [fltIf (dfield p.bytes 2 2 != 0) (descLimit p.bytes 2 2), fltIf (decide (2 ≤ dfield p.bytes 5 1)) (descLimit p.bytes 5 1),
    reservedLimit p.bytes 6 2]

/-- The fields of a copy-hub packet (R207). -/
def hubFault (p : Packet) : Option Flt :=
  firstFlt [codeFault p [1, 2, 3], if p.code = 3 then none else reservedLimit p.bytes 36 4, reservedLimit p.bytes 40 24]

/-- The fields of a launch-service packet (R324). -/
def submitFault (p : Packet) : Option Flt := firstFlt [codeFault p [1], reservedLimit p.bytes 24 40]

/-! ### Taking a packet (R151, R396, R450) -/

/-- RIDX rises and the rotation moves on (R151, R206). -/
def ridxUp (s : State) (n i : Nat) (index : Word) : State :=
  let a := qAddr s n i + 8
  let s := writeHome s (.core (qWorld s n i)) a 8 (index + 1)
  (dwCheck s a 8 deviceWriter).modPkg fun p => { p with qrot := insert p.qrot n i }

/-- The packet at a queue's head is taken: its bytes, COMPL's check, the fields; `bad` are the service's own checks. The
packet is handed over, or rejected. -/
def takeFrom (s : State) (n i : Nat) (bad : State → Packet → Option Flt) (give : State → Packet → State) : State :=
  match queueTurn s n i with
  | .idle => s
  | .stuck f a => queueStuck s n i f a
  | .ready index va valid =>
    let root := ctl s (oQroot n i)
    let w := qWorld s n i
    let blank : Packet := { cons := n, slot := i, index := index, world := w, root := root, bytes := [], prog := 0,
                            done := false, posts := [], err := none, spe := none }
    match qRead s root w (va + 4) 60 with
    | .error f => if f = heldFlt then s else rejectPacket (ridxUp s n i index) blank false f
    | .ok l =>
      let p := { blank with bytes := toBytes (BitVec.ofNat 32 valid) 4 ++ l.map (·.1) }
      let s := ridxUp s n i index
      let hurt (k : Nat × Nat) : Bool := (l.zipIdx.any fun e => e.1.2.isSome && decide (k.1 ≤ e.2 + 4) && decide (e.2 + 4 < k.2))
      let known := !hurt (4, 16)
      let complFault : Option Flt :=
        if p.cpl && known then
          (if dfield p.bytes 8 8 % 8 ≠ 0 then some (accFlt 0x10 6 p.compl)
           else match xlateRoot s root w 2 p.compl with | .error f => some f | .ok _ => none)
        else none
      match complFault with
      | some f => rejectPacket s p false f
      | none =>
        match l.zipIdx.findSome? fun e => e.1.2.map fun u => (u, e.2) with
        | some (u, k) =>
          let f := uceAt s (va + 4 + BitVec.ofNat 56 k) u
          let s := ueSeen s u 3
          rejectPacket (if known && p.cpl then packetRecord s p f else s) p known f
        | none => match (commonFault p).or (bad s p) with
          | some f => rejectPacket s p true f
          | none => give s p

/-- The packet joins those in service. -/
def giveService (s : State) (p : Packet) : State := s.modPkg fun q => { q with packets := q.packets ++ [p] }

/-- The launch service holds the packet (R324). -/
def giveSubmit (s : State) (p : Packet) : State := s.modPkg ({ · with submit := some p })

/-! ### The copy hubs (R207) -/

/-- Change the first packet of hub `n` that meets `f`. -/
def modPacket (s : State) (f : Packet → Bool) (g : Packet → Packet) : State :=
  match s.pkg.packets.findIdx? f with
  | none => s
  | some k => s.modPkg fun q => { q with packets := q.packets.mapIdx fun j p => if j = k then g p else p }

/-- The first packet that meets `f` leaves service. -/
def dropPacket (s : State) (f : Packet → Bool) : State :=
  s.modPkg fun q => { q with packets := match q.packets.findIdx? f with | some k => q.packets.eraseIdx k | none => q.packets }

/-- Units of a hub packet, and for unit `u` its source, destination and size (R183, R184). -/
def hubUnits (p : Packet) : Nat :=
  let c := dfield p.bytes 32 8
  if p.code = 3 then (c / 2 ^ 16 % 2 ^ 16) * unitsIn (c % 2 ^ 16) else unitsIn (c % 2 ^ 32)

/-- Source offset, destination offset and size of unit `u`. -/
def hubUnit (p : Packet) (u : Nat) : Nat × Nat × Nat :=
  let c := dfield p.bytes 32 8
  if p.code = 3 then
    let k := unitsIn (c % 2 ^ 16)
    let r := u / k
    let o := 64 * (u % k)
    (64 * (c / 2 ^ 32 % 2 ^ 16) * r + o, 64 * (c / 2 ^ 48) * r + o, min 64 (c % 2 ^ 16 - o))
  else (64 * u, 64 * u, min 64 (c % 2 ^ 32 - 64 * u))

/-- One unit of a hub packet: bytes read before it is written, poison propagated (R183, R207, R409). -/
def hubUnitWork (s : State) (p : Packet) : State × Option Flt :=
  let (so, d, n) := hubUnit p p.prog
  let dst : VAddr := BitVec.ofNat 56 (dfield p.bytes 24 8 + d)
  let src : Except Flt (List (Byte × Option Nat)) :=
    if p.code = 2 then .ok ((List.range n).map fun i => (p.bytes.getD (16 + i % 8) 0, none))
    else qRead s p.root p.world (BitVec.ofNat 56 (dfield p.bytes 16 8 + so)) n
  match src with
  | .error f => (s, some f)
  | .ok l =>
    match qWriteFault s p.root p.world dst n with
    | some f => (s, some f)
    | none =>
      let s := match l.findSome? (·.2) with | some u => ueSeen s u 1 | none => s
      match qWrite s p.root p.world none deviceWriter dst (l.map (·.1)) with
      | (s, some f) => (s, some f)
      | (s, none) => (l.zipIdx.foldl (fun s e => if e.1.2.isSome then
          match xlateRoot s p.root p.world 6 (dst + BitVec.ofNat 56 e.2) with
          | .ok t => addPoison s t.pa.toNat 1 | .error _ => s else s) s, none)

/-- Hub `n` performs one unit of its first packet that meets `f` and has work left (R207); a fault rejects it, once
its earlier writes are performed (R127, R396). -/
def hubWork (s : State) (n : Nat) (f : Packet → Bool) : State :=
  let sel (p : Packet) : Bool := p.cons == n && !p.done && f p
  match s.pkg.packets.find? sel with
  | none => s
  | some p =>
    if hubUnits p ≤ p.prog then modPacket s sel ({ · with done := true })
    else match hubUnitWork s p with
      | (s, some f) =>
        if f = heldFlt then s
        else if p.posts.isEmpty then rejectPacket (rejectUe (dropPacket s sel) p f) p true f
        else rejectUe (modPacket s sel (·.failed f)) p f
      | (s, none) =>
        let (_, d, n) := hubUnit p p.prog
        let ports := outPorts s p.root p.world (BitVec.ofNat 56 (dfield p.bytes 24 8 + d)) n
        modPacket s sel fun p => { p with prog := p.prog + 1, done := decide (hubUnits p ≤ p.prog + 1),
                                          posts := (p.posts ++ ports).eraseDups }

/-- The first packet of hub `n` whose writes are all performed ends with its post (R207). -/
def hubDone (s : State) (n : Nat) : State :=
  let sel (p : Packet) : Bool := p.cons == n && p.done && p.posts.isEmpty
  match s.pkg.packets.find? sel with
  | none => s
  | some p => if postHeld s p then s else packetEnd (dropPacket s sel) p

/-! ### The events (R207) -/

/-- COPY service: one 64-byte unit. -/
def execHubCopy (n : Fin 16) (s : State) : Host.Outcome State Fault Refusal := .next (hubWork s n.val (·.code == 1))

/-- FILL service: one 64-byte unit. -/
def execHubFill (n : Fin 16) (s : State) : Host.Outcome State Fault Refusal := .next (hubWork s n.val (·.code == 2))

/-- COPY2D service: one unit of a row. -/
def execHubCopy2d (n : Fin 16) (s : State) : Host.Outcome State Fault Refusal := .next (hubWork s n.val (·.code == 3))

/-- A hub posts COMPL. -/
def execHubPacketDone (n : Fin 16) (s : State) : Host.Outcome State Fault Refusal := .next (hubDone s n.val)

end Sys2Proof.Machine
end

