-- ==== Sys2Proof/Machine/Opp.lean ====
section
/-! DEFINITION. The optical port (R270, R272): OSHOT, OMASK and OCAL, which claim an index of a queue of the optical
dispatcher, write their packet there and wait for its report. -/
namespace Sys2Proof.Machine

open Bits

/-- The registration slot that an OPP entry names. -/
def oppSlot (r : Run) : Fin 16 := Fin.ofNat 16 (fldN r.b 0 4)

/-- The start of an OPP entry (R270, R272, R368, R395): alignment, LIMIT, the operand block, the registration. An entry
that was returned to unstarted goes on with the block it read and the index it claimed, at its wait for room (R289). -/
def oppBegin (s : State) (x : CtxId) (r : Run) : Except Flt State :=
  match (s.eq x .opp).claim with
  | some (i, n, body) => .ok ((s.modEq x .opp ({ · with claim := none })).modRun x .opp
      ({ · with x := .opp i (some n) false none body }))
  | none =>
    match firstFlt [alignFlt s x 16 5 (va56 r.a),
        alignFlt s x 8 3 (va56 r.c), fltIf (fld r.b 4 60 != 0) (limitFlt 24 false r.b)] with
    | some f => .error f
    | none => match engReadAll s x true (va56 r.a) 48 with
      | .error f => .error f
      | .ok (s, body) =>
        let i := oppSlot r
        if !bit (qcb s 16 i) 63 || qWorld s 16 i != bit r.hdr 11 then .error (queueFlt 4 (BitVec.ofNat 56 (qAddr s 16 i)))
        else .ok (s.modRun x .opp fun q => match q.x with
          | .opp _ _ _ _ _ => q
          | _ => { q with x := .opp i none false none body })

/-- A word of the control block that the entry reads by its physical address (R148, R272, R389, R409). -/
def oppWord (s : State) (x : CtxId) (kind : Nat) (a : Nat) : Except Flt Word :=
  match physFault s (s.core.asWorld.getD (s.cx x).world) kind a with
  | some f => .error f
  | none => match poisonAt s a 8 with
    | some u => .error (uceAt s (BitVec.ofNat 56 a) u)
    | none => if ndHold s a then .error heldFlt else .ok (readHome s a 8)

/-- The entry claims an index: an atomic fetch-and-add of 1 to WIDX (R150, R272). -/
def oppClaim (s : State) (x : CtxId) (r : Run) (i : Fin 16) (body : List Byte) : State :=
  let a := qAddr s 16 i
  match oppWord s x 3 a with
  | .error f => unitFault s x .opp f
  | .ok n =>
    let s := writeHome s (.core (s.core.asWorld.getD (s.cx x).world)) a 8 (n + 1)
    let s := hitCheck s (actsFor s x) a 8 ⟨3, 5, entryName s x 5 r.seq, 0⟩
    s.modRun x .opp ({ · with x := .opp i (some n) false none body })

/-- The bytes 4 to 63 of the packet (R149, R272). -/
def oppPacket (r : Run) (body : List Byte) : List Byte :=
  [BitVec.ofNat 8 (fldN r.hdr 0 8 + 1), if r.c = 0 then 0 else 1, 0, 0] ++ toBytes r.c 8 ++ body

/-- The entry waits for room, then writes the packet's body, then its VALID (R150, R272). -/
def oppSend (s : State) (x : CtxId) (r : Run) (i : Fin 16) (n : Word) (body : List Byte) : State :=
  let a := qAddr s 16 i
  match oppWord s x 5 (a + 8), oppWord s x 5 (a + 16), oppWord s x 5 (a + 24) with
  | .error f, _, _ | _, .error f, _ | _, _, .error f => unitFault s x .opp f
  | .ok ridx, .ok base, .ok dep =>
    let depth := 2 ^ fldN dep 0 8
    if depth ≤ (n - ridx).toNat then s.modRun x .opp ({ · with waits := true })
    else
      let va : VAddr := va56 base + BitVec.ofNat 56 (64 * (n.toNat % depth))
      let w := qWorld s 16 i
      let root := ctl s (oQroot 16 i)
      let who : Writer := ⟨2, 5, entryName s x 5 r.seq, 0⟩
      if r.prog = 0 then
        match qWrite s root w (actsFor s x) who (va + 4) (oppPacket r body) with
        | (s, some f) => unitFault s x .opp f
        | (s, none) => s.modRun x .opp ({ · with prog := 1, waits := false })
      else
        match qWrite s root w (actsFor s x) who va (toBytes (BitVec.ofNat 32 ((n.toNat + 1) % 2 ^ 16)) 4) with
        | (s, some f) => unitFault s x .opp f
        | (s, none) => s.modRun x .opp ({ · with prog := 2, waits := false, x := .opp i (some n) true none body })

/-- One step of an OPP entry (R272); a packet that the dispatcher rejects raises QUEUE reason 3 (R395). -/
def oppWork (s : State) (x : CtxId) (r : Run) : State :=
  match r.x with
  | .opp i none _ _ body => oppClaim s x r i body
  | .opp i (some n) false _ body => oppSend s x r i n body
  | .opp _ (some _) true (some true) _ => markDone s x .opp
  | .opp i (some _) true (some false) _ => unitFault s x .opp (queueFlt 3 (BitVec.ofNat 56 (qAddr s 16 i)))
  | _ => s

/-- OSHOT (R270, R272), marked NR. -/
def execOshot (sync : BitVec 16) (a b c t : BitVec 6) (cb : BitVec 8) (s : State) : Host.Outcome State Fault Refusal :=
  retire s 2 (command s .opp 0 sync a b c t cb true [] namesNone)

/-- OMASK (R270, R272). -/
def execOmask (sync : BitVec 16) (a b c t : BitVec 6) (cb : BitVec 8) (s : State) : Host.Outcome State Fault Refusal :=
  retire s 2 (command s .opp 1 sync a b c t cb false [] namesNone)

/-- OCAL (R270, R272). -/
def execOcal (sync : BitVec 16) (a b c t : BitVec 6) (cb : BitVec 8) (s : State) : Host.Outcome State Fault Refusal :=
  retire s 2 (command s .opp 2 sync a b c t cb false [] namesNone)

end Sys2Proof.Machine
end

