-- ==== Sys2Proof/Machine/System.lean ====
section
/-! DEFINITION. TRAP (R359), instruction-cache and TLB invalidation (R89, R135, R173), the diagnostic arrays (R174, R175,
R375, R381, R438) and scan control (R177, R178, R433). -/
namespace Sys2Proof.Machine

open Bits

/-! ### TRAP (R359) -/

/-- TRAP n: retires, then event 0x80 + n (R359). -/
def execTrap (n : BitVec 6) (s : State) : Host.Outcome State Fault Refusal :=
  match endFault s 1 with
  | some f => .next (preciseFault s f)
  | none => .next (takeTrap (finish s 1 s) s.core.cur ⟨0x80 + n.setWidth 8, 0, true, 0, 0⟩)

/-! ### Invalidation (R89, R173) -/

/-- Every earlier store of the context is performed. -/
def Ctx.storesDone (c : Ctx) : Bool := c.acc.all fun a => a.isLoad || a.done

/-- ICINV: the line that holds s[a] (R173). -/
def execIcinv (a : BitVec 6) (s : State) : Host.Outcome State Fault Refusal :=
  retire s 1 (
    if hazard s [a] [] || !(s.cx s.core.cur).storesDone then .wait 15
    else match xlate s s.core.cur 4 (va56 (s.reg a)) with
      | .error f => .fault f
      | .ok t => .done (s.modCore fun k => { k with icache := k.icache.filter fun e => e.1.toNat != t.pa.toNat / 128 * 128 }))

/-- ICINVA: the whole instruction cache (R173). -/
def execIcinva (s : State) : Host.Outcome State Fault Refusal :=
  retire s 1 (if !(s.cx s.core.cur).storesDone then .wait 15 else .done (s.modCore ({ · with icache := [] })))

/-- Entries of the TLBs that a condition keeps (R89). -/
def tlbKeep (s : State) (f : TlbEnt → Bool) : Res :=
  if !(s.cx s.core.cur).storesDone then .wait 15 else .done (s.modCore fun k => { k with tlb := k.tlb.filter f, stlb := k.stlb.filter f })

/-- The entry translates `va`. -/
def TlbEnt.holds (t : TlbEnt) (va : VAddr) : Bool := va.toNat / 2 ^ t.lsize == t.va.toNat / 2 ^ t.lsize

/-- TLBI: the entries that translate s[a] for ASID s[b][11:0], and the global ones for that address (R173). -/
def execTlbi (a b : BitVec 6) (s : State) : Host.Outcome State Fault Refusal :=
  retire s 1 (if hazard s [a, b] [] then .wait 15
    else tlbKeep s fun t => !(t.holds (va56 (s.reg a)) && (t.global || t.asid == fld (s.reg b) 0 12)))

/-- TLBIA: every non-global entry of ASID s[b][11:0] (R173). -/
def execTlbia (b : BitVec 6) (s : State) : Host.Outcome State Fault Refusal :=
  retire s 1 (if hazard s [b] [] then .wait 15
    else tlbKeep s fun t => t.global || t.asid != fld (s.reg b) 0 12)

/-- TLBIALL: every entry (R173). -/
def execTlbiall (s : State) : Host.Outcome State Fault Refusal :=
  retire s 1 (tlbKeep s fun _ => false)

/-! ### Diagnostic arrays (R174, R175) -/

/-- PRIV of an instruction of opcode 0x3A (R370, R375). -/
def privFlt (d a b : BitVec 6) (f : BitVec 8) : Flt := ⟨0x04, wordsVal (mkR 0x3A d a b f) 0⟩

/-- A diagnostic row (R174): scalar or predicate of a context, 64 bits of a vector register, repair entry. -/
inductive DiagRow where
  | scalar (x : CtxId) (n : Fin 64)
  | pred (x : CtxId)
  | vector (x : CtxId) (n : Fin 32) (w : Nat)
  | repair (i : Fin 16)
deriving DecidableEq, Repr

/-- The context whose row it is. -/
def DiagRow.ctx : DiagRow → Option CtxId
  | .scalar x _ => some x
  | .pred x => some x
  | .vector x _ _ => some x
  | .repair _ => none

/-- The row that a diagnostic address names (R174). -/
def diagRow (v : Word) : Option DiagRow :=
  let i := fldN v 0 24
  if v.toNat / 2 ^ 32 ≠ 0 then none
  else match fldN v 24 8 with
    | 1 => if i < 256 then some (.scalar (Fin.ofNat 4 (i / 64)) (Fin.ofNat 64 i)) else none
    | 2 => if i < 4 then some (.pred (Fin.ofNat 4 i)) else none
    | 3 => if i < 4096 then some (.vector (Fin.ofNat 4 (i / 1024)) (Fin.ofNat 32 (i / 32)) (i % 32)) else none
    | 4 => if i < 16 then some (.repair (Fin.ofNat 16 i)) else none
    | _ => none

/-- The row, when the issuing context may reach it (R174, R381). -/
def diagOk (s : State) (v : Word) : Except Flt DiagRow :=
  let bad := misuse 0x21 (fldN v 24 8) (0#8 ++ fld v 0 24)
  match diagRow v with
  | none => .error bad
  | some r => match r.ctx with
    | none => .ok r
    | some x => if x = s.core.cur ∨ (s.cx x).task.isSome then .error bad else .ok r

/-- The word of a row (R174). -/
def diagRead (s : State) (r : DiagRow) : Word :=
  match r with
  | .scalar x n => (s.cx x).s.get n
  | .pred x => BitVec.ofNat 64 ((List.range 32).foldl (fun m i => if (s.cx x).p.toList.getD i false then m + 2 ^ i else m) 0)
  | .vector x n w => fld ((s.cx x).v.regs.get n).data (64 * w) 64
  | .repair i => s.core.repair.get i

/-- Where the model keeps the spare vault row `i`, beyond the physical address space (entry 28). -/
def spareBase (i : Nat) : Nat := 2 ^ 52 + 256 * i

/-- Exchange the steered row and its spare (R175). Poison marks stay with the address: the model's choice (entry 125). -/
def swapRow (s : State) (i : Nat) : State :=
  match repairActive s.core i with
  | none => s
  | some (0, n) =>
    let a := vaultBase (ownCol s) + ownQ s * 0x300000 + n % 768 * 4096 + n / 768 * 256
    let old := bytesAt s a 256
    let new := bytesAt s (spareBase i) 256
    { s with mem := memWrite (memWrite s.mem a new) (spareBase i) old }
  | some (1, n) =>
    let x : CtxId := Fin.ofNat 4 (n / 64)
    let old := (s.cx x).s.toList.getD (n % 64) 0
    let new := s.core.spareS.toList.getD i 0
    (s.modCx x fun c => { c with s := c.s.setIfInBounds (n % 64) new }).modCore fun k =>
      { k with spareS := k.spareS.setIfInBounds i old }
  | some (_, n) =>
    let x : CtxId := Fin.ofNat 4 (n / 32)
    let r : BitVec 5 := BitVec.ofNat 5 n
    let old := ((s.cx x).vreg r).data
    let new := s.core.spareV.toList.getD i 0
    (s.modCx x fun c => c.setVreg r { c.vreg r with data := new }).modCore fun k =>
      { k with spareV := k.spareV.setIfInBounds i old }

/-- Exchange every steered row with its spare. -/
def swapAll (s : State) : State := (List.range 16).foldl swapRow s

/-- RW bits of a repair entry (R175). -/
def repairMask : Word := ones 63 60 ||| ones 19 16 ||| ones 9 0

/-- Write the word of a row (R174, R175). -/
def diagWrite (s : State) (r : DiagRow) (v : Word) : State :=
  match r with
  | .scalar x n => s.modCx x fun c => { c with s := c.s.set n.val v }
  | .pred x => s.modCx x fun c => { c with p := Vector.ofFn fun i => bit v i.val }
  | .vector x n w => s.modCx x fun c =>
      c.setVreg (BitVec.ofNat 5 n.val) { c.v.regs.get n with data := setFld (c.v.regs.get n).data (64 * w) v }
  | .repair i =>
    let s := ctxs.foldl (fun s x => s.modCx x (·.fixRows s.core x)) s
    swapAll ((swapAll s).modCore fun k => { k with repair := k.repair.set i.val (v &&& repairMask) })

/-- DRD (R174, R375, R381, R438). -/
def execDrd (d a : BitVec 6) (s : State) : Host.Outcome State Fault Refusal :=
  retire s 1 (
    if hazard s [d, a] [] then .wait 15
    else if !(s.cx s.core.cur).world then .fault (privFlt d a 0 0)
    else match diagOk s (s.reg a) with
      | .error f => .fault f
      | .ok r => .done (s.setReg d (diagRead s r)))

/-- The row is an entry of the repair table. -/
def DiagRow.isRepair : DiagRow → Bool
  | .repair _ => true
  | _ => false

/-- Accesses of the core's contexts to its own vault allotment are on their way, or writes held there for their stroke (R187). -/
def vaultBusy (s : State) : Bool :=
  let b := vaultBase (ownCol s) + ownQ s * 0x300000
  let own (p : Nat) : Bool := decide (b ≤ p) && decide (p < b + 0x300000)
  (ctxs.any fun x => (s.cx x).acc.any fun a => !a.done && own a.pa.toNat) || s.pkg.contracts.any fun k => own k.pa.toNat

/-- DWR (R174, R175, R375, R381, R438). A write of the repair table waits for the accesses of the vault issued before it. A load
under way goes to the register row of its issue (entry 101). -/
def execDwr (a b : BitVec 6) (s : State) : Host.Outcome State Fault Refusal :=
  retire s 1 (
    if hazard s [a, b] [] then .wait 15
    else if !(s.cx s.core.cur).world then .fault (privFlt 0 a b 1)
    else match diagOk s (s.reg a) with
      | .error f => .fault f
      | .ok r => if r.isRepair && vaultBusy s then .wait 15 else .done (diagWrite s r (s.reg b)))

/-! ### Scan control (R177, R178, R381, R433) -/

/-- MISUSE 0x22 for logical core `c` (R381). -/
def scanFlt (c : BitVec 9) : Flt := misuse 0x22 0 (c.setWidth 32)

/-- The 32 bytes of a scan descriptor, read with loads of the context (R433). -/
def scanDesc (s : State) (va : VAddr) : Except Flt (List (VAddr × Tr)) :=
  (List.range 4).mapM fun i =>
    let v := va + BitVec.ofNat 56 (8 * i)
    match accCheck s 1 3 v with | .error f => .error f | .ok t => .ok (v, t)

/-- Read the words of a scan descriptor in order. -/
def readWords (s : State) : List (VAddr × Tr) → Except State (State × List Byte)
  | [] => .ok (s, [])
  | (v, t) :: l =>
    match homeRead s v t 8 with
    | .error s => .error s
    | .ok (s, b) =>
      match readWords s l with
      | .error s => .error s
      | .ok (s, bs) => .ok (s, b ++ bs)

/-- A scan of logical core `c` starts in DRAIN (R177, R433). -/
def scanStart (s : State) (c : BitVec 9) (p : BitVec 9) (d : List Byte) : State :=
  let x := s.cx s.core.cur
  let k : Scan := { core := c, phys := p, seed := BitVec.ofNat 64 (dfield d 0 8), npat := BitVec.ofNat 32 (dfield d 8 4),
                    prio := BitVec.ofNat 4 (dfield d 12 1), expsig := BitVec.ofNat 64 (dfield d 16 8),
                    done := BitVec.ofNat 56 (dfield d 24 8), root := x.troot, world := x.world, state := 1, start := 0 }
  setScanst ((wake s c).modPkg fun g => { g with scans := g.scans.filter (·.core != c) ++ [k] }) p 1

/-- SCANGO (R177, R433). -/
def execScango (a b : BitVec 6) (s : State) : Host.Outcome State Fault Refusal :=
  retire s 1 (
    let c : BitVec 9 := fld (s.reg a) 0 9
    if hazard s [a, b] [] then .wait 15
    else if !(s.cx s.core.cur).world then .fault (privFlt 0 a b 4)
    else match lmap s c.toNat with
    | none => .fault (scanFlt c)
    | some p =>
      if p = s.core.phys ∨ (scanOf s c).isSome then .fault (scanFlt c)
      else match scanDesc s (va56 (s.reg b)) with
      | .error f => .fault f
      | .ok ws =>
        if ws.any fun w => wmStall (s.cx s.core.cur) w.1.toNat 8 then .wait 9
        else if ws.any fun w => readWaits s w.1 w.2 8 || ndHold s w.2.pa.toNat then .wait 15
        else match readWords s ws with
        | .error s' => .stay s'
        | .ok (s', d) =>
          let n := dfield d 8 4
          if n = 0 ∨ 2 ^ 20 < n ∨ 16 ≤ dfield d 12 1 ∨ dfield d 13 3 ≠ 0 then .faultIn s' (scanFlt c)
          else .done (scanStart s' c p d))

/-- SCANAB: ends the scan of a core as ABORT does; no effect where none runs, or its RUN has ended (R177, R385, R433). -/
def execScanab (a : BitVec 6) (s : State) : Host.Outcome State Fault Refusal :=
  retire s 1 (
    let c : BitVec 9 := fld (s.reg a) 0 9
    if hazard s [a] [] then .wait 15
    else if !(s.cx s.core.cur).world then .fault (privFlt 0 a 0 5)
    else if (lmap s c.toNat).isNone then .fault (scanFlt c)
    else match scanOf s c with
      | none => .done s
      | some k => .done (if scanOver s k then s else scanPost (scanStop s k) k))

/-- SCANST: s[d] := CORE.SCANST of logical core s[a][8:0] (R174, R178). -/
def execScanst (d a : BitVec 6) (s : State) : Host.Outcome State Fault Refusal :=
  retire s 1 (
    let c : BitVec 9 := fld (s.reg a) 0 9
    if hazard s [d, a] [] then .wait 15
    else if !(s.cx s.core.cur).world then .fault (privFlt d a 0 6)
    else match lmap s c.toNat with
      | none => .fault (scanFlt c)
      | some p => .done (s.setReg d (ctlRead s (0x3000010 + 0x100 * p.toNat))))

end Sys2Proof.Machine
end

