-- ==== Sys2Proof/Machine/Engines.lean ====
section
/-! DEFINITION. The six engines as one (R33, R39, R40, R214): start, one unit of work, completion; the engine events of 95;
TRET (R360, R377, R419). -/
namespace Sys2Proof.Machine

open Bits

/-! ### The engines by number -/

/-- The interlock of a head on its engine (R214, R224). -/
def engReady (e : Eng) (s : State) (x : CtxId) (d : List Byte) : Option Nat :=
  match e with
  | .cpe => cpeReady s x d
  | .gxe => gxeReady s x d
  | .mxe => mxeReady s x d
  | _ => none

/-- The checks and effects of an entry's start. -/
def engBegin (e : Eng) (s : State) (x : CtxId) (r : Run) : Except Flt State :=
  match e with
  | .mxe => mxeBegin s x r
  | .vxe => vxeBegin s x r
  | .cpe => cpeBegin s x r
  | .gxe => gxeBegin s x r
  | .opp => oppBegin s x r
  | .clp => clpBegin s x r
  | .seq => .ok s

/-- One unit of work of a started entry. -/
def engUnit (e : Eng) (s : State) (x : CtxId) (r : Run) : State :=
  match e with
  | .mxe => mxeWork s x r
  | .vxe => vxeWork s x r
  | .cpe => cpeWork s x r
  | .gxe => gxeWork s x r
  | .opp => oppWork s x r
  | .clp => clpWork s x r
  | .seq => s

/-- What an entry's completion does to slots, banks and shadow sets (R214, R223): for a fill only once it has begun. -/
def engEnd (e : Eng) (s : State) (x : CtxId) (r : Run) : State :=
  match e with
  | .mxe => mxeEnd s x r
  | .cpe => if r.begun then cpeEnd s r else s
  | .gxe => if r.begun then gxeEnd s r else s
  | _ => s

/-! ### Uncorrectable errors that an engine meets (R411) -/

/-- The start of a head entry reads the registers of its queue, and token queues where it takes a pop or reserves a push. -/
def headReads (s : State) (x : CtxId) (e : Eng) (f : Store) : Bool :=
  let w (d : List Byte) : BitVec 16 := fld (entryHdr d) 12 16
  if (s.run x e).isSome || !mayGo s x e then false
  else match f, headOf s x e with
    | .queue y k, .entry .. => y == x && k == e
    | .tokens y, .entry _ d _ => y == x && (!(popsOf (w d)).isEmpty || decide (fldN (w d) 12 4 < 7))
    | _, _ => false

/-- A save reads every store of the context (R290). -/
def saveReads (x : CtxId) : Store → Bool
  | .scalar y _ | .preds y | .vdata y _ | .vtag y _ | .vscale y _ | .mask y _ | .tokens y | .queue y _ => y == x
  | _ => false

/-- An ADRAIN reads the row of its bank (R220). -/
def drainReads (r : Run) (f : Store) : Bool :=
  match f with
  | .bank i row => let (b, r0, _, _) := rowWord r.a; r.begun && fldN r.hdr 0 8 == 3 && i == b && row == r0 + r.prog
  | _ => false

/-- What engine `e` of context `x` does next meets the error that strikes now, outside the tables and nests: at the start of its
head, or in a drain. -/
def engineFlaw (s : State) (x : CtxId) (e : Eng) : Option State :=
  match s.core.flaw with
  | none => none
  | some f =>
    if headReads s x e f then some (ctxError s x f)
    else if e = .cpe && mayWork s x .cpe then
      match s.run x .cpe with
      | some r => if drainReads r f then some (bankError s x .cpe r f) else none
      | none => none
    else none

/-- The interlock of a started entry that has not begun, which is repeated with its checks (R214, R386): its flag of R337. -/
def beginFlag (s : State) (x : CtxId) (e : Eng) (r : Run) : Option Nat :=
  match entryBytes s x r.addr with | .ok d => engReady e s x d | .error _ => none

/-- The flag of R337 that a started entry waits for, rather than works (R336): its interlock, a counter, or queue room. -/
def waitFlag (s : State) (x : CtxId) (e : Eng) (r : Run) : Option Nat :=
  if !isWaiting e r then none
  else if !r.begun then beginFlag s x e r
  else match e with | .cpe => some 8 | .opp => some 14 | _ => none

/-- The checks of a started entry are made; one that is replayed waits first on its interlock (R214, R224, R386). -/
def beginTurn (s : State) (x : CtxId) (e : Eng) (r : Run) : State :=
  if (beginFlag s x e r).isSome then s.modRun x e ({ · with waits := true })
  else beginRun (engBegin e) (takeEngine s x e) x e

/-- The head of engine `e` for context `x` starts, and its checks are made (R39, R369, R380); those of an entry that is replayed
are repeated when its engine is free (R224, R241, R386). -/
def startEntry (s : State) (x : CtxId) (e : Eng) : State :=
  match engineFlaw s x e with
  | some t => t
  | none =>
    match s.run x e with
    | some r => if mayWork s x e && engineFree s x e && !r.begun then beginTurn s x e r else s
    | none =>
      let s := tryStart (engReady e) (seeHead s x e) x e
      if mayWork s x e then beginRun (engBegin e) s x e else s

/-- One unit of work on the started entry, once its engine is free (R241); an entry that is replayed repeats its checks first
(R386, R419). -/
def workEntry (s : State) (x : CtxId) (e : Eng) : State :=
  if mayWork s x e && engineFree s x e then
    match engineFlaw s x e, s.run x e with
    | some t, _ => t
    | none, none => s
    | none, some r => if r.begun then withWorld (takeEngine s x e) x e (engUnit e · x r) else beginTurn s x e r
  else s

/-- Banks that await their last writer are freed (R216). -/
def settleBanks (s : State) : State := bankIds.foldl settleBank s

/-- The entry ends: comb and bank transitions, steps 1 to 3 of R40. -/
def endEntry (s : State) (x : CtxId) (e : Eng) (r : Run) : State :=
  let s := finishEntry (engEnd e s x r) x e
  if e = .mxe then settleBanks s else s

/-- A started entry whose every effect has been performed completes (R40). -/
def completeEntry (s : State) (x : CtxId) (e : Eng) : State :=
  if (s.eq x e).stop || (s.cx x).line || s.core.gate != .on then s
  else match s.run x e with
    | none => s
    | some r => if r.done && r.fault.isNone && r.posts.isEmpty then endEntry s x e r else s

/-! ### The engine events (R39, R40, R201, R354, R417) -/

/-- An engine starts a head entry (R39). -/
def execEntryStart (x : CtxId) (e : Eng) (s : State) : Host.Outcome State Fault Refusal := .next (startEntry s x e)

/-- An entry completes (R40). -/
def execEntryCompletion (x : CtxId) (e : Eng) (s : State) : Host.Outcome State Fault Refusal := .next (completeEntry s x e)

/-- The head of the CPE queue is a held link. -/
def atHeldLink (s : State) (x : CtxId) : Bool :=
  (s.eq x .cpe).chain.isNone && (match headOf s x .cpe with | .entry _ d _ => entryCode d == 0xFE | _ => false)

/-- CPE takes a kick for the held link at its head, and its chain begins (R201). -/
def execHeldLinkRun (x : CtxId) (s : State) : Host.Outcome State Fault Refusal :=
  .next (if atHeldLink s x then startEntry s x .cpe else s)

/-- The head that starts is a forced point (R35, R417): the window is full, or its queue was rebased. -/
def execForcedPointStart (x : CtxId) (e : Eng) (s : State) : Host.Outcome State Fault Refusal :=
  .next (if (s.eq x e).forced || decide (16 ≤ (s.eq x e).window.length) then startEntry s x e else s)

/-- The halt line reaches an engine (R354, R355). -/
def execEngineStop (x : CtxId) (e : Eng) (s : State) : Host.Outcome State Fault Refusal := .next (holdCtx (stopEngine s x e) x)

/-! ### TRET (R360, R377, R419) -/

/-- A UCE raised on an accumulator bank (R410, R411). -/
def bankUce (f : BitVec 8 × Word) : Bool := f.1 == 0x30 && fldN f.2 56 4 == 6

/-- The faulted head of an engine at TRET (R360): it completes without further effect when SKIP is set, once its writes on their way
are performed (R117); otherwise it is
replayed, after a rebuild of the bank that failed it (R419); one that a deadlock kept from starting is unstarted again. -/
def tretEngine (s : State) (x : CtxId) (skip : Bool) (e : Eng) : State :=
  match s.run x e with
  | none => s
  | some r => match r.fault with
    | none => s
    | some f =>
      if skip then
        let u := s.modRun x e ({ · with fmtst := 0, accf := 0, fault := none, done := true })
        if r.posts.isEmpty then endEntry u x e r else u
      else if r.early then unstart s x e
      else
        let u := s.modRun x e ({ · with fault := none })
        if bankUce f then (rebuild u x e r (runBank r)).getD s else u

/-- A head whose bank could not be rebuilt raises UCE on its engine again (R419). -/
def tretAgain (s : State) (x : CtxId) (e : Eng) : State :=
  match (s.run x e).bind (·.fault) with
  | some f => if bankUce f then entryFault s x e ⟨f.1, f.2⟩ else s
  | none => s

/-- TPC holds an address whose word slot is 0 or 1, the line header (R377). -/
def tpcBad (c : Ctx) : Bool := decide (fldN c.tpc 2 5 < 2)

/-- The loads that a save discarded and that faulted at resume are issued again (R291). -/
def tretLoads (s : State) (x : CtxId) : State :=
  match (s.cx x).task.bind (taskOf s) with
  | none => s
  | some t => if t.reissue.isEmpty then s else reissueLoads s x t.reissue

/-- TRET (R360). -/
def execTret (s : State) : Host.Outcome State Fault Refusal :=
  retire s 1 (
    let x := s.core.cur
    let c := s.cx x
    if !c.inh || tpcBad c then .stay (preciseFault s (misuse 0x20 0 0))
    else if !c.allDone then .wait 15
    else
      let s := engines.foldl (fun s e => tretEngine s x (bit c.tctl 2) e) s
      let s := s.modCx x fun c => { (c.setStat 0 false) with tctl := setFld c.tctl 2 0#1, trap := c.later, later := none }
      let s := (s.issued c.tpc).modCx x ({ · with prevMode := none })
      .stay (tretLoads (engines.foldl (fun s e => tretAgain s x e) (settleLines s)) x))

end Sys2Proof.Machine
end

