-- ==== Sys2Proof/Machine/Outside.lean ====
section
/-! DEFINITION. Accesses and their homes as events (R52, R107, R122 to R126, R131, R325 to R327, R391, R408, R424): the
performing and landing of a context's accesses, contract writes, the accesses of system cores, host, peers and root-port
devices, flits, and the patrol scrub. -/
namespace Sys2Proof.Machine

open Bits

/-! ### Accesses of parties outside the core (R122 to R126, R317, R391) -/

/-- The boot has reached the step that releases the system cores and enables the endpoint (R313). -/
def booted (s : State) : Bool := decide (6 ≤ s.pkg.boot)

/-- The boot has released the agent (R313): the management core runs from power-on, its console once Mbailan does; Mbailan brings
up the dies and their links and ports in step 4, and releases the system cores and enables the endpoint in step 6. -/
def released (s : State) (who : Agent) : Bool :=
  match who with
  | .mgmt => true
  | .console => decide (3 ≤ s.pkg.boot)
  | .core _ | .peer _ | .rootPort _ => decide (4 ≤ s.pkg.boot)
  | .sys _ | .host => booted s

/-- An access that is refused has no effect at the home; its party is told, but a write of the host is discarded (R391). -/
def refuseOut (s : State) (who : Agent) (r : OutReq) : State :=
  match who, r.op with
  | .host, .write _ => s
  | _, _ => sendOut s (.aborted who r.pa)

/-- The writes of other agents are checked against the watchpoints (R342 to R344). -/
def dwOther (s : State) (a n : Nat) (atomic : Bool) : State := dwNote s a n deviceWriter atomic

/-- One access of a party outside the core at a physical address (R107, R317, R391, R393, R409): performed at its home, or
refused. The aliases are not decoded for it (R83). -/
def outAccess (s : State) (who : Agent) (r : OutReq) : State :=
  let a := r.pa.toNat
  let n := 2 ^ r.lsize.val
  let reads := match r.op with | .write _ => false | _ => true
  if a % n ≠ 0 ∨ region s a = .none ∨ (agentSecure s who = false ∧ worldOf s a) ∨ (ndRefused s a).isSome then
    refuseOut s who r
  else match (if reads then poisonAt s a n else none) with
    | some u => refuseOut (ueSeen s u 3) who r
    | none => match r.op with
      | .read => sendOut s (.readData who r.pa (readHome s a n))
      | .write v => dwOther (writeHome s who a n v) a n false
      | .atomic op v cmp =>
        let old := readHome s a n
        sendOut (dwOther (writeHome s who a n (atomNew op n old v cmp)) a n true) (.readData who r.pa old)

/-- ACCESS_PERFORM_AT_HOME (R107): a pending access of a context, or one of a system core or of the management core. -/
def execAccessPerformAtHome (who : Performer) (s : State) : Host.Outcome State Fault Refusal :=
  .next (match who with
    | .ctx x id => performId s x id
    | .sys n r => if booted s then outAccess s (.sys n) r else s
    | .mgmt r => outAccess s .mgmt r)

/-- LOAD_LANDING (R52). -/
def execLoadLanding (x : CtxId) (id : Nat) (s : State) : Host.Outcome State Fault Refusal := .next (landId s x id)

/-- Context `x` waits for the response of request `q` (R424): of an access, of its fetch, of a unit that an engine works on; of a
store that has been performed only the response is on its way. -/
def awaits (s : State) (x : CtxId) (q : Request) : Bool :=
  match q with
  | .access id => (s.cx x).acc.any (·.id == id)
  | .fetch | .store => (s.cx x).task.isSome
  | .unit e => (s.run x e).any fun r => r.begun && !r.done

/-- REQUEST_RETRY (R424): a request whose response has not come is sent again and counted; the home answers a tag it has performed
from its kept response, so nothing is performed twice. -/
def execRequestRetry (x : CtxId) (req : Request) (s : State) : Host.Outcome State Fault Refusal :=
  .next (if awaits s x req then countCE s 7 else s)

/-- CONTRACT_WRITE_RELEASE (R131): the `k`-th held write, once the stroke has reached its value. -/
def execContractWriteRelease (k : Nat) (s : State) : Host.Outcome State Fault Refusal :=
  .next (match s.pkg.contracts[k]? with
    | none => s
    | some c =>
      if c.t.toNat ≤ (now s).toNat then
        contractPerform (s.modPkg fun q => { q with contracts := q.contracts.eraseIdx k }) c
      else s)

/-! ### The endpoint, links and root ports (R123, R125, R325 to R327) -/

/-- The physical addresses that the endpoint's BARs map (R325). -/
def inBars (a : Nat) : Bool := decide (a < 0x040000000000) || rowOf a == .ctl

/-- What a request may ask of the endpoint: reads, writes, and FetchAdd, Swap and CAS of 4 or 8 bytes (R325). -/
def endpointOp (r : OutReq) : Bool :=
  match r.op with
  | .atomic op _ _ => (op == .add || op == .swp || op == .cas) && decide (2 ≤ r.lsize.val)
  | _ => true

/-- ENDPOINT_REQUEST (R123, R325): a host access; posted writes are performed as the endpoint receives them. -/
def execEndpointRequest (_ro : Bool) (r : OutReq) (s : State) : Host.Outcome State Fault Refusal :=
  .next (if booted s && inBars r.pa.toNat && endpointOp r then outAccess s .host r else refuseOut s .host r)

/-- PEER_REQUEST (R125, R327): an access that arrives over a link that is UP. -/
def execPeerRequest (l : Fin 12) (r : OutReq) (s : State) : Host.Outcome State Fault Refusal :=
  .next (if released s (.peer l) && linkUp s l.val then outAccess s (.peer l) r else s)

/-- ROOT_PORT_DEVICE_REQUEST (R326): translated through RP.ROOT[i] as non-secure. -/
def execRootPortDeviceRequest (i : Fin 4) (va : VAddr) (lsize : Fin 4) (op : AccessOp) (s : State) : Host.Outcome State Fault Refusal :=
  let kind := match op with | .read => 1 | .write _ => 2 | .atomic _ _ _ => 3
  .next (if !released s (.rootPort i) then s else match xlateRoot s (ctl s (0x700000 + 8 * i.val)) false kind va with
    | .error _ => refuseOut s (.rootPort i) ⟨va.setWidth 52, lsize, op⟩
    | .ok t => outAccess s (.rootPort i) ⟨t.pa, lsize, op⟩)

/-- Every running collective over link `l` raises reason 3 (R400). -/
def collDown (s : State) (l : Nat) : State :=
  ctxs.foldl (fun s x => match colRunning s x with
    | some (r, d) => if l = colNext d ∨ l = colPrev d then collRaise s x r d 3 l else s
    | none => s) s

/-- A link leaves UP (R400). -/
def dropLink (s : State) (l : Fin 12) : State :=
  collDown (setCtl s (oLink l.val) (setFld (ctl s (oLink l.val)) 0 0#1)) l.val

/-- LINK_TRAINED (R327): a live link completes training; PEERID is the peer's (entry 20). -/
def execLinkTrained (l : Fin 12) (s : State) : Host.Outcome State Fault Refusal :=
  .next (if released s (.peer l) && bit (ctl s (0x100AC0 + 8 * l.val)) 0 then
    setCtl s (oLink l.val) (setFld (setFld (ctl s (oLink l.val)) 0 1#1) 16 ((freeWord s 0).setWidth 16)) else s)

/-! ### Patrol scrub (R408, R412, R427) -/

/-- The unit whose removal the uncorrectable error of a word of memory counts for (R427): a near-DRAM bank, or a failing row of a
vault allotment (entry 114). -/
def noteUe (s : State) (a : Nat) : State :=
  match rowOf a with
  | .ndram k => noteErr s (.bank (BitVec.ofNat 7 k) (Fin.ofNat 16 (ndBankOf (a - ndBase k))))
  | .vault k => noteRow s (4 * k + (a - vaultBase k) / 0x300000) ((a - vaultBase k) % 0x300000 / 256)
  | _ => s

/-- An uncorrectable error in the memory of the word at `a`: the word is poisoned, counted and recorded (R408, R412). -/
def poisonWord (s : State) (a : Nat) : State :=
  let u := match rowOf a with | .vault _ => 0 | .ndram _ => 1 | _ => 2
  noteUe (rasRecord (countUE (addPoison s (a / 8 * 8) 8) u) (a / 8 * 8) u 1 none) a

/-- An uncorrectable error in a line of L2 (R408): a clean line is fetched again, the words of a dirty one are poisoned, with the
L2 as their unit (R410; entry 114 for the outcome recorded of a refetch). -/
def lineError (s : State) (a : Nat) (dirty : Bool) : State :=
  let b := a / 128 * 128
  let s := countUE s 3
  if dirty then
    rasRecord ((addPoison s b 128).modPkg fun p => { p with l2bad := (unitsOf b 128 ++ p.l2bad).eraseDups }) (a / 8 * 8) 3 1 none
  else rasRecord s (a / 8 * 8) 3 2 none

/-- Slice 2g + PA[7] of L2 (R100). -/
def sliceOf (g a : Nat) : Fin 16 := Fin.ofNat 16 (2 * g + a / 128 % 2)

/-- The row of the near DRAM of the modelled core that was refreshed last: a manual bank is scrubbed by its REFs (R408). -/
def lastRefreshed (s : State) (a : Nat) : Bool :=
  match ownNd s a with
  | some (i, row) => (ndBank s i).holder.isNone || row == (ndBank s i).refrow - 1
  | none => true

/-- PATROL_SCRUB (R408): a corrected error is written back and counted; an uncorrectable one of memory poisons its word, one of L2
is handled by line. A manual near-DRAM bank is scrubbed at the row that its last REF refreshed. -/
def execPatrolScrub (pa : BitVec 52) (err : EccErr) (s : State) : Host.Outcome State Fault Refusal :=
  let a := pa.toNat
  .next (match region s a, err with
    | .hbm _, .l2Corrected => countCE s 3
    | .hbm _, .l2Data d => lineError s a d
    | .hbm g, .l2Tag w d => noteErr (lineError s a d) (.l2Ways (sliceOf g a) (1#16 <<< w.val))
    | .hbm _, .corrected => countCE s 2
    | .vault _, .corrected => countCE s 0
    | .ndram _, .corrected => if lastRefreshed s a then countCE s 1 else s
    | .hbm _, .uncorrectable | .vault _, .uncorrectable => poisonWord s a
    | .ndram _, .uncorrectable => if lastRefreshed s a then poisonWord s a else s
    | _, _ => s)

end Sys2Proof.Machine
end

