-- ==== Sys2Proof/Machine/Optic.lean ====
section
/-! DEFINITION. What an optical shot computes and how far a measurement may lie from it (R261 to R265): the driven input, the
transform of an aperture to within 2^−150 of full scale, the detector range, and the measured parts, which are free values
within the bound on their error (entry 13). -/
namespace Sys2Proof.Machine

open Bits

/-- The two parts of a complex value. -/
abbrev Parts := Num × Num

/-- a + b. -/
def Parts.add (a b : Parts) : Parts := (a.1.add b.1, a.2.add b.2)
/-- a − b. -/
def Parts.sub (a b : Parts) : Parts := (a.1.sub b.1, a.2.sub b.2)
/-- a · b. -/
def Parts.mul (a b : Parts) : Parts := ((a.1.mul b.1).sub (a.2.mul b.2), (a.1.mul b.2).add (a.2.mul b.1))
/-- |a|². -/
def Parts.abs2 (a : Parts) : Num := (a.1.mul a.1).add (a.2.mul a.2)
/-- No part is a NaN or an infinity. -/
def Parts.finite : Parts → Bool
  | (.fin _ _ _, .fin _ _ _) => true
  | _ => false
/-- The sum of the squares |a|². -/
def sumAbs2 (l : List Parts) : Num := l.foldl (fun m v => m.add v.abs2) .zero
/-- The largest |a|². -/
def maxAbs2 (l : List Parts) : Num := l.foldl (fun m v => let q := v.abs2; if m.lt q then q else m) .zero

/-! ### The shot word (R272) -/

/-- log2 of the elements of an aperture. -/
def shotLogN (w : Word) : Nat := fldN w 0 4 + fldN w 4 4
/-- MODE is CONV. -/
def shotConv (w : Word) : Bool := fldN w 8 2 == 2

/-! ### The driven input (R262) -/

/-- The exponent e of an aperture (R262): the least with Mx · 2^(−e) ≤ 127, 0 when Mx = 0. -/
def shotExp (mx : Num) : Int :=
  match mx with
  | .fin _ m k => if m = 0 then 0 else ceilLog2 m k 127 0
  | _ => 0

/-- A value held within ±127. -/
def clamp127 (v : Num) : Num :=
  let top := Num.ofInt 127
  if top.lt v then top else if v.lt top.neg then top.neg else v

/-- The driven part of a float input part (R262), before XS. -/
def drivePart (split : Bool) (e : Int) (v : Num) : Num :=
  let t := v.scale (-e)
  let hi := t.integral 0 0
  let lo := if split then clamp127 (((t.sub hi).scale 8).integral 0 0) else .zero
  (hi.add (lo.scale (-8))).scale e

/-- The driven input of an aperture (R262): codes as they stand, or converted parts, times XS; without the low shot where `split`
is false. -/
def driven (w : Word) (split : Bool) (xs : Num) (l : List Parts) : List Parts :=
  let ifmt := fldN w 19 5
  let e := if ifmt = 12 then 0 else shotExp (l.foldl (fun m v => maxMag (maxMag m v.1) v.2) .zero)
  l.map fun v =>
    if ifmt = 12 then (xs.mul v.1, xs.mul v.2) else (xs.mul (drivePart split e v.1), xs.mul (drivePart split e v.2))

/-! ### The transforms (R261) -/

/-- A fixed-point enclosure end as a signed value. -/
def fixNum (neg : Bool) (v : Nat) : Num := if v = 0 then .zero else .fin neg v (-(encBits : Int))

/-- exp(−2πik/N) for N = 2^ln, or its conjugate where `inv` is true; exact at the quarter turns. -/
def omega (inv : Bool) (ln k : Nat) : Parts :=
  let n := 2 ^ ln
  let q := 4 * (k % n) / n
  let r := 4 * (k % n) % n
  let a := if r = 0 then ⟨encOne, encOne, 0, 0⟩ else arcOf (ln - 2) (r / 4)
  match q with
  | 0 => (fixNum false a.clo, fixNum (!inv) a.slo)
  | 1 => (fixNum true a.slo, fixNum (!inv) a.clo)
  | 2 => (fixNum true a.clo, fixNum inv a.slo)
  | _ => (fixNum false a.slo, fixNum inv a.clo)

/-- The sums Σ x[n] ω(k, n) of 2^ln elements. -/
def dft1 (inv : Bool) (ln : Nat) (l : List Parts) : List Parts :=
  let t := (List.range (2 ^ ln)).map (omega inv ln)
  (List.range (2 ^ ln)).map fun k =>
    l.zipIdx.foldl (fun a x => a.add (x.1.mul (t.getD (k * x.2 % 2 ^ ln) (.zero, .zero)))) (Num.zero, Num.zero)

/-- FWD, or INV where `inv` is true, of N1 × N2 elements in row order (R261). -/
def dft2 (inv : Bool) (ln1 ln2 : Nat) (l : List Parts) : List Parts :=
  let rows := (List.range (2 ^ ln1)).map fun i => dft1 inv ln2 ((l.drop (i * 2 ^ ln2)).take (2 ^ ln2))
  let cols := (List.range (2 ^ ln2)).map fun j => dft1 inv ln1 (rows.map fun r => r.getD j (.zero, .zero))
  let root := (Num.fin false 1 (-((ln1 + ln2 : Nat) : Int))).sqrt
  (List.range (2 ^ ln1)).flatMap fun k => cols.map fun c =>
    let v := c.getD k (.zero, .zero)
    (root.mul v.1, root.mul v.2)

/-- The part of a mask store that aperture `q` meets (R261): its nonzero elements by index. -/
def maskOf (w : Word) (img : List (Nat × BitVec 32)) (q : Nat) : List Parts :=
  let n1 := 2 ^ fldN w 0 4
  let n2 := 2 ^ fldN w 4 4
  let a2 := 256 / n2
  (List.range n1).flatMap fun i => (List.range n2).map fun j =>
    decodeElem 0 13 ((img.find? (·.1 == 256 * (n1 * (q / a2) + i) + n2 * (q % a2) + j)).map (·.2.toNat) |>.getD 0)

/-- Y of aperture `q` for the driven input `x` (R261). -/
def shotExact (w : Word) (img : List (Nat × BitVec 32)) (q : Nat) (x : List Parts) : List Parts :=
  let l1 := fldN w 0 4
  let l2 := fldN w 4 4
  match fldN w 8 2 with
  | 0 => dft2 false l1 l2 x
  | 1 => dft2 true l1 l2 x
  | _ => dft2 true l1 l2 (List.zipWith Parts.mul (maskOf w img q) (dft2 false l1 l2 x))

/-! ### Range and bound (R264, R265) -/

/-- FS′ for the driven input `x` of an aperture (R265), where 2^`gain` is the gain of the mask store. -/
def detectorRange (w : Word) (gain : Int) (x : List Parts) : Num :=
  let g : Int := if shotConv w then gain else 0
  (((maxAbs2 x).scale (shotLogN w)).sqrt).scale (g - (fldN w 48 4 : Int))

/-- The shots whose output is never clamped: DG = 0 in FWD and INV mode (R265). -/
def neverClamps (w : Word) : Bool := fldN w 48 4 == 0 && !shotConv w

/-- FS′² for the driven input `x` of an aperture, exact (R265). -/
def rangeSquared (w : Word) (gain : Int) (x : List Parts) : Num :=
  let g : Int := if shotConv w then gain else 0
  (maxAbs2 x).scale ((shotLogN w : Int) + 2 * (g - (fldN w 48 4 : Int)))

/-- The bound on Σ |Ŷ − Y|² over the outputs of an aperture (R265): N·ρ²·FS′², with the figure ρ of R264; it bounds every element
too (R347). For a SPLIT pair the FS′ of the high shot and that of the low shot, which the driven input holds at 2^−8, bound it as
well, the roots cut. None where R264 states none. -/
def errBound (w : Word) (gain : Int) (x hi : List Parts) : Option Num :=
  let all := rangeSquared w gain x
  let sq := if bit w 15 then
      let r := (detectorRange w gain hi).add (detectorRange w gain (List.zipWith Parts.sub x hi))
      if (r.mul r).lt all then r.mul r else all
    else all
  match fldN w 10 2 with
  | 0 => some (sq.scale ((shotLogN w : Int) - 18))
  | 1 => some (sq.scale ((shotLogN w : Int) - 20))
  | _ => none

/-! ### A measurement (R263, R265; entry 13) -/

/-- A free value: sign, 63 significant bits, and an exponent. -/
def freeNum (s : State) (i : Nat) : Num :=
  let m := freeWord s (2 * i)
  .fin (bit m 63) (fldN m 0 63) ((fldN (freeWord s (2 * i + 1)) 0 11 : Int) - 1024)

/-- A part beyond the range. -/
def beyond (fs : Num) (v : Parts) : Bool := fs.lt v.1.abs || fs.lt v.2.abs

/-- A part held within the range. -/
def clampTo (fs v : Num) : Num := if fs.lt v then fs else if v.lt fs.neg then fs.neg else v

/-- What limits a measurement of one aperture (R264, R265): the range, the bound on its error, FS′², the exact outputs, and how many
elements beyond 2^−7 FS′ the record of all shots still allows. -/
structure Limits where
  fs    : Num
  bound : Option Num
  sq    : Num
  y     : List Parts
  quota : Nat

/-- The elements of an output whose error is beyond 2^−7 FS′. -/
def Limits.far (l : Limits) (v : List Parts) : Nat :=
  ((List.zipWith Parts.sub v l.y).filter fun e => (l.sq.scale (-14)).lt e.abs2).length

/-- An output that R265 allows: with a valid calibration and no clamp its error is within the bound. -/
def Limits.allows (l : Limits) (w : Word) (valid : Bool) (v : List Parts) : Bool :=
  let out := v.any (beyond l.fs)
  let near := !valid || ((l.bound.all fun b => !b.lt (sumAbs2 (List.zipWith Parts.sub v l.y))) && decide (l.far v ≤ l.quota))
  if neverClamps w then near && !out else near || out

/-- Ŷ of an aperture, and whether a part was clamped: free values where R265 allows them, else Y; then what the other apertures
add, where that is allowed too. -/
def measured (w : Word) (valid : Bool) (l : Limits) (raw cross : List Parts) : List Parts × Bool :=
  let base := if l.allows w valid raw then raw else l.y
  let v := List.zipWith Parts.add base cross
  let z := if l.allows w valid v then v else base
  if neverClamps w then (z, false) else (z.map fun v => (clampTo l.fs v.1, clampTo l.fs v.2), z.any (beyond l.fs))

/-- The bytes of an output element (R263). -/
def shotBytes (w : Word) (v : Parts) : List Byte :=
  let f := if fldN w 24 5 = 13 then 2 else 1
  let k := fmtWidth f / 8
  if fldN w 10 2 = 2 then toBytes (BitVec.ofNat 32 (rne f v.abs2)) k ++ toBytes (0 : BitVec 32) k
  else toBytes (BitVec.ofNat 32 (rne f v.1)) k ++ toBytes (BitVec.ofNat 32 (rne f v.2)) k

/-- What the other apertures of a shot with input `key` add to part `i`: at most 2^−13 of the largest FS′, so that two inputs of
them change an element by at most 2^−11 of it (R265). -/
def crossPart (s : State) (key i : Nat) (top : Num) : Num :=
  let m := Config.crosstalk s.tick key i
  let v := top.mul (.fin false (fldN m 0 63) (-76))
  if bit m 63 then v.neg else v

/-- An output of an aperture, whether a part was clamped, and its elements beyond 2^−7 FS′ where the figures of R265 apply. -/
structure Shot where
  out  : List Parts
  clip : Bool
  far  : Nat

/-- The measured output of aperture `q` with input `l` (R261 to R265) of a shot with input `key` and largest range `top`. -/
def shotAperture (s : State) (w : Word) (valid : Bool) (xs : Num) (mask : MaskStore) (quota key : Nat) (top : Num) (q : Nat)
    (l : List Parts) : Shot :=
  let x := driven w (bit w 15) xs l
  let n := 2 ^ shotLogN w
  let at' (j : Nat) : Nat := 2 * (q * n + j)
  let raw := (List.range n).map fun j => (freeNum s (at' j), freeNum s (at' j + 1))
  let cross := (List.range n).map fun j => (crossPart s key (at' j) top, crossPart s key (at' j + 1) top)
  let m : Limits := ⟨detectorRange w mask.gain x, errBound w mask.gain x (driven w false xs l), rangeSquared w mask.gain x,
    shotExact w mask.img q x, quota⟩
  let (out, clip) := measured w valid m raw cross
  ⟨out, clip, if valid && !clip then m.far out else 0⟩

/-- The largest FS′ of a shot. -/
def topRange (w : Word) (xs : Num) (gain : Int) (aps : List (List Parts)) : Num :=
  aps.foldl (fun m l => let v := detectorRange w gain (driven w (bit w 15) xs l); if m.lt v then v else m) .zero

/-- How many more output elements may lie beyond 2^−7 FS′ (R265; entry 13). -/
def farQuota (s : State) : Nat := s.pkg.shotSeen / 100000 + Config.shotSlack - s.pkg.shotFar

/-- What each of `n` apertures may take of them: shares that free words choose, and no aperture's input (R265; entry 13). -/
def farShares (s : State) (q : Nat) : Nat → List Nat
  | 0 => []
  | n + 1 => let k := (freeWord s (0x100000 + n)).toNat % (q + 1); k :: farShares s (q - k) n

/-- A shot (R261 to R265): its apertures, each with its share of the elements that may lie far off; they count in the record of all
output elements. -/
def shotAll (s : State) (w : Word) (valid : Bool) (xs : Num) (mask : MaskStore) (key : Nat) (aps : List (List Parts)) : State × List Shot :=
  let top := topRange w xs mask.gain aps
  let n := 2 ^ shotLogN w
  let outs := (aps.zip (farShares s (farQuota s) aps.length)).zipIdx.map fun a => shotAperture s w valid xs mask a.1.2 key top a.2 a.1.1
  (s.modPkg fun p => { p with
    shotSeen := p.shotSeen + (outs.map fun o => if valid && !o.clip then n else 0).sum
    shotFar := p.shotFar + (outs.map (·.far)).sum }, outs)

end Sys2Proof.Machine
end

