-- ==== Sys2Proof/Machine/Speum.lean ====
section
/-! DEFINITION. The optical dispatcher and the Speum engines (R261 to R274, R401, R422): the checks of packets, forwarding,
shots (what one measures is in `Machine/Optic.lean`), mask stores, calibration and measurements. -/
namespace Sys2Proof.Machine

open Bits

/-! ### The packets (R271) -/

/-- Speum engine `n`. -/
def State.spe (s : State) (n : Fin 4) : Spe := s.pkg.spe.get n

/-- Change engine `n`. -/
def State.modSpe (s : State) (n : Fin 4) (f : Spe → Spe) : State :=
  s.modPkg fun p => { p with spe := p.spe.set n.val (f (p.spe.get n)) }

/-- Engine `n` is live and of world `w` (R318, R422). -/
def speServes (s : State) (w : Bool) (n : Fin 4) : Bool := bit (ctl s (oSpe n)) 0 && blockWorld s (.spe n) == w

/-- The shot word. -/
def shotWord (p : Packet) : Word := BitVec.ofNat 64 (dfield p.bytes 32 8)
/-- ANY. -/
def shotAny (p : Packet) : Bool := p.code == 1 && bit (shotWord p) 18
/-- The engine that a packet names. -/
def packetEng (p : Packet) : Fin 4 := Fin.ofNat 4 (if p.code = 1 then fldN (shotWord p) 16 2 else dfield p.bytes 24 1)

/-- OPTIC with its reason, the byte offset in the packet, and the address that the packet names there or first (R390, R401). -/
def opticFlt (p : Packet) (reason off : Nat) : Flt :=
  ⟨0x1B, BitVec.ofNat 48 (dfield p.bytes 16 8) ++ BitVec.ofNat 8 off ++ BitVec.ofNat 8 reason⟩

/-- The byte of a packet that names its engine. -/
def engByte (p : Packet) : Nat := if p.code = 1 then 34 else 24

/-- OPTIC reason 3 (R401). -/
def noEngine (p : Packet) : Flt := opticFlt p 3 (engByte p)

/-- The shot word's fields outside R262 or R271: reasons 1 and 2 of R401. -/
def shotFault (p : Packet) : Option Flt :=
  let w := shotWord p
  let l1 := fldN w 0 4
  let l2 := fldN w 4 4
  let mode := fldN w 8 2
  let pr := fldN w 10 2
  let ifmt := fldN w 19 5
  let ofmt := fldN w 24 5
  let xs := decodeReal 0 1 (dfield p.bytes 40 4)
  firstFlt [
    fltIf (fld w 52 12 != 0 || fld w 46 2 != 0 || fld w 29 3 != 0 || l1 == 0 || decide (8 < l1) || l2 == 0 || decide (8 < l2) ||
      mode == 3 || pr == 3 || (mode != 2 && fld w 12 3 != 0) || decide (ifmt < 12) || decide (14 < ifmt) ||
      (ofmt != 13 && ofmt != 14) || decide (2 ^ (8 - l1) * 2 ^ (8 - l2) < fldN w 32 14 + 1) ||
      decide ((l1 + l2) / 2 < fldN w 48 4) || (bit w 15 && (ifmt == 12 || pr == 2))) (opticFlt p 1 32),
    fltIf (bit w 18 && (decide (2 ≤ mode) || fld w 16 2 != 0)) (opticFlt p 2 34),
    fltIf (match xs with | .fin false m _ => m == 0 | _ => true) (opticFlt p 4 40),
    reservedLimit p.bytes 44 4,
    fltIf (dfield p.bytes 48 8 % 32 != 0) (accFlt 0x10 6 (BitVec.ofNat 56 (dfield p.bytes 48 8))), reservedLimit p.bytes 56 8]

/-- A mask or calibration packet outside R271. -/
def loadFault (p : Packet) : Option Flt :=
  firstFlt [fltIf (decide ((if p.code = 2 then 32 else 4) ≤ dfield p.bytes 24 1)) (descLimit p.bytes 24 1),
    reservedLimit p.bytes 25 39,
    fltIf (dfield p.bytes 16 8 % 64 != 0) (accFlt 0x10 5 (BitVec.ofNat 56 (dfield p.bytes 16 8)))]

/-- The dispatcher rejects the packet as it takes it (R273, R396, R401). -/
def opticFault (s : State) (p : Packet) : Option Flt :=
  let served := if shotAny p then (List.finRange 4).any (speServes s p.world) else speServes s p.world (packetEng p)
  firstFlt [codeFault p [1, 2, 3], if p.code = 1 then shotFault p else loadFault p, fltIf (!served) (noEngine p)]

/-- Engine `n` takes new packets of world `w`: no change of its world waits (R318). -/
def speOpen (s : State) (w : Bool) (n : Fin 4) : Bool := speServes s w n && !blockChanging s (.spe n)

/-- A taken packet is given to engine `n`, which has not begun it. -/
def Packet.boundTo (p : Packet) (n : Fin 4) : Bool := p.cons == 16 && p.spe == some n && !p.done

/-- The engine of a taken packet (R273): the one it names; for an ANY packet the lowest-numbered idle engine of its world, or, with
none, the first to become idle. -/
def chooseSpe (s : State) (p : Packet) : Option (Fin 4) :=
  if shotAny p then (List.finRange 4).find? fun n =>
    speOpen s p.world n && (s.spe n).state == .idle && !s.pkg.packets.any (·.boundTo n)
  else some (packetEng p)

/-- The dispatcher holds a packet it has taken, with its engine (R273). -/
def giveOptic (s : State) (p : Packet) : State := giveService s { p with spe := chooseSpe s p }

/-- A taken packet that waits for engine `n` (R273). -/
def waitsFor (s : State) (n : Fin 4) (p : Packet) : Bool :=
  p.cons == 16 && !p.done && (match p.spe with | some m => m == n | none => speOpen s p.world n)

/-- A taken packet whose engine can no longer serve it leaves it: an ANY packet goes to another (R273, R401, R422), one that names
it is rejected (R401 reason 3). `s` holds the packet no more. -/
def passOver (s : State) (p : Packet) : State :=
  if shotAny p then giveOptic s p else rejectPacket s p true (noEngine p)

/-- Engine `n`, idle, takes the first packet that waits for it when that has CODE `c` (R273, R274); none in power hold (R26). -/
def speTake (s : State) (n : Fin 4) (c : Nat) (st : SpeState) : State :=
  let e := s.spe n
  if e.state ≠ .idle ∨ e.due ∨ blockChanging s (.spe n) ∨ s.pkg.hold then s
  else match s.pkg.packets.find? (waitsFor s n) with
    | none => s
    | some p =>
      if p.code ≠ c then s
      else
        let s' := dropPacket s (waitsFor s n)
        if !speServes s p.world n then passOver s' p
        else s'.modSpe n fun e =>
          let e := e.check (now s)
          { e with state := st, packet := some { p with spe := some n }, calv := bit e.calst 0, calgen := fld e.calst 32 32 }

/-- An engine that has become idle gets the first ANY packet that waits for one (R273). -/
def bindAny (s : State) (n : Fin 4) : State :=
  match s.pkg.packets.findIdx? fun p => p.cons == 16 && p.spe.isNone && !p.done && speOpen s p.world n with
  | none => s
  | some i => s.modPkg fun p => { p with packets := p.packets.modify i ({ · with spe := some n }) }

/-- Engine `n` is idle again and holds no packet; a measurement that is due comes before a waiting packet (R274; entry 102). -/
def speIdle (s : State) (n : Fin 4) : State :=
  if (s.spe n).due then s.modSpe n ({ · with state := .meas, packet := none, due := false })
  else bindAny (s.modSpe n ({ · with state := .idle, packet := none })) n

/-- Engine `n`, idle again, is done with its packet, whose writes left through the ports `l`: the post and the report come once they
are performed (R127, R207, R272, R274). -/
def speEnded (s : State) (n : Fin 4) (p : Packet) (l : List Nat) : State :=
  let s := speIdle s n
  if l.isEmpty && !postHeld s p then packetEnd s p else giveService s { p with done := true, posts := l }

/-- The packet of engine `n` has been performed. -/
def speDone (s : State) (n : Fin 4) (p : Packet) (l : List Nat) : State := speEnded s n p l

/-- The packet of engine `n` is rejected (R396, R401); a read or write that is held is made again later (R99). -/
def speReject (s : State) (n : Fin 4) (p : Packet) (l : List Nat) (f : Flt) : State :=
  if f = heldFlt then s else speEnded (rejectUe s p f) n (p.failed f) l

/-- The optical packets whose writes are performed have their posts and reports (R127, R272). -/
def opticPosts (s : State) : State :=
  (s.pkg.packets.filter fun p => p.cons == 16 && p.done && p.posts.isEmpty && !postHeld s p).foldl (fun s p =>
    packetEnd (dropPacket s (· == p)) p) s

/-! ### A shot (R261 to R265) -/

/-- The status record of a shot (R263). -/
def shotStatus (w : Word) (gen : BitVec 32) (calv clip : Bool) (t : Word) : List Byte :=
  toBytes (BitVec.ofNat 16 (0x80 + fldN w 24 5)) 2 ++ [0, 0] ++ toBytes gen 4 ++ [0#6 ++ b1 clip ++ b1 calv] ++
    List.replicate 7 0 ++ toBytes t 8 ++ List.replicate 8 0

/-- The input elements of a shot, aperture by aperture. -/
def shotInput (w : Word) (bs : List Byte) : List (List Parts) :=
  let n := 2 ^ shotLogN w
  let f := fldN w 19 5
  let z := fmtWidth f / 8
  (List.range (fldN w 32 14 + 1)).map fun q => (List.range n).map fun j => decodeElem 0 f (dfield bs (z * (q * n + j)) z)

/-- Bytes of the output of a shot (R263). -/
def shotOutSize (w : Word) : Nat := (if fldN w 24 5 = 13 then 4 else 8) * 2 ^ shotLogN w * (fldN w 32 14 + 1)

/-- A write of the shot packet is held (R99). -/
def shotHeld (s : State) (p : Packet) : Bool :=
  qHeld s p.root p.world 6 (BitVec.ofNat 56 (dfield p.bytes 24 8)) (shotOutSize (shotWord p)) ||
    (dfield p.bytes 48 8 != 0 && qHeld s p.root p.world 6 (BitVec.ofNat 56 (dfield p.bytes 48 8)) 32)

/-- The work of a shot packet on engine `n` (R261 to R265, R401): every read first, then DST, then STAT. -/
def shotWork (s : State) (n : Fin 4) (p : Packet) : State :=
  let w := shotWord p
  let nap := fldN w 32 14 + 1
  let dst : VAddr := BitVec.ofNat 56 (dfield p.bytes 24 8)
  if shotHeld s p then s
  else match qReadStrict s p.root p.world (BitVec.ofNat 56 (dfield p.bytes 16 8)) (fmtWidth (fldN w 19 5) / 8 * 2 ^ shotLogN w * nap) with
  | .error f => speReject s n p [] f
  | .ok bs =>
    let aps := shotInput w bs
    if aps.any fun l => l.any fun v => !v.finite then speReject s n p [] (opticFlt p 4 16)
    else
      let xs := decodeReal 0 1 (dfield p.bytes 40 4)
      let e := (s.spe n).check (now s)
      let valid := e.calv && bit e.calst 0
      let mask := e.masks.toList.getD (fldN w 12 3) ⟨[], 0, false⟩
      let (s, outs) := shotAll s w valid xs mask (ofBytes bs) aps
      let clip := outs.any (·.clip)
      let out := outs.flatMap fun o => o.out.flatMap (shotBytes w)
      let l := outPorts s p.root p.world dst out.length
      match qWrite s p.root p.world none deviceWriter dst out with
      | (s, some f) => speReject s n p l f
      | (s, none) =>
        let stat : VAddr := BitVec.ofNat 56 (dfield p.bytes 48 8)
        if stat = 0 then speDone s n p l
        else
          let l' := (l ++ outPorts s p.root p.world stat 32).eraseDups
          match qWrite s p.root p.world none deviceWriter stat (shotStatus w e.calgen valid clip (now s)) with
          | (s, some f) => speReject s n p l f
          | (s, none) => speDone s n p l'

/-! ### Mask stores (R266) -/

/-- log2 of the gain for the square of the largest magnitude (R266), within the range of gains (entry 13). -/
def maskGain (m2 : Num) : Int :=
  match m2 with
  | .fin _ m e => if m = 0 then 0 else max (-126) (min 127 ((ceilLog2 m e 1 0 + 1) / 2))
  | _ => 0

/-- The work of a mask packet (R266, R401). -/
def maskWork (s : State) (n : Fin 4) (p : Packet) : State :=
  match qReadStrict s p.root p.world (BitVec.ofNat 56 (dfield p.bytes 16 8)) 262144 with
  | .error f => speReject s n p [] f
  | .ok bs =>
    let el := (List.range 65536).map fun i => dfield bs (4 * i) 4
    let vs := el.map (decodeElem 0 13)
    if vs.any fun v => !Parts.finite v then speReject s n p [] (opticFlt p 5 16)
    else
      let m2 := maxAbs2 vs
      let img := (el.zipIdx.filter (·.1 != 0)).map fun e => (e.2, BitVec.ofNat 32 e.1)
      let st : MaskStore := ⟨img, maskGain m2, p.world⟩
      speDone (s.modSpe n fun e => { e with masks := e.masks.setIfInBounds (dfield p.bytes 24 1 / 4) st }) n p []

/-! ### Calibration (R267 to R269) -/

/-- The profile that an OCAL with PADDR = 0 loads: the current one; before any measurement its bytes are free (entry 20). -/
def currentProfile (s : State) (e : Spe) : List Byte :=
  if e.profile.isEmpty then (List.range 5184).map fun i => (freeWord s i).setWidth 8 else e.profile

/-- A profile image outside R269 (R401 reason 6): VER, reserved bytes and fields. -/
def profileBad (d : List Byte) : Bool :=
  dfield d 0 4 != 1 || dfield d 4 4 != 0 || (firstNonzero d 24 40).isSome || dfield d 8 2 != 0 ||
    (List.range 512).any fun i => dfield d (64 + 8 * i + 4) 4 != 0

/-- The registers take a profile; GEN rises; R268 is applied (R267 to R269, R274). -/
def loadProfile (e : Spe) (d : List Byte) (t : Word) : Spe :=
  let e := { e with
    rcal := Vector.ofFn fun i => BitVec.ofNat 64 (dfield d (64 + 8 * i.val) 4)
    ccal := Vector.ofFn fun i => BitVec.ofNat 64 (dfield d (2112 + 8 * i.val) 4)
    dark := Vector.ofFn fun i => BitVec.ofNat 32 (dfield d (4160 + 4 * i.val) 4)
    calg := BitVec.ofNat 64 (dfield d 8 8) &&& ones 63 16
    calt := BitVec.ofNat 64 (dfield d 16 8)
    calst := (fld e.calst 32 32 + 1) ++ 1#32 }
  e.check t

/-- The work of a calibration packet (R267 to R269, R401). -/
def calWork (s : State) (n : Fin 4) (p : Packet) : State :=
  let a := dfield p.bytes 16 8
  let r : Except Flt (List Byte) :=
    if a = 0 then .ok (currentProfile s (s.spe n)) else qReadStrict s p.root p.world (BitVec.ofNat 56 a) 5184
  match r with
  | .error f => speReject s n p [] f
  | .ok d =>
    if a ≠ 0 ∧ profileBad d then speReject s n p [] (opticFlt p 6 16)
    else
      let s := s.modSpe n fun e => loadProfile e d (now s)
      let s := setCtl s (oSpe n) (fld (s.spe n).calst 32 32 ++ fld (ctl s (oSpe n)) 0 32)
      speDone s n p []

/-- Engine `n` ends the packet it performs in state `st` with `work` (R274). -/
def speEnd (s : State) (n : Fin 4) (st : SpeState) (work : State → Fin 4 → Packet → State) : State :=
  let e := s.spe n
  if e.state ≠ st then s else match e.packet with | none => s | some p => work s n p

/-! ### The events (R269, R273, R274) -/

/-- An idle engine takes a shot packet. -/
def execShotPacket (n : Fin 4) (s : State) : Host.Outcome State Fault Refusal := .next (speTake s n 1 .shot)

/-- The last shot of the packet ends. -/
def execShotEnd (n : Fin 4) (s : State) : Host.Outcome State Fault Refusal := .next (speEnd s n .shot shotWork)

/-- An idle engine takes a mask packet. -/
def execMaskPacket (n : Fin 4) (s : State) : Host.Outcome State Fault Refusal := .next (speTake s n 2 .mask)

/-- The mask store is written. -/
def execMaskWritten (n : Fin 4) (s : State) : Host.Outcome State Fault Refusal := .next (speEnd s n .mask maskWork)

/-- An idle engine takes a calibration packet. -/
def execCalPacket (n : Fin 4) (s : State) : Host.Outcome State Fault Refusal := .next (speTake s n 3 .cal)

/-- The calibration registers are written. -/
def execCalWritten (n : Fin 4) (s : State) : Host.Outcome State Fault Refusal := .next (speEnd s n .cal calWork)

/-- A measurement is due: an idle engine enters MEAS, a busy one when it becomes idle. -/
def execMeasurementStart (n : Fin 4) (s : State) : Host.Outcome State Fault Refusal :=
  .next (match (s.spe n).state with
    | .idle => s.modSpe n ({ · with state := .meas })
    | .meas => s
    | _ => s.modSpe n ({ · with due := true }))

/-- A measurement ends: the current profile is replaced, and the engine is idle unless it has been removed (R422). -/
def execMeasurementEnd (n : Fin 4) (profile : List Byte) (s : State) : Host.Outcome State Fault Refusal :=
  .next (if (s.spe n).state = .meas ∧ profile.length = 5184 then
      let s := s.modSpe n ({ · with profile := profile })
      if bit (ctl s (oSpe n)) 0 then speIdle s n else s
    else s)

/-- The loaded calibration reaches its age (R268); the registers of a removed engine keep their values (R422). -/
def execCalAgeExpiry (n : Fin 4) (s : State) : Host.Outcome State Fault Refusal :=
  .next (if bit (ctl s (oSpe n)) 0 then s.modSpe n (·.check (now s)) else s)

/-- The die temperature moves to `t` (R28, R267, R268); the registers of a removed engine keep their values (R422). -/
def execCalTemperatureMove (n : Fin 4) (t : BitVec 16) (s : State) : Host.Outcome State Fault Refusal :=
  .next (if bit (ctl s (oSpe n)) 0 then s.modSpe n fun e => ({ e with temp := t }).check (now s) else s)

end Sys2Proof.Machine
end

