-- ==== Sys2Proof/Machine/SchedEv.lean ====
section
/-! DEFINITION. Events of the schedulers, the watch tables and the queue consumers (R44, R49, R121, R151, R216, R279, R282,
R284, R285, R289, R294, R306, R307, R324, R407, R428, R450). -/
namespace Sys2Proof.Machine

open Bits

/-! ### Taking packets (R151, R206, R273, R324, R450) -/

/-- Consumer `n` takes the packet at the head of its next queue: a copy hub, the optical dispatcher (16) or the launch
service (17), which takes none in power hold (R26). The queues that wait or are passed over are recorded (R450). -/
def takeNext (s : State) (n : Fin 18) : State :=
  if n.val = 17 ∧ s.pkg.hold then s
  else
    let s := recordStuck s n.val
    match nextQueue s n.val with
    | none => s
    | some i =>
      if n.val < 16 then takeFrom s n.val i (fun _ p => hubFault p) giveService
      else if n.val = 16 then takeFrom s n.val i opticFault giveOptic
      else takeFrom s n.val i (fun _ p => submitFault p) giveSubmit

/-- CONSUMER_TAKE_PACKET (R151): queue `i` of consumer `n`, when it is the next of the rotation. -/
def execConsumerTakePacket (n : Fin 18) (i : Fin 16) (s : State) : Host.Outcome State Fault Refusal :=
  .next (match nextQueue s n.val with
    | none => recordStuck s n.val
    | some k => if k = i.val then takeNext s n else s)

/-! ### The launch service (R279, R324, R397, R428) -/

/-- The descriptor address of a SUBMIT packet (R324). -/
def Packet.desc (p : Packet) : VAddr := BitVec.ofNat 56 (dfield p.bytes 16 8)

/-- The held packet is rejected (R396, R397). -/
def submitReject (s : State) (p : Packet) (f : Flt) : State :=
  rejectPacket (rejectUe (s.modPkg ({ · with submit := none })) p f) p true f

/-- A template that a descriptor names meets a poisoned word or faults (R396, R397). -/
def templateRead (s : State) (root : Word) (world : Bool) (d : List Byte) : Option Flt :=
  (descStages d).findSome? fun va => match qReadStrict s root world va 128 with | .error f => some f | .ok _ => none

/-- The descriptor of the held packet, checked with the templates it names (R397). -/
def submitRead (s : State) (p : Packet) : Except Flt (List Byte) :=
  if dfield p.bytes 16 8 % 128 ≠ 0 then .error (descLimit p.bytes 16 8)
  else match qReadStrict s p.root p.world p.desc 128 with
    | .error f => .error f
    | .ok d => match (descFault s p.root p.world d (BitVec.ofNat 16 (dfield d 8 2))).or (templateRead s p.root p.world d) with
      | some f => .error f
      | none => .ok d

/-- SUBMIT (R324): the launch service checks the descriptor it was given and keeps it with the packet until the launch is
accepted; or it rejects the packet. -/
def submitCheck (s : State) : State :=
  match s.pkg.submit with
  | none => s
  | some p =>
    if p.done then s
    else match submitRead s p with
      | .error f => if f = heldFlt then s else submitReject s p f
      | .ok d => s.modPkg ({ · with submit := some { p with done := true, bytes := p.bytes ++ d } })

/-- A launch whose group has no live core is not created (R428); its record names no watch entry. -/
def deadLaunch (s : State) : State := faultLog s 5 0x14 0 0 0 0 0 0 0

/-- The first launch that is accepted in step 4 of the boot for logical core `c`, whose group is that core, is A(c) (R437; entry
113). -/
def noteBoot (s : State) (g : BitVec 16) : State :=
  let c : BitVec 9 := fld g 3 9
  if s.pkg.boot = 4 && fld g 0 3 == 0 && !(s.pkg.bootA.any (·.1 == c)) then
    s.modPkg fun p => { p with bootA := (c, now s) :: p.bootA }
  else s

/-- The checked launch is accepted, once fewer than 64 are (R279), and COMPL is posted (R324). -/
def acceptHeld (s : State) : State :=
  match s.pkg.submit with
  | none => s
  | some p =>
    if !p.done then s
    else
      let d := p.bytes.drop 64
      let g : BitVec 16 := BitVec.ofNat 16 (dfield d 8 2)
      if groupDead s g p.world then deadLaunch (s.modPkg ({ · with submit := none }))
      else match acceptLaunch s d p.root p.world g none none none with
        | none => s
        | some s => packetPost (noteBoot (s.modPkg ({ · with submit := none })) g) p 1

/-- The launch service goes on by itself: the check, then the acceptance. -/
def launchService (s : State) : State := acceptHeld (submitCheck s)

/-- SUBMIT (R324, R397). -/
def execSubmit (s : State) : Host.Outcome State Fault Refusal := .next (submitCheck s)

/-- LAUNCH_ACCEPT (R279 to R281). -/
def execLaunchAccept (s : State) : Host.Outcome State Fault Refusal := .next (acceptHeld s)

/-- LAUNCH_COMPLETION (R49): instances on other cores have halted; when every instance has, the AND tree adds 1 to DONE. -/
def execLaunchCompletion (lid : BitVec 16) (s : State) : Host.Outcome State Fault Refusal :=
  .next (completeLaunch (othersHalt s lid) lid)

/-! ### Readiness and placement (R282 to R285, R294) -/

/-- COUNTER_ACCESS_REPORT (R282): the home of a counter of task `id` reports an access, and the task is tested. -/
def execCounterAccessReport (id : Nat) (s : State) : Host.Outcome State Fault Refusal := .next (checkReady s id)

/-- UNTRACKED_COUNTER_POLL (R282): the scheduler tests a task whose counters are not tracked. -/
def execUntrackedCounterPoll (id : Nat) (s : State) : Host.Outcome State Fault Refusal := .next (checkReady s id)

/-- One placement (R284). -/
def placement (s : State) : State := if !mayPlace s then s else placeOne s

/-- TASK_PLACEMENT (R284). -/
def execTaskPlacement (s : State) : Host.Outcome State Fault Refusal := .next (placement s)

/-- QUANTUM_EXPIRY (R285): the task of context `x` has held it for Q. -/
def execQuantumExpiry (x : CtxId) (s : State) : Host.Outcome State Fault Refusal :=
  .next (match ctxTask s x with | none => s | some t => rotate s t)

/-- STAGE_REASSIGNMENT (R294): the stage schedulers of the clusters decide once for launch `lid`. -/
def execStageReassignment (lid : BitVec 16) (s : State) : Host.Outcome State Fault Refusal :=
  .next ((List.range 16).foldl (fun s k => reassign s lid k) s)

/-- The save of context `x` goes on: waiting entries return to unstarted, and once the others have ended the area is
written (R289). -/
def saveStep (s : State) (x : CtxId) : State :=
  if (s.cx x).saving.isNone then s
  else
    let s := unstartWaiting s x
    if saveReady s x then
      match s.core.flaw.filter (saveReads x) with
      | some f => ctxError s x f
      | none => saveEnd s x
    else s

/-- SAVE_COMPLETE (R289, R290). -/
def execSaveComplete (x : CtxId) (s : State) : Host.Outcome State Fault Refusal := .next (saveStep s x)

/-- CBAR_RENDEZVOUS (R121): members on other cores reach it, and it completes where every member has. -/
def execCbarRendezvous (lid : BitVec 16) (s : State) : Host.Outcome State Fault Refusal := .next (othersReach s lid)

/-- BANK_FREEING_DONE (R216): the last earlier writer of a FREEING bank is done. -/
def execBankFreeingDone (bank : BitVec 5) (s : State) : Host.Outcome State Fault Refusal := .next (settleBank s bank)

/-! ### Watch entries (R306, R307, R310, R407, R428) -/

/-- Change the entry `idx` of table `tbl`. -/
def modWatch (s : State) (tbl idx : Nat) (f : Watch → Watch) : State :=
  s.modPkg fun p => { p with watch := p.watch.map fun w => if w.tbl = tbl ∧ w.idx = idx then f w else w }

/-- The entry `idx` of table `tbl`, when it is not FREE. -/
def watchAt (s : State) (tbl idx : Nat) : Option Watch := s.pkg.watch.find? fun w => w.tbl == tbl && w.idx == idx

/-- The record of kind 5 for a watch entry (R407, R428). -/
def runawayRecord (s : State) (tbl idx : Nat) (cause : BitVec 8) (val addr : Word) : State :=
  faultLog s 5 cause 0 0 (handle tbl idx) 0 0 val addr

/-- The entry `w` fires when its deadline is reached, or becomes RUNAWAY and is recorded (R306, R407). -/
def fireAt (s : State) (w : Watch) : State :=
  if watchDue s w then
    let s := modWatch s w.tbl w.idx fun _ => w.fire.1
    if w.fire.1.state = 4 then runawayRecord s w.tbl w.idx 0x28 0 0
    else s.modPkg fun p => { p with waggles := p.waggles ++ [w.fire.2] }
  else s

/-- The first entry whose deadline is reached fires. -/
def fireAny (s : State) : State :=
  match s.pkg.watch.find? (watchDue s) with | none => s | some w => fireAt s w

/-- WATCH_FIRE (R306): the deadline of the window is reached; the entry fires, or becomes RUNAWAY and is recorded. -/
def execWatchFire (tbl idx : Nat) (s : State) : Host.Outcome State Fault Refusal :=
  .next (match watchAt s tbl idx with | none => s | some w => fireAt s w)

/-- BUDGET_PERIOD_END (R306): a window whose deadline lies in the period that ends fires first; then the next period begins. -/
def execBudgetPeriodEnd (tbl idx : Nat) (s : State) : Host.Outcome State Fault Refusal :=
  .next (modWatch (match watchAt s tbl idx with | none => s | some w => fireAt s w) tbl idx (·.periodAt (now s)))

/-- A fire that creates no launch makes its entry RUNAWAY (R407, R428). -/
def wagFail (s : State) (m : Waggle) (cause : BitVec 8) (val addr : Word) : State :=
  runawayRecord (modWatch s m.tbl m.idx fun w => { w with state := 4, live := w.live - 1 }) m.tbl m.idx cause val addr

/-- The launch descriptor of a fire, read and checked (R307, R397, R407). -/
def wagRead (s : State) (w : Watch) : Except Flt (List Byte) :=
  let va := va56 w.ldesc
  match qReadStrict s w.root w.world va 128 with
  | .error f => .error f
  | .ok d =>
    if dfield d 11 1 < 2 ∧ (dfield d 11 1 == 1) ≠ w.world then .error ⟨0x13, 0⟩
    else match (descFault s w.root w.world d w.group).or (templateRead s w.root w.world d) with
      | some f => .error f
      | none => .ok d

/-- s2 to s4 of the tasks of a fire (R307). -/
def Waggle.trig (m : Waggle) : Word × Word × Word :=
  (m.cnt.setWidth 64, m.bm, 0#8 ++ BitVec.ofNat 8 m.tbl ++ BitVec.ofNat 16 m.idx ++ m.fires)

/-- The scheduler serves the oldest waggle message (R307): it reads the launch descriptor, then submits what it read, which waits
there while 64 launches are accepted. -/
def waggleStep (s : State) : State :=
  match s.pkg.waggles with
  | [] => s
  | m :: l =>
    let s' := s.modPkg ({ · with waggles := l })
    if m.cnt = 0 then runawayRecord s' m.tbl m.idx 0x28 0 0
    else match watchAt s m.tbl m.idx with
      | none => s'
      | some w =>
        if groupDead s w.group w.world then wagFail s' m 0x14 0 0
        else if m.desc = [] then match wagRead s' w with
          | .error f => if f = heldFlt then s else wagFail (rootSeen s' w.root w.world f) m f.cause f.val 0
          | .ok d => s.modPkg ({ · with waggles := { m with desc := d } :: l })
        else match acceptLaunch s' m.desc w.root w.world w.group (some w.prio) (some m.trig) (some (m.tbl, m.idx)) with
          | none => s
          | some s => s

/-- WAGGLE_MESSAGE (R307). -/
def execWaggleMessage (s : State) : Host.Outcome State Fault Refusal := .next (waggleStep s)

end Sys2Proof.Machine
end

