-- ==== Sys2Proof/Machine/MapEv.lean ====
section
/-! DEFINITION. The construction map and the power of the core: rises of CMAP.VER (R329, R330, R365), removals (R427, R428,
R430), elevators (R423), links (R327, R408), the clock (R25, R26), power gating (R296, R297), and the boot (R313, R314,
R437). -/
namespace Sys2Proof.Machine

open Bits

/-! ### The version (R329, R330) -/

/-- ACK_DEADLINE_EXPIRY (R330): the acknowledgement of context `x` is LATE. -/
def execAckDeadlineExpiry (x : CtxId) (s : State) : Host.Outcome State Fault Refusal :=
  .next (match (s.cx x).ack with
    | .due d => if d.toNat ≤ (now s).toNat then s.modCx x ({ · with ack := .late }) else s
    | _ => s)

/-! ### Removal of cores (R93, R329) -/

/-- The sections of physical core `p` are written out (R93). -/
def writeSections (s : State) (p : BitVec 9) : State :=
  let c := ((logicalOf s p).getD 0).toNat
  (sectionsOf p.toNat).foldl (fun s n => match secTag s n with
    | some m => writeOut (setSecTag s n none) m c n
    | none => s) s

/-- Physical core `p` holds a task. -/
def physBusy (s : State) (p : BitVec 9) : Bool :=
  s.pkg.tasks.any fun t => t.ctx.isSome && (match t.core with | some c => lmap s c.toNat == some p | none => false)

/-- The schedulers stop placing tasks on core `p`, and its running tasks are to be saved with reason map (R329). -/
def retireCore (s : State) (p : BitVec 9) : State :=
  let mark (t : Task) : Task :=
    if t.state = .running ∧ t.ctx.isSome ∧ t.core = logicalOf s p then { t with chosen := some .map } else t
  let rs := if s.pkg.removing.contains p then s.pkg.removing else s.pkg.removing ++ [p]
  s.modPkg fun q => { q with removing := rs, tasks := q.tasks.map mark }

/-- The LIVE bit of core `p` and the valid bit of its LMAP entry are cleared (R329). -/
def clearCore (s : State) (p : BitVec 9) : State :=
  let o := 0x100100 + 8 * (p.toNat / 64)
  let n := ctl s 0x100010
  let s := match logicalOf s p with
    | none => s
    | some c => let m := 0x100200 + c.toNat / 4 * 8
                setCtl s m (setFld (ctl s m) (16 * (c.toNat % 4) + 15) 0#1)
  let s := setCtl s 0x100010 (if bit (ctl s o) (p.toNat % 64) then n - 1 else n)
  (setCtl s o (setFld (ctl s o) (p.toNat % 64) 0#1)).modPkg fun q => { q with removing := q.removing.filter (· != p) }

/-- The removal of the cores `ps` (R329): once they hold no task, their sections are written out and their map bits are
cleared; false while they hold one. -/
def removeCores (s : State) (ps : List (BitVec 9)) : State × Bool :=
  let s := ps.foldl retireCore s
  if ps.any (physBusy s) then (s, false) else (ps.foldl clearCore (ps.foldl writeSections s), true)

/-! ### Removed homes (R428) -/

/-- Watch entries of the tables `f` become DISABLED, their windows dropped, and FREE once no launch of theirs lives. -/
def dropWatches (s : State) (f : Nat → Bool) : State :=
  let off (w : Watch) : Option Watch :=
    if !f w.tbl then some w
    else if w.live = 0 then none
    else some { w with state := 3, wdis := false }
  s.modPkg fun p => { p with watch := p.watch.filterMap off }

/-- The packets that the removed engine `n` has not begun: those that name it are rejected, ANY packets pass over it (R273, R401,
R422). -/
def rejectNamed (s : State) (n : Fin 4) : State :=
  (s.pkg.packets.filter (·.boundTo n)).foldl passOver
    (s.modPkg fun q => { q with packets := q.packets.filter fun p => !p.boundTo n })

/-- A map register's bit `i` is cleared, and VER rises, when it was set. -/
def clearBit (s : State) (o i : Nat) (f : State → State) : State :=
  if bit (ctl s o) i then verUp (f (setCtl s o (setFld (ctl s o) i 0#1))) else s

/-- A live elevator that takes the place of `k`: the alternate of the row, or another of the wall (R423; entry 104). -/
def Route.spare (r : Route) (gone : List (BitVec 7)) : BitVec 7 :=
  ((r.alternate :: (List.range 8).map fun j => BitVec.ofNat 7 (r.primary.toNat / 8 * 8 + j)).find? (!gone.contains ·)).getD r.alternate

/-- Every route table is rewritten so that no destination names a retired elevator as primary (R423). -/
def rewriteRoutes (p : Pkg) : Pkg :=
  { p with routes := p.routes.map fun r => if p.retired.contains r.primary then { r with primary := r.spare p.retired } else r }

/-- Mbailan goes on with a change of the map (R329, R423, R427, R428); false while it cannot be completed. A core is removed once
its tasks are saved: until then the change only stops placement on it. An engine is removed once it holds no packet. -/
def tryChange (s : State) (c : MapChange) : State × Bool :=
  match c with
  | .core c => match lmap s c.toNat with
    | none => (s, true)
    | some p => match removeCores s [p] with | (s, true) => (verUp s, true) | r => r
  | .vault k =>
    if bit (ctl s (oCol k.toNat)) 0 then
      match removeCores s ((List.range 4).map fun q => BitVec.ofNat 9 (4 * k.toNat + q)) with
      | (s, true) => (clearBit s (oCol k.toNat) 0 (dropWatches · (· == 16 + k.toNat)), true)
      | r => r
    else (s, true)
  | .bank k b => (clearBit s (oCol k.toNat) (2 + b.val) id, true)
  | .l2Ways c ways =>
    let o := 0x100A00 + 8 * c.val
    let v := ctl s o
    (if fld v 16 16 &&& ways = 0 then s else verUp (setCtl s o (setFld v 16 (fld v 16 16 &&& ~~~ways))), true)
  | .hbm g => (clearBit s (oHbm g.val) 0 (dropWatches · (· == g.val)), true)
  | .link l => (clearBit s (0x100AC0 + 8 * l.val) 0 (dropLink · l), true)
  | .spe n =>
    if (s.spe n).packet.isSome then (s, false)
    else (clearBit s (oSpe n.val) 0 fun s => rejectNamed (s.modSpe n fun e => { e.check (now s) with state := .meas }) n, true)
  | .elevator k =>
    (if s.pkg.retired.contains k then s
     else clearBit (s.modPkg fun p => rewriteRoutes { p with retired := p.retired ++ [k] }) (oCol k.toNat) 18 id, true)

/-- Mbailan makes changes one at a time: it starts none before the one it has begun is complete (R329). -/
def makeChanges (s : State) : List MapChange → State
  | [] => s.modPkg ({ · with changes := [] })
  | c :: l => match tryChange s c with
    | (s, true) => makeChanges s l
    | (s, false) => s.modPkg ({ · with changes := c :: l })

/-- Mbailan goes on with the changes it is to make. -/
def runChanges (s : State) : State := makeChanges s s.pkg.changes

/-- A change of the map is to be made (R329): at once, when no other is in progress. -/
def changeMap (s : State) (c : MapChange) : State :=
  makeChanges s (if s.pkg.changes.contains c then s.pkg.changes else s.pkg.changes ++ [c])

/-- MAP_CHANGE (R329). -/
def execMapChange (c : MapChange) (s : State) : Host.Outcome State Fault Refusal := .next (changeMap s c)

/-- HBM_STACK_FAILURE (R427): the home agent reports its stack failed. -/
def execHbmStackFailure (g : Fin 8) (s : State) : Host.Outcome State Fault Refusal := .next (changeMap s (.hbm g))

/-- ELEVATOR_RETIREMENT (R423, R427): a change of the map, in which the route tables no longer name it as primary, and then bit 18
of CMAP.COL[k] is cleared. -/
def execElevatorRetirement (k : BitVec 7) (s : State) : Host.Outcome State Fault Refusal := .next (changeMap s (.elevator k))

/-- LINK_DOWN (R327, R400, R427): the link leaves UP and is removed. -/
def execLinkDown (l : Fin 12) (s : State) : Host.Outcome State Fault Refusal := .next (changeMap (dropLink s l) (.link l))

/-- FLIT_RECEIVE (R327, R408, R412): a flit arrives after some failed tries; a flit that fails 16 retries takes the link
down. -/
def execFlitReceive (l : Fin 12) (retries : Nat) (s : State) : Host.Outcome State Fault Refusal :=
  .next (if linkUp s l.val then
      let s := (List.range (min retries 16)).foldl (fun s _ => countCE s 7) s
      if 16 ≤ retries then changeMap (dropLink s l) (.link l) else s
    else s)

/-- The tasks of logical core `c`, which stops without a save, are lost (R429): a record of kind 4 for each, and its
launch is aborted. -/
def loseTasks (s : State) (c : BitVec 9) : State :=
  (s.pkg.tasks.filter fun t => t.core == some c && t.ctx.isSome).foldl (fun s t =>
    let pc : Word := match t.ctx with | some x => if isMine s c then (s.cx x).pc.setWidth 64 else 0 | none => 0
    let name : Word := c ++ BitVec.ofNat 2 ((t.ctx.map (·.val)).getD 0) ++ 0#53
    abortLaunch (faultLog s 4 0 0 t.lid name pc 0 0 0) t.lid) s

/-- CORE_STOP_WITHOUT_SAVE (R429). -/
def execCoreStopWithoutSave (c : BitVec 9) (s : State) : Host.Outcome State Fault Refusal := .next (loseTasks s c)

/-! ### Timing windows (R414) -/

/-- TIMING_WINDOW (R414): a window of 1 ms ends; after three consecutive windows above the limit the core is removed. -/
def execTimingWindow (s : State) : Host.Outcome State Fault Refusal :=
  let lim := fldN (ctl s 0xF00010) 0 16
  let overs := if lim ≠ 0 ∧ lim < s.core.repeats then s.core.overs + 1 else 0
  let s' := s.modCore fun k => { k with repeats := 0, overs := overs }
  .next (if 3 ≤ overs then (match logicalOf s' s'.core.phys with | some c => changeMap s' (.core c) | none => s') else s')

/-! ### The clock and power hold (R25, R26) -/

/-- CMAP.CLK[i]: MHz, when the entry is valid. -/
def clkEntry (s : State) (i : Fin 8) : Option Nat :=
  let v := ctl s (0x100020 + 8 * i.val)
  if bit v 16 then some (fldN v 0 16) else none

/-- The next lower valid entry (R26). -/
def clkDown (s : State) : Option (Fin 8) :=
  leastBy (fun i => 65536 - (clkEntry s i).getD 0)
    ((List.finRange 8).filter fun i => (clkEntry s i).any fun m => decide (m < clockMhz s))

/-- The next higher valid entry, never above 2000 MHz (R26). -/
def clkUp (s : State) : Option (Fin 8) :=
  leastBy (fun i => (clkEntry s i).getD 0)
    ((List.finRange 8).filter fun i => (clkEntry s i).any fun m => decide (clockMhz s < m) && decide (m ≤ 2000))

/-- Enter or leave power hold; CMAP.CLKCUR.HOLD follows, the version does not move (R26). -/
def setHold (s : State) (b : Bool) : State :=
  (setCtl s 0x100018 (setFld (ctl s 0x100018) 3 (b1 b))).modPkg fun p => { p with hold := b, quiet := 0 }

/-- The clock steps to entry `i` (R25): at the end of the window, with its own rise of VER, also while a removal waits for its tasks
to be saved (R329; entry 118). -/
def clockStep (s : State) (i : Fin 8) : State :=
  if bit (ctl s (0x100020 + 8 * i.val)) 16 && fldN (ctl s 0x100018) 0 3 != i.val then
    verUp (setCtl s 0x100018 (setFld (ctl s 0x100018) 0 (BitVec.ofNat 3 i.val)))
  else s

/-- The management core's decision at the end of a 1 ms window (R25, R26). -/
def powerStep (s : State) (mw : Nat) : State :=
  if 3000000 < mw then
    let s := s.modPkg ({ · with quiet := 0 })
    match clkDown s with
    | some i => clockStep s i
    | none => setHold s true
  else if mw ≤ 2700000 then
    if s.pkg.hold then setHold s false
    else if s.pkg.quiet < 2 then s.modPkg fun p => { p with quiet := p.quiet + 1 }
    else
      let s := s.modPkg ({ · with quiet := 0 })
      match clkUp s with | some i => clockStep s i | none => s
  else s.modPkg ({ · with quiet := 0 })

/-- POWER_WINDOW (R25, R26). -/
def execPowerWindow (milliwatt : Nat) (s : State) : Host.Outcome State Fault Refusal := .next (powerStep s milliwatt)

/-! ### Power gating (R296, R297) -/

/-- The core is idle (R296). -/
def coreIdle (s : State) : Bool :=
  ctxs.all fun x => (s.cx x).task.isNone && engines.all fun e => ((s.cx x).eq e).quiet

/-- GATING_START (R297): the idle count has reached GATEIDLE.CYC. -/
def execGatingStart (s : State) : Host.Outcome State Fault Refusal :=
  let g := fldN (ctl s 0x200410) 0 24
  .next (if s.core.gate = .on ∧ g ≠ 0 ∧ coreIdle s ∧ g ≤ s.core.idle then
    s.modCore fun k => { k with gate := .gating, mailbox := false, gateAt := k.cycle } else s)

/-- GATING ends once its 64 cycles have passed (R297); a message of the commit cycle wakes the core at once. -/
def gateCommit (s : State) : State :=
  if s.core.gate = .gating && s.core.gateDue then
    s.modCore fun k => { k with gate := if k.mailbox then .waking else .gated, gcnt := k.gcnt + 1 }
  else s

/-- GATING_COMMIT (R297): the 64th cycle passes with no wake. -/
def execGatingCommit (s : State) : Host.Outcome State Fault Refusal := .next (gateCommit s)

/-- WAKE_MESSAGE (R296, R297): a remote access or the scheduler wakes the modelled core. -/
def execWakeMessage (s : State) : Host.Outcome State Fault Refusal := .next (wake s (lcore s))

/-- Power is restored (R297). -/
def wakeUp (s : State) : State :=
  match s.core.gate with
  | .waking => s.modCore ({ · with gate := .on, idle := 0, mailbox := false })
  | _ => s

/-- WAKING_DONE (R297). -/
def execWakingDone (s : State) : Host.Outcome State Fault Refusal := .next (wakeUp s)

/-! ### Boot (R313, R314, R315, R437) -/

/-- The signed bytes of an image: 0 to 171 of its header, and the payload (R314). -/
def imageBody (d : List Byte) : List Byte := d.take 172 ++ (d.drop 512).take (dfield d 8 8)

/-- An image verifies as one of type `t` (R314): the form of its header, key digest, security version and signature. -/
def imageOk (d : List Byte) (t : Nat) : Bool :=
  dfield d 0 4 == 0x54484831 && dfield d 4 4 == t && dfield d 36 4 == 0 && (firstNonzero d 304 208).isNone &&
    decide (512 + dfield d 8 8 ≤ d.length) &&
    (sha512 ((d.drop 40).take 132) == toBytes (Config.fuseKeyDigest (t - 1)) 64) &&
    decide ((Config.fuseMinSvn (t - 1)).toNat ≤ dfield d 32 4) &&
    ecdsaValid ((d.drop 40).take 132) ((d.drop 172).take 132) (imageBody d)

/-- The payload of an image is placed at its load address (R314). -/
def loadImage (s : State) (d : List Byte) : State :=
  let a := dfield d 16 8 % 2 ^ 52
  match rowOf a with
  | .hbm _ | .vault _ | .ndram _ => rawStore s a ((d.drop 512).take (dfield d 8 8))
  | _ => s

/-- The system-core images in load order (R313). -/
def sysImages : List (List Byte) := (List.range Config.bootImages).map fun i => Config.bootImage (i + 1)

/-- Blocks whose change waits for nothing take their new world (R318). -/
def settleWorld (s : State) (b : WorldBlock) : State :=
  let busy := match b with
    | .core p => physBusy s p
    | .hub n => s.pkg.packets.any (·.cons == n.val)
    | .spe n => (s.spe n).packet.isSome
  if busy then s else s.modPkg fun q => { q with worldOld := q.worldOld.filter (·.1 != b) }

/-- BLOCK_WORLD_TAKE_EFFECT (R318): the block holds no task and no packet in service. -/
def execBlockWorldTakeEffect (b : WorldBlock) (s : State) : Host.Outcome State Fault Refusal := .next (settleWorld s b)

/-- Mbailan registers a secure launch-service queue for its boot launches (R324, R437); which, and where, is its own (entry 99). -/
def bootQueue (s : State) : State :=
  let put (s : State) (o : Nat) (v : Word) : State := ctlWriteWord s .mgmt o v (BitVec.allOnes 64)
  put (put s (oQroot 17 0) (Config.bootWord (oQroot 17 0))) (oQcb 17 0) (Config.bootWord (oQcb 17 0) ||| ones 63 62)

/-- Before the boot launches (R437): every BLKW.CORE bit set, map version 0 with every core live, a secure launch-service queue. -/
def bootMap (s : State) : State :=
  let s := (List.range 8).foldl (fun s w => writeBlkw s .mgmt (0x200 + 8 * w) (BitVec.allOnes 64)) s
  let s := (List.range 512).foldl (fun s p => settleWorld s (.core (BitVec.ofNat 9 p))) s
  let s := (List.range 8).foldl (fun s w => setCtl s (0x100100 + 8 * w) (BitVec.allOnes 64)) s
  bootQueue ((List.range 128).foldl (fun s i => setCtl s (0x100200 + 8 * i) (ctlReset (0x100200 + 8 * i)))
    (setCtl (setCtl s 0x100010 512) oVer 0))

/-- Map version 1: the cores decided not live leave the map (R437). -/
def bootVersion (s : State) : State :=
  setVer ((s.pkg.decided.filter (!·.2)).foldl (fun s e => match lmap s e.1.toNat with
    | some p => clearCore s p
    | none => s) s) 1

/-- Mbailan sets the block worlds and the region table (R313): the values are its own (entry 99). -/
def bootWorlds (s : State) : State :=
  let blk := (List.range 14).map fun i => 0x200 + 8 * i
  let s := blk.foldl (fun s o => writeBlkw s .mgmt o (Config.bootWord o)) s
  let s := (blk.flatMap blocksOf).foldl settleWorld s
  (List.range 64).foldl (fun s i => ctlWriteWord s .mgmt (0x400 + 8 * i) (Config.bootWord (0x400 + 8 * i)) (BitVec.allOnes 64)) s

/-- The boot reaches its next step (R313): the management core's image verifies; its digest is measured; the map of the
boot launches; version 1 once every core is decided; the system-core images are verified and measured; the system cores
are released. A step whose images do not verify is not passed. -/
def bootStep (s : State) : State :=
  let img := Config.bootImage 0
  match s.pkg.boot with
  | 1 => if imageOk img 1 then s.modPkg ({ · with boot := 2 }) else s
  | 2 => (extendMeas (loadImage s img) 0 (sha512 (imageBody img))).modPkg ({ · with boot := 3 })
  | 3 => (bootMap s).modPkg ({ · with boot := 4 })
  | 4 => if logicals.all fun c => s.pkg.decided.any (·.1 == c) then (bootVersion s).modPkg ({ · with boot := 5 }) else s
  | 5 => if sysImages.all (imageOk · 2) then
      (bootWorlds (sysImages.foldl (fun s d => extendMeas (loadImage s d) 1 (sha512 (imageBody d))) s)).modPkg ({ · with boot := 6 }) else s
  | _ => s

/-- POWER_ON (R313): one step of the boot. -/
def execPowerOn (s : State) : Host.Outcome State Fault Refusal := .next (bootStep s)

/-- Both DONE words of a core are nonzero (R437). -/
def marchDone (s : State) (doneA doneB : Nat) : Bool := wordAt s doneA != 0 && wordAt s doneB != 0

/-- A core has passed its self-test (R437). -/
def marchPassed (s : State) (c : BitVec 9) (doneA doneB : Nat) : Bool :=
  let a := wordAt s doneA
  let b := wordAt s doneB
  let bist := match lmap s c.toNat with | some p => ctlRead s (0x3000008 + 0x100 * p.toNat) | none => 0
  marchDone s doneA doneB && !bit a 63 && !bit b 63 && bit bist 0 && !bit bist 2

/-- 1 s has passed since A(c) was submitted (R437; entry 113 for the time of the submission). -/
def marchLate (s : State) (c : BitVec 9) : Bool :=
  (s.pkg.bootA.find? (·.1 == c)).any fun e => decide (1000000000 ≤ (now s - e.2).toNat)

/-- BOOT_CORE_DECISION (R437): with both DONE words nonzero, or, not live, when 1 s has passed since A(c) was submitted. -/
def execBootCoreDecision (c : BitVec 9) (doneA doneB : BitVec 52) (s : State) : Host.Outcome State Fault Refusal :=
  .next (if s.pkg.boot = 4 && !(s.pkg.decided.any (·.1 == c)) && (marchLate s c || marchDone s doneA.toNat doneB.toNat) then
    s.modPkg fun p => { p with decided := p.decided ++ [(c, !marchLate s c && marchPassed s c doneA.toNat doneB.toNat)] } else s)

end Sys2Proof.Machine
end

