-- ==== Sys2Proof/Machine/FaultEv.lean ====
section
/-! DEFINITION. Traps and the faults that no instruction raises, as events: taking a trap (R351, R358), cycle bounds (R142,
R403), token deadlock (R404), hangs (R405, R421), refresh (R394), timing errors (R413), and the scans of cores (R177, R178,
R432). -/
namespace Sys2Proof.Machine

open Bits

/-! ### Taking a trap (R353, R354, R358) -/

/-- A trap recorded in a save is taken at the first issue after the resume (R366): the line rises, and PEND is cleared. -/
def takePended (s : State) (x : CtxId) : State :=
  let c := s.cx x
  match c.trap with
  | some r =>
    if bit c.tstat 5 && c.saving.isNone && c.task.isSome && !c.halted && s.core.gate == .on then
      takeTrap (s.modCx x fun c => { c.setStat 5 false with trap := none }) x r
    else s
  | none => s

/-- The halt line stops the engines of context `x` (R354), and its recorded trap is entered once its accesses are performed
and landed (R358). -/
def trapStep (s : State) (x : CtxId) : State :=
  let s := takePended s x
  let s := if (s.cx x).line then holdCtx ((Eng.seq :: engines).foldl (stopEngine · x ·) s) x else s
  match (s.cx x).trap with
  | some r => if (s.cx x).saving.isNone && !bit (s.cx x).tstat 5 && trapReady s x r then enterHandler s x r else s
  | none => s

/-- TRAP_ENTRY (R358): a recorded trap is taken. -/
def execTrapEntry (x : CtxId) (s : State) : Host.Outcome State Fault Refusal := .next (trapStep s x)

/-! ### Bounds (R142, R403) -/

/-- The flag of R337 that a started entry waits for; 0xFF when it works (R390). -/
def boundFlag (s : State) (x : CtxId) (e : Eng) (r : Run) : Nat := (waitFlag s x e r).getD 0xFF

/-- TVAL of BOUND (R390). -/
def boundVal (s : State) (x : CtxId) (e : Eng) (r : Run) : Word :=
  fld r.seq 0 48 ++ 0#5 ++ BitVec.ofNat 3 (engNum e) ++ BitVec.ofNat 8 (boundFlag s x e r)

/-- A started entry is past its cycle bound (R403). -/
def pastBound (s : State) (r : Run) : Bool :=
  let b := fldN r.hdr 32 16
  b != 0 && r.fault.isNone && decide (64 * b ≤ (s.core.cycle - r.cycle).toNat)

/-- BOUND_EXPIRY (R403): the entry is still incomplete 64·BOUND cycles after its start. -/
def execBoundExpiry (x : CtxId) (e : Eng) (s : State) : Host.Outcome State Fault Refusal :=
  .next (match s.run x e with
    | none => s
    | some r => if pastBound s r && !(s.eq x e).stop then entryFault s x e ⟨0x20, boundVal s x e r⟩ else s)

/-! ### Deadlock (R404) -/

/-- The engines that a blocked head of engine `e` waits for: a token of each, or room (R404). -/
def headPoints (s : State) (x : CtxId) (e : Eng) : List Nat :=
  let c := s.cx x
  if (c.eq e).run.isSome then []
  else match headOf s x e with
    | .entry _ d _ =>
      let w : BitVec 16 := fld (entryHdr d) 12 16
      if syncBad e w then []
      else ((popsOf w).filter fun p => decide (c.tokens p (engNum e) < (popsOf w).count p)) ++
        (if fldN w 12 4 < 7 ∧ 15 ≤ c.tokens (engNum e) (fldN w 12 4) then [fldN w 12 4] else [])
    | _ => []

/-- Engines with an incomplete entry that will write token register `t`. -/
def tregWriters (s : State) (x : CtxId) (t : BitVec 6) : List Nat :=
  (engines.filter fun e =>
    let q := s.eq x e
    (match q.run with | some r => fldN r.hdr 48 8 == t.toNat | none => false) ||
      q.pend.any fun p => match entryBytes s x (ringAddr q p.slot) with
        | .ok d => fldN (entryHdr d) 48 8 == t.toNat
        | .error _ => false).map engNum

/-- The engine that the instruction in words `w`, `w1` appends an entry to, and the token register that it names, 0 for none
(R180, R200). -/
def appendOf (w w1 : IWord) : Option (Eng × BitVec 6) :=
  let op := opc w
  if op = 0x29 ∧ fn w = 3 then some (.cpe, 0)
  else if op = 0x2F ∧ fn w = 0 then some (.mxe, 0)
  else if 0x20 ≤ op.toNat ∧ op.toNat ≤ 0x25 then (engines.find? fun e => engOp e == op).map (·, et w1)
  else none

/-- The engines that the instruction before which context `x` is stalled waits for: TKWAIT, TKSEND, or an append whose token
register or ring slot is pending (R404). -/
def seqPoints (s : State) (x : CtxId) : List Nat :=
  let c := s.cx x
  if c.wait.isNone then []
  else match fetchLine s x c.pc with
    | .error _ => []
    | .ok (_, l) =>
      let w := lineWord l (wordOf c.pc)
      let w1 := lineWord l (wordOf c.pc + 1)
      let op := opc w
      if op = 0x28 ∧ fn w = 0 then
        (if c.tokens (rb w).toNat 0 = 0 then [(rb w).toNat] else [])
      else if op = 0x28 ∧ fn w = 1 then
        (if 15 ≤ c.tokens 0 (rb w).toNat then [(rb w).toNat] else [])
      else match appendOf w w1 with
        | none => []
        | some (e, t) =>
          let q := c.eq e
          (if bit c.tkpend t.toNat ∧ t ≠ 0 then tregWriters s x t else []) ++
            (if slotBusy q (nextSlot q.qtail) then [engNum e] else [])

/-- The pointers of the blocked heads of context `x`, by engine number (R404). -/
def pointers (s : State) (x : CtxId) : List (List Nat) := seqPoints s x :: engines.map (headPoints s x)

/-- The numbers that are reached from `seen` by following pointers. -/
def pointReach (ps : List (List Nat)) : Nat → List Nat → List Nat
  | 0, seen => seen
  | n + 1, seen => pointReach ps n (seen ++ ((seen.flatMap fun i => ps.getD i []).filter fun j => !seen.contains j).eraseDups)

/-- `i` reaches itself. -/
def onCycle (ps : List (List Nat)) (i : Nat) : Bool := (pointReach ps 7 (ps.getD i [])).contains i

/-- The engines of a cycle of pointers: those that share one with the lowest-numbered engine that lies on any (R404). -/
def deadlock (ps : List (List Nat)) : List Nat :=
  match (List.range 7).find? (onCycle ps) with
  | none => []
  | some i => (List.range 7).filter fun j =>
      onCycle ps j && (j == i || ((pointReach ps 7 (ps.getD i [])).contains j && (pointReach ps 7 (ps.getD j [])).contains i))

/-- What the head of engine number `i` is, so that it is seen to change: the PC of the sequencer, the address of an entry. -/
def headName (s : State) (x : CtxId) (i : Nat) : Word :=
  if i = 0 then (s.cx x).pc.setWidth 64
  else match engines.find? fun e => engNum e == i with
    | none => 0
    | some e => match headOf s x e with
      | .entry va _ _ => va.setWidth 64
      | _ => 0

/-- The heads of the present cycle of pointers of context `x` (R404). -/
def deadHeads (s : State) (x : CtxId) : List (Nat × Word) := (deadlock (pointers s x)).map fun i => (i, headName s x i)

/-- The cycle of pointers that stands as a step begins, and since when: from this step if a head has changed (R404). -/
def noteDead (s : State) (x : CtxId) : State :=
  let l := if (s.cx x).task.isSome then deadHeads s x else []
  s.modCx x fun c => { c with dead := if l.isEmpty then none else if c.dead.any (·.1 == l) then c.dead else some (l, s.core.cycle) }

/-- The unstarted head of engine `e` becomes a faulted head that holds no pops (R404). -/
def deadHead (s : State) (x : CtxId) (e : Eng) (val : Word) : State :=
  match headOf s x e with
  | .entry va d ls =>
    failHead s x e va d ls ⟨0x21, val⟩
  | _ => s

/-- DEADLK for the cycle `l` (R404): on the context when the sequencer is in it, otherwise on its lowest-numbered engine,
whose head it names. -/
def raiseDeadlock (s : State) (x : CtxId) (l : List Nat) : State :=
  match l with
  | [] => s
  | i :: _ =>
    let val : Word := bits 64 l
    if i = 0 then takeTrap s x ⟨0x21, 0, false, 0, val⟩
    else match engines.find? fun e => engNum e == i with
      | none => s
      | some e => deadHead s x e val

/-- For 1024 cycles the blocked heads of `x` have pointed in the present cycle, and none of them has changed (R404). -/
def deadFor (s : State) (x : CtxId) : Bool :=
  (s.cx x).dead.any fun k => k.1 == deadHeads s x && decide (1024 ≤ (s.core.cycle - k.2).toNat)

/-- DEADLOCK_DETECTION (R404): for 1024 cycles the blocked heads of `x` have pointed in a cycle. -/
def execDeadlockDetection (x : CtxId) (s : State) : Host.Outcome State Fault Refusal :=
  .next (if (s.cx x).line || (s.cx x).trap.isSome || !deadFor s x then s else raiseDeadlock s x (deadlock (pointers s x)))

/-! ### Hangs (R366, R405, R421) -/

/-- `n` nanoseconds pass in which context `x` is HELD, stopped or in its handler, outside a save: they do not count toward the
period (R405). -/
def pauseHang (s : State) (n : Word) (x : CtxId) : State :=
  let c := s.cx x
  if c.saving.isNone && (c.line || lineStops s x || c.halted || c.inh) then s.modCx x ({ · with hbeat := c.hbeat + n }) else s

/-- HANG_WATCHDOG_EXPIRY (R405, R421): one period without a heartbeat or a move of a head. A save is abandoned; a PERS task
is hung. -/
def hangStep (s : State) (x : CtxId) : State :=
  let c := s.cx x
  let us := fldN (ctl s 0xF00008) 0 32
  match ctxTask s x with
  | none => s
  | some t =>
    if us = 0 ∨ (now s - c.hbeat).toNat < 1000 * us then s
    else if c.saving.isSome then saveAbandon s x 0x22 (c.beat.getD c.hbeat)
    else if c.line || c.halted || c.inh || c.trap.isSome || c.beat.isNone then s
    else match loopRecord s t with
      | .error _ => s
      | .ok d => if recPers d then takeTrap s x ⟨0x22, 0, false, 0, c.beat.getD c.hbeat⟩ else s

/-- HANG_WATCHDOG_EXPIRY. -/
def execHangWatchdogExpiry (x : CtxId) (s : State) : Host.Outcome State Fault Refusal := .next (hangStep s x)

/-! ### Refresh (R394) -/

/-- REFRESH_INTERVAL_EXPIRY (R394): 3.9 µs pass without a REF; the row is closed, the next row refreshed, a new interval
starts, and REFRESH is raised on the holder. -/
def execRefreshIntervalExpiry (b : Fin 4) (s : State) : Host.Outcome State Fault Refusal :=
  let k := ndBank s b.val
  let late := (now s - k.refAt).toNat
  .next (match k.holder with
    | none => s
    | some x =>
      if late < 3900 then s
      else
        let s := countCEs (setNd s b.val { k with row := none, preAt := if k.row.isSome then now s else k.preAt,
                                                  refrow := k.refrow + 1, refAt := now s, busy := now s + 110 }) 1 (rowErrors s)
        takeTrap s x ⟨0x23, 0, false, 0, ndVal 0 b.val k.refrow ((late - 3900) * clockMhz s / 1000)⟩)

/-! ### Timing errors (R413) -/

/-- TIMING_REPEAT (R413): a cycle is repeated and counted; one that differs again is TIMING on the engine. -/
def execTimingRepeat (x : CtxId) (e : Eng) (persists : Bool) (s : State) : Host.Outcome State Fault Refusal :=
  let s := (countCE s 8).modCore fun k => { k with repeats := k.repeats + 1 }
  .next (if !persists then s
    else if e = .seq then takeTrap s x ⟨0x32, 0, false, 0, 0⟩
    else if (s.run x e).any fun r => r.fault.isNone then entryFault s x e ⟨0x32, BitVec.ofNat 64 (engNum e)⟩ else s)

/-! ### Scans (R177, R178, R432) -/

/-- Logical core `c` holds no task, its queues are empty and it is not gated (R177). -/
def drained (s : State) (c : BitVec 9) : Bool :=
  heldCount s c == 0 && (!isMine s c || (coreIdle s && s.core.gate == .on))

/-- SCAN_DRAIN_END (R177): RUN begins. -/
def execScanDrainEnd (c : BitVec 9) (s : State) : Host.Outcome State Fault Refusal :=
  .next (match scanOf s c with
    | some k =>
      if k.state = 1 ∧ drained s c then
        setScanst (s.modPkg fun p => { p with scans := p.scans.map fun j =>
          if j.core = c then { j with state := 2, start := now s } else j }) k.phys 2
      else s
    | none => s)

/-- CORE.SCANSIG of physical core `p` is written. -/
def setScansig (s : State) (p : BitVec 9) (v : Word) : State :=
  if p = s.core.phys then s.modCore ({ · with scansig := v }) else setCtl s (0x3000018 + 0x100 * p.toNat) v

/-- The post of an ended RUN, once the removal of the core that failed is complete (R432). -/
def scanEndPost (s : State) : State :=
  match s.pkg.scanEnds.find? fun k => !s.pkg.changes.contains (.core k.core) with
  | none => s
  | some k => scanPost (s.modPkg fun p => { p with scanEnds := p.scanEnds.erase k }) k

/-- SCAN_RUN_END (R177, R178, R432): the patterns are applied; PASS returns the core, FAIL removes it, so that no task is placed on it
any more, and the post of DONE is due after SCANST, SCANSIG and, at FAIL, the rise of VER. PATDONE keeps the low 20 bits of NPAT
(entry 120). -/
def execScanRunEnd (c : BitVec 9) (sig : Word) (s : State) : Host.Outcome State Fault Refusal :=
  .next (match scanOf s c with
    | some k =>
      if scanOver s k then
        let st : Word := if sig = k.expsig then 3 else 4
        let s := s.modPkg fun p => { p with scans := p.scans.filter fun j => j.core != c }
        let s := setScansig (setScanst s k.phys (setFld st 32 (BitVec.ofNat 20 k.npat.toNat))) k.phys sig
        let s := if k.phys = s.core.phys then scanResetAll s else s
        (if st = 4 then changeMap (s.modPkg fun q => { q with removing := if q.removing.contains k.phys then q.removing else q.removing ++ [k.phys] })
          (.core c) else s).modPkg fun p => { p with scanEnds := p.scanEnds ++ [k] }
      else s
    | none => s)

end Sys2Proof.Machine
end

