-- ==== Sys2Proof/Machine/RegEv.lean ====
section
/-! DEFINITION. Register writes as events: control registers by an agent (R7, R8, R315, R316, R318, R321 to R323, R325, R333,
R338, R340, R425), and the context registers whose write does more than set fields (R35, R98, R205, R357). -/
namespace Sys2Proof.Machine

open Bits

/-- An agent writes `n` bytes at offset `o` of the control-register region: refused when its world may not reach the address
(R319, R391), otherwise performed at the block (R107). -/
def regWrite (s : State) (who : Agent) (o n : Nat) (v : Word) : State :=
  let a := ctlBase + o
  if !released s who then s
  else if !agentSecure s who && worldOf s a then refuseOut s who ⟨BitVec.ofNat 52 a, 3, .write v⟩
  else dwOther (ctlWrite s who o n v) a n false

/-- The size of a write at offset `o`: 8 bytes, or as its alignment allows. -/
def sizeAt (o : Nat) : Nat := if o % 8 = 0 then 8 else if o % 4 = 0 then 4 else if o % 2 = 0 then 2 else 1

/-- REGISTER_WRITE (R7, R8, R323). -/
def execRegisterWrite (who : Agent) (off : BitVec 28) (v : Word) (s : State) : Host.Outcome State Fault Refusal :=
  .next (regWrite s who off.toNat (sizeAt off.toNat) v)

/-- EXTCMD_WRITE (R315). -/
def execExtcmdWrite (who : Agent) (v : Word) (s : State) : Host.Outcome State Fault Refusal :=
  .next (regWrite s who 0x500240 8 v)

/-- ATTREQ_WRITE (R316). -/
def execAttreqWrite (who : Agent) (v : Word) (s : State) : Host.Outcome State Fault Refusal :=
  .next (regWrite s who 0x5002C0 8 v)

/-- OWN_WRITE (R321). -/
def execOwnWrite (who : Agent) (v : Word) (s : State) : Host.Outcome State Fault Refusal := .next (regWrite s who 0x100 8 v)

/-- HOFFER_WRITE (R322). -/
def execHofferWrite (who : Agent) (v : Word) (s : State) : Host.Outcome State Fault Refusal :=
  .next (regWrite s who 0x108 8 v)

/-- HOSTIRQ_WRITE (R325). -/
def execHostirqWrite (who : Agent) (v : Word) (s : State) : Host.Outcome State Fault Refusal :=
  .next (regWrite s who 0x300 8 v)

/-- QCB_WRITE (R206, R450): the consumer checks the control block afresh. -/
def execQcbWrite (who : Agent) (n : Fin 18) (i : Fin 16) (v : Word) (s : State) : Host.Outcome State Fault Refusal :=
  .next (regWrite s who (oQcb n.val i.val) 8 v)

/-- BLKW_WRITE (R318). -/
def execBlkwWrite (who : Agent) (off : BitVec 28) (v : Word) (s : State) : Host.Outcome State Fault Refusal :=
  .next (if 0x200 ≤ off.toNat ∧ off.toNat < 0x270 then regWrite s who (off.toNat / 8 * 8) 8 v else s)

/-- STOPREQ_GO (R333). -/
def execStopreqGo (who : Agent) (lid : BitVec 16) (s : State) : Host.Outcome State Fault Refusal :=
  .next (regWrite s who 0x800000 8 (0#47 ++ 1#1 ++ lid))

/-- STOPREQ_RESUME (R333): LID keeps its value. -/
def execStopreqResume (who : Agent) (s : State) : Host.Outcome State Fault Refusal :=
  .next (regWrite s who 0x800000 8 (0#46 ++ 2#2 ++ fld (ctl s 0x800000) 0 16))

/-- HCTL_CLR (R338): EN keeps its value. -/
def execHctlClr (who : Agent) (s : State) : Host.Outcome State Fault Refusal :=
  .next (regWrite s who 0x800020 8 (2 ||| (ctl s 0x800020 &&& 1)))

/-- TRIGGER_EVENT (R340). -/
def execTriggerEvent (sc : Fin 16) (ev : BitVec 3) (val : BitVec 16) (s : State) : Host.Outcome State Fault Refusal :=
  .next (trigger s sc ev val)

/-- PATCH_GO (R425): TWO and HEAD keep their values. -/
def execPatchGo (who : Agent) (s : State) : Host.Outcome State Fault Refusal :=
  .next (regWrite s who 0xF00220 8 (1 ||| (ctl s 0xF00220 &&& 6)))

/-- PATCH_DONE (R425, R426): the last acknowledgement. -/
def execPatchDone (s : State) : Host.Outcome State Fault Refusal := .next (patchFinish s)

/-! ### Context registers -/

/-- QBASE_WRITE (R35): the write of CTX.QBASE[e] is performed once the queue has drained; a base that R37 refuses, or a
queue still at work, leaves the register. -/
def execQbaseWrite (x : CtxId) (e : Eng) (v : Word) (s : State) : Host.Outcome State Fault Refusal :=
  .next (if e = .seq then s
    else match qbaseCheck s x v with
      | .error _ => s
      | .ok t => if (s.eq x e).quiet then (qbaseSet s x e v t).1 else s)

/-- TVEC_WRITE (R357). -/
def execTvecWrite (x : CtxId) (v : Word) (s : State) : Host.Outcome State Fault Refusal := .next (tvecSet s x v)

/-- NDMAN_WRITE (R98): a bank that is manual for another context leaves the register (R393). -/
def execNdmanWrite (x : CtxId) (v : Word) (s : State) : Host.Outcome State Fault Refusal :=
  .next (if (ndmanClash s x (fld v 0 4)).isSome || ndmanWaits s x (fld v 0 4) then s else ndmanSet s x (fld v 0 4))

/-- WM_DISARM_WRITE (R205): the channel is disarmed at once. -/
def execWmDisarmWrite (x : CtxId) (c : Fin 8) (s : State) : Host.Outcome State Fault Refusal :=
  .next (s.modCx x (·.disarm c.val))

end Sys2Proof.Machine
end

