-- ==== Sys2Proof/Machine/Dispatch.lean ====
section
/-! DEFINITION. The meaning of every instruction: one direct call for each constructor. -/
namespace Sys2Proof.Machine

/-- What an instruction does (R33, and "What each step holds"). -/
def exec (i : Instr) (s : State) : Host.Outcome State Fault Refusal :=
  match i with
  | .rdstr d => Sys2Proof.Machine.execRdstr d s
  | .add d a b => Sys2Proof.Machine.execAdd d a b s
  | .sub d a b => Sys2Proof.Machine.execSub d a b s
  | .and d a b => Sys2Proof.Machine.execAnd d a b s
  | .or d a b => Sys2Proof.Machine.execOr d a b s
  | .xor d a b => Sys2Proof.Machine.execXor d a b s
  | .andn d a b => Sys2Proof.Machine.execAndn d a b s
  | .sll d a b => Sys2Proof.Machine.execSll d a b s
  | .srl d a b => Sys2Proof.Machine.execSrl d a b s
  | .sra d a b => Sys2Proof.Machine.execSra d a b s
  | .ror d a b => Sys2Proof.Machine.execRor d a b s
  | .min d a b => Sys2Proof.Machine.execMin d a b s
  | .max d a b => Sys2Proof.Machine.execMax d a b s
  | .minu d a b => Sys2Proof.Machine.execMinu d a b s
  | .maxu d a b => Sys2Proof.Machine.execMaxu d a b s
  | .addw d a b => Sys2Proof.Machine.execAddw d a b s
  | .subw d a b => Sys2Proof.Machine.execSubw d a b s
  | .adds d a b => Sys2Proof.Machine.execAdds d a b s
  | .subs d a b => Sys2Proof.Machine.execSubs d a b s
  | .mul d a b => Sys2Proof.Machine.execMul d a b s
  | .mulh d a b => Sys2Proof.Machine.execMulh d a b s
  | .mulhu d a b => Sys2Proof.Machine.execMulhu d a b s
  | .mulhsu d a b => Sys2Proof.Machine.execMulhsu d a b s
  | .div d a b => Sys2Proof.Machine.execDiv d a b s
  | .divu d a b => Sys2Proof.Machine.execDivu d a b s
  | .rem d a b => Sys2Proof.Machine.execRem d a b s
  | .remu d a b => Sys2Proof.Machine.execRemu d a b s
  | .clz d a => Sys2Proof.Machine.execClz d a s
  | .ctz d a => Sys2Proof.Machine.execCtz d a s
  | .popc d a => Sys2Proof.Machine.execPopc d a s
  | .sextb d a => Sys2Proof.Machine.execSextb d a s
  | .sexth d a => Sys2Proof.Machine.execSexth d a s
  | .sextw d a => Sys2Proof.Machine.execSextw d a s
  | .zextw d a => Sys2Proof.Machine.execZextw d a s
  | .bswap d a => Sys2Proof.Machine.execBswap d a s
  | .pand d a b => Sys2Proof.Machine.execPand d a b s
  | .por d a b => Sys2Proof.Machine.execPor d a b s
  | .pxor d a b => Sys2Proof.Machine.execPxor d a b s
  | .pandn d a b => Sys2Proof.Machine.execPandn d a b s
  | .ptos d a => Sys2Proof.Machine.execPtos d a s
  | .stop d a => Sys2Proof.Machine.execStop d a s
  | .prd d => Sys2Proof.Machine.execPrd d s
  | .pwr a => Sys2Proof.Machine.execPwr a s
  | .sel d a b p => Sys2Proof.Machine.execSel d a b p s
  | .addi d a im => Sys2Proof.Machine.execAddi d a im s
  | .andi d a im => Sys2Proof.Machine.execAndi d a im s
  | .ori d a im => Sys2Proof.Machine.execOri d a im s
  | .xori d a im => Sys2Proof.Machine.execXori d a im s
  | .slli d a im => Sys2Proof.Machine.execSlli d a im s
  | .srli d a im => Sys2Proof.Machine.execSrli d a im s
  | .srai d a im => Sys2Proof.Machine.execSrai d a im s
  | .muli d a im => Sys2Proof.Machine.execMuli d a im s
  | .cmp p n a b c f => Sys2Proof.Machine.execCmp p n a b c f s
  | .cmpi p n a im c f => Sys2Proof.Machine.execCmpi p n a im c f s
  | .cmpw p n a b c f => Sys2Proof.Machine.execCmpw p n a b c f s
  | .cmpwi p n a im c f => Sys2Proof.Machine.execCmpwi p n a im c f s
  | .br p n o => Sys2Proof.Machine.execBr p n o s
  | .call p n o => Sys2Proof.Machine.execCall p n o s
  | .jmp a => Sys2Proof.Machine.execJmp a s
  | .jalr d a => Sys2Proof.Machine.execJalr d a s
  | .loop l a im => Sys2Proof.Machine.execLoop l a im s
  | .ldd d b o => Sys2Proof.Machine.execLdd d b o s
  | .std sf b o => Sys2Proof.Machine.execStd sf b o s
  | .ldw d b o => Sys2Proof.Machine.execLdw d b o s
  | .stw sf b o => Sys2Proof.Machine.execStw sf b o s
  | .vldb d a b => Sys2Proof.Machine.execVldb d a b s
  | .vldh d a b => Sys2Proof.Machine.execVldh d a b s
  | .vldw d a b => Sys2Proof.Machine.execVldw d a b s
  | .vldd d a b => Sys2Proof.Machine.execVldd d a b s
  | .vstb sf a b => Sys2Proof.Machine.execVstb sf a b s
  | .vsth sf a b => Sys2Proof.Machine.execVsth sf a b s
  | .vstw sf a b => Sys2Proof.Machine.execVstw sf a b s
  | .vstd sf a b => Sys2Proof.Machine.execVstd sf a b s
  | .aswp d a b w => Sys2Proof.Machine.execAswp d a b w s
  | .aadd d a b w => Sys2Proof.Machine.execAadd d a b w s
  | .aand d a b w => Sys2Proof.Machine.execAand d a b w s
  | .aor d a b w => Sys2Proof.Machine.execAor d a b w s
  | .axor d a b w => Sys2Proof.Machine.execAxor d a b w s
  | .amax d a b w => Sys2Proof.Machine.execAmax d a b w s
  | .amin d a b w => Sys2Proof.Machine.execAmin d a b w s
  | .amaxu d a b w => Sys2Proof.Machine.execAmaxu d a b w s
  | .aminu d a b w => Sys2Proof.Machine.execAminu d a b w s
  | .acas d a b w => Sys2Proof.Machine.execAcas d a b w s
  | .ldbx d a b => Sys2Proof.Machine.execLdbx d a b s
  | .ldbux d a b => Sys2Proof.Machine.execLdbux d a b s
  | .ldhx d a b => Sys2Proof.Machine.execLdhx d a b s
  | .ldhux d a b => Sys2Proof.Machine.execLdhux d a b s
  | .ldwx d a b => Sys2Proof.Machine.execLdwx d a b s
  | .ldwux d a b => Sys2Proof.Machine.execLdwux d a b s
  | .stbx sf a b => Sys2Proof.Machine.execStbx sf a b s
  | .sthx sf a b => Sys2Proof.Machine.execSthx sf a b s
  | .stwx sf a b => Sys2Proof.Machine.execStwx sf a b s
  | .mark sf => Sys2Proof.Machine.execMark sf s
  | .tkwait e => Sys2Proof.Machine.execTkwait e s
  | .tksend e => Sys2Proof.Machine.execTksend e s
  | .tkcnt d a b => Sys2Proof.Machine.execTkcnt d a b s
  | .scpost a b => Sys2Proof.Machine.execScpost a b s
  | .scwait a b => Sys2Proof.Machine.execScwait a b s
  | .sctest p a b => Sys2Proof.Machine.execSctest p a b s
  | .clink a b => Sys2Proof.Machine.execClink a b s
  | .ckick a => Sys2Proof.Machine.execCkick a s
  | .wmwait a c => Sys2Proof.Machine.execWmwait a c s
  | .wmdis c => Sys2Proof.Machine.execWmdis c s
  | .wset d a => Sys2Proof.Machine.execWset d a s
  | .wdis a => Sys2Proof.Machine.execWdis a s
  | .wstat d a => Sys2Proof.Machine.execWstat d a s
  | .claim d => Sys2Proof.Machine.execClaim d s
  | .claimp d => Sys2Proof.Machine.execClaimp d s
  | .rels a => Sys2Proof.Machine.execRels a s
  | .slotst d a => Sys2Proof.Machine.execSlotst d a s
  | .abank d => Sys2Proof.Machine.execAbank d s
  | .afree a => Sys2Proof.Machine.execAfree a s
  | .aband a b => Sys2Proof.Machine.execAband a b s
  | .arelb a => Sys2Proof.Machine.execArelb a s
  | .abst d a => Sys2Proof.Machine.execAbst d a s
  | .lend b => Sys2Proof.Machine.execLend b s
  | .retBank b => Sys2Proof.Machine.execRetBank b s
  | .cbld a b => Sys2Proof.Machine.execCbld a b s
  | .tagget d t => Sys2Proof.Machine.execTagget d t s
  | .tagset t b => Sys2Proof.Machine.execTagset t b s
  | .tscget d t => Sys2Proof.Machine.execTscget d t s
  | .tscset t b => Sys2Proof.Machine.execTscset t b s
  | .estim a => Sys2Proof.Machine.execEstim a s
  | .ackmap d => Sys2Proof.Machine.execAckmap d s
  | .crr d a => Sys2Proof.Machine.execCrr d a s
  | .crw a b => Sys2Proof.Machine.execCrw a b s
  | .trap c => Sys2Proof.Machine.execTrap c s
  | .icinv a => Sys2Proof.Machine.execIcinv a s
  | .tlbi a b => Sys2Proof.Machine.execTlbi a b s
  | .tlbia b => Sys2Proof.Machine.execTlbia b s
  | .drd d a => Sys2Proof.Machine.execDrd d a s
  | .dwr a b => Sys2Proof.Machine.execDwr a b s
  | .scango a b => Sys2Proof.Machine.execScango a b s
  | .scanab a => Sys2Proof.Machine.execScanab a s
  | .scanst d a => Sys2Proof.Machine.execScanst d a s
  | .act a => Sys2Proof.Machine.execAct a s
  | .pre a => Sys2Proof.Machine.execPre a s
  | .ref a => Sys2Proof.Machine.execRef a s
  | .li d imm => Sys2Proof.Machine.execLi d imm s
  | .addli d a imm => Sys2Proof.Machine.execAddli d a imm s
  | .liu d a imm => Sys2Proof.Machine.execLiu d a imm s
  | .cpy sync a b c t cb => Sys2Proof.Machine.execCpy sync a b c t cb s
  | .cpy2d sync a b c t cb => Sys2Proof.Machine.execCpy2d sync a b c t cb s
  | .cps sync a b c t cb => Sys2Proof.Machine.execCps sync a b c t cb s
  | .adrain sync a b c t cb => Sys2Proof.Machine.execAdrain sync a b c t cb s
  | .fill sync a b c t cb => Sys2Proof.Machine.execFill sync a b c t cb s
  | .cmc sync a b c t cb => Sys2Proof.Machine.execCmc sync a b c t cb s
  | .cpost sync a b c t cb => Sys2Proof.Machine.execCpost sync a b c t cb s
  | .cwait sync a b c t cb => Sys2Proof.Machine.execCwait sync a b c t cb s
  | .gexp sync a b c t cb => Sys2Proof.Machine.execGexp sync a b c t cb s
  | .gexpv sync a b c t cb => Sys2Proof.Machine.execGexpv sync a b c t cb s
  | .gath sync a b c t cb => Sys2Proof.Machine.execGath sync a b c t cb s
  | .gscat sync a b c t cb => Sys2Proof.Machine.execGscat sync a b c t cb s
  | .lsend sync a b c t cb => Sys2Proof.Machine.execLsend sync a b c t cb s
  | .colar sync a b c t cb => Sys2Proof.Machine.execColar sync a b c t cb s
  | .colrs sync a b c t cb => Sys2Proof.Machine.execColrs sync a b c t cb s
  | .colag sync a b c t cb => Sys2Proof.Machine.execColag sync a b c t cb s
  | .mgo sync a t cb => Sys2Proof.Machine.execMgo sync a t cb s
  | .aread sync a b c t cb => Sys2Proof.Machine.execAread sync a b c t cb s
  | .vrun sync a b c t cb => Sys2Proof.Machine.execVrun sync a b c t cb s
  | .vstop sync a b c t cb => Sys2Proof.Machine.execVstop sync a b c t cb s
  | .vbase sync a b c t cb => Sys2Proof.Machine.execVbase sync a b c t cb s
  | .vwait sync a b c t cb => Sys2Proof.Machine.execVwait sync a b c t cb s
  | .vtld sync a b c t cb => Sys2Proof.Machine.execVtld sync a b c t cb s
  | .oshot sync a b c t cb => Sys2Proof.Machine.execOshot sync a b c t cb s
  | .omask sync a b c t cb => Sys2Proof.Machine.execOmask sync a b c t cb s
  | .ocal sync a b c t cb => Sys2Proof.Machine.execOcal sync a b c t cb s
  | .vmov d a m => Sys2Proof.Machine.execVmov d a m s
  | .vspl d m f => Sys2Proof.Machine.execVspl d m f s
  | .vzero d m f => Sys2Proof.Machine.execVzero d m f s
  | .vidx d m r sf => Sys2Proof.Machine.execVidx d m r sf s
  | .vsel d a b m => Sys2Proof.Machine.execVsel d a b m s
  | .vadd d a b m f r sf => Sys2Proof.Machine.execVadd d a b m f r sf s
  | .vsub d a b m f r sf => Sys2Proof.Machine.execVsub d a b m f r sf s
  | .vmul d a b m f r sf => Sys2Proof.Machine.execVmul d a b m f r sf s
  | .vdiv d a b m f r sf => Sys2Proof.Machine.execVdiv d a b m f r sf s
  | .vfma d a b m f r sf => Sys2Proof.Machine.execVfma d a b m f r sf s
  | .vfnma d a b m f r sf => Sys2Proof.Machine.execVfnma d a b m f r sf s
  | .vmin d a b m f sf => Sys2Proof.Machine.execVmin d a b m f sf s
  | .vmax d a b m f sf => Sys2Proof.Machine.execVmax d a b m f sf s
  | .vabs d a m f => Sys2Proof.Machine.execVabs d a m f s
  | .vneg d a m f => Sys2Proof.Machine.execVneg d a m f s
  | .vsqrt d a m f r sf => Sys2Proof.Machine.execVsqrt d a m f r sf s
  | .vrsq d a m f r sf => Sys2Proof.Machine.execVrsq d a m f r sf s
  | .vrcp d a m f r sf => Sys2Proof.Machine.execVrcp d a m f r sf s
  | .vexp2 d a m f r sf => Sys2Proof.Machine.execVexp2 d a m f r sf s
  | .vlog2 d a m f r sf => Sys2Proof.Machine.execVlog2 d a m f r sf s
  | .vrint d a m f r => Sys2Proof.Machine.execVrint d a m f r s
  | .vfloor d a m f => Sys2Proof.Machine.execVfloor d a m f s
  | .vrelu d a m f => Sys2Proof.Machine.execVrelu d a m f s
  | .vcmpeq d a b m f => Sys2Proof.Machine.execVcmpeq d a b m f s
  | .vcmplt d a b m f => Sys2Proof.Machine.execVcmplt d a b m f s
  | .vcmple d a b m f => Sys2Proof.Machine.execVcmple d a b m f s
  | .viadd d a b m f sf => Sys2Proof.Machine.execViadd d a b m f sf s
  | .visub d a b m f sf => Sys2Proof.Machine.execVisub d a b m f sf s
  | .vimul d a b m f sf => Sys2Proof.Machine.execVimul d a b m f sf s
  | .vimin d a b m f => Sys2Proof.Machine.execVimin d a b m f s
  | .vimax d a b m f => Sys2Proof.Machine.execVimax d a b m f s
  | .viand d a b m f => Sys2Proof.Machine.execViand d a b m f s
  | .vior d a b m f => Sys2Proof.Machine.execVior d a b m f s
  | .vixor d a b m f => Sys2Proof.Machine.execVixor d a b m f s
  | .visll d a b m f => Sys2Proof.Machine.execVisll d a b m f s
  | .visrl d a b m f => Sys2Proof.Machine.execVisrl d a b m f s
  | .visra d a b m f => Sys2Proof.Machine.execVisra d a b m f s
  | .vidot d a b m f sf => Sys2Proof.Machine.execVidot d a b m f sf s
  | .vicmpeq d a b m f => Sys2Proof.Machine.execVicmpeq d a b m f s
  | .vicmplt d a b m f => Sys2Proof.Machine.execVicmplt d a b m f s
  | .vcadd d a b m f r sf => Sys2Proof.Machine.execVcadd d a b m f r sf s
  | .vcsub d a b m f r sf => Sys2Proof.Machine.execVcsub d a b m f r sf s
  | .vcmul d a b m f r sf => Sys2Proof.Machine.execVcmul d a b m f r sf s
  | .vcmulj d a b m f r sf => Sys2Proof.Machine.execVcmulj d a b m f r sf s
  | .vcfma d a b m f r sf => Sys2Proof.Machine.execVcfma d a b m f r sf s
  | .vconj d a m f => Sys2Proof.Machine.execVconj d a m f s
  | .vcabs2 d a m f r sf => Sys2Proof.Machine.execVcabs2 d a m f r sf s
  | .vcrot d a k m f => Sys2Proof.Machine.execVcrot d a k m f s
  | .vcvt d a p m f r sf => Sys2Proof.Machine.execVcvt d a p m f r sf s
  | .vqnt d a p m f r => Sys2Proof.Machine.execVqnt d a p m f r s
  | .vcvtcb d a p c m r sf => Sys2Proof.Machine.execVcvtcb d a p c m r sf s
  | .vcpk d a b m f => Sys2Proof.Machine.execVcpk d a b m f s
  | .vcre d a m f r sf => Sys2Proof.Machine.execVcre d a m f r sf s
  | .vcim d a m f r sf => Sys2Proof.Machine.execVcim d a m f r sf s
  | .vrsum d a m f sf => Sys2Proof.Machine.execVrsum d a m f sf s
  | .vrmax d a m f sf => Sys2Proof.Machine.execVrmax d a m f sf s
  | .vrmin d a m f sf => Sys2Proof.Machine.execVrmin d a m f sf s
  | .vramax d a m f sf => Sys2Proof.Machine.execVramax d a m f sf s
  | .vrdot d a b m f sf => Sys2Proof.Machine.execVrdot d a b m f sf s
  | .vperm d a b m => Sys2Proof.Machine.execVperm d a b m s
  | .vrot d a m k => Sys2Proof.Machine.execVrot d a m k s
  | .vzipl d a b m => Sys2Proof.Machine.execVzipl d a b m s
  | .vziph d a b m => Sys2Proof.Machine.execVziph d a b m s
  | .vuzpe d a b m => Sys2Proof.Machine.execVuzpe d a b m s
  | .vuzpo d a b m => Sys2Proof.Machine.execVuzpo d a b m s
  | .vbcst d a m k => Sys2Proof.Machine.execVbcst d a m k s
  | .mand d a b m => Sys2Proof.Machine.execMand d a b m s
  | .mor d a b m => Sys2Proof.Machine.execMor d a b m s
  | .mxor d a b m => Sys2Proof.Machine.execMxor d a b m s
  | .mandn d a b m => Sys2Proof.Machine.execMandn d a b m s
  | .mnot d a m => Sys2Proof.Machine.execMnot d a m s
  | .mfirst d m n => Sys2Proof.Machine.execMfirst d m n s
  | .vmpop d a m => Sys2Proof.Machine.execVmpop d a m s
  | .mfromv d a m => Sys2Proof.Machine.execMfromv d a m s
  | .vld d im c o m => Sys2Proof.Machine.execVld d im c o m s
  | .vst sf im c o m => Sys2Proof.Machine.execVst sf im c o m s
  | .vldg d c x m => Sys2Proof.Machine.execVldg d c x m s
  | .vsct sf c x m => Sys2Proof.Machine.execVsct sf c x m s
  | .vldbs d im c o => Sys2Proof.Machine.execVldbs d im c o s
  | .vstbs sf im c o m => Sys2Proof.Machine.execVstbs sf im c o m s
  | .vtwid d a l m f v => Sys2Proof.Machine.execVtwid d a l m f v s
  | .vdefer p a b m n => Sys2Proof.Machine.execVdefer p a b m n s
  | .vloop l f c => Sys2Proof.Machine.execVloop l f c s
  | .vend m => Sys2Proof.Machine.execVend m s
  | .vrunDrain sync a b c t cb => Sys2Proof.Machine.execVrunDrain sync a b c t cb s
  | .vbaseDq sync a b c t cb => Sys2Proof.Machine.execVbaseDq sync a b c t cb s
  | .nop => Sys2Proof.Machine.execNop s
  | .cbar => Sys2Proof.Machine.execCbar s
  | .halt => Sys2Proof.Machine.execHalt s
  | .yield => Sys2Proof.Machine.execYield s
  | .hbeat => Sys2Proof.Machine.execHbeat s
  | .tret => Sys2Proof.Machine.execTret s
  | .icinva => Sys2Proof.Machine.execIcinva s
  | .tlbiall => Sys2Proof.Machine.execTlbiall s
  | .vnop => Sys2Proof.Machine.execVnop s
  | .entryStart x e => Sys2Proof.Machine.execEntryStart x e s
  | .entryCompletion x e => Sys2Proof.Machine.execEntryCompletion x e s
  | .heldLinkRun x => Sys2Proof.Machine.execHeldLinkRun x s
  | .forcedPointStart x e => Sys2Proof.Machine.execForcedPointStart x e s
  | .loadLanding x id => Sys2Proof.Machine.execLoadLanding x id s
  | .accessPerformAtHome who => Sys2Proof.Machine.execAccessPerformAtHome who s
  | .contractWriteRelease k => Sys2Proof.Machine.execContractWriteRelease k s
  | .requestRetry x req => Sys2Proof.Machine.execRequestRetry x req s
  | .endpointRequest ro r => Sys2Proof.Machine.execEndpointRequest ro r s
  | .peerRequest l r => Sys2Proof.Machine.execPeerRequest l r s
  | .flitReceive l retries => Sys2Proof.Machine.execFlitReceive l retries s
  | .linkDown l => Sys2Proof.Machine.execLinkDown l s
  | .launchAccept => Sys2Proof.Machine.execLaunchAccept s
  | .launchCompletion lid => Sys2Proof.Machine.execLaunchCompletion lid s
  | .counterAccessReport task => Sys2Proof.Machine.execCounterAccessReport task s
  | .untrackedCounterPoll task => Sys2Proof.Machine.execUntrackedCounterPoll task s
  | .taskPlacement => Sys2Proof.Machine.execTaskPlacement s
  | .quantumExpiry x => Sys2Proof.Machine.execQuantumExpiry x s
  | .stageReassignment lid => Sys2Proof.Machine.execStageReassignment lid s
  | .saveComplete x => Sys2Proof.Machine.execSaveComplete x s
  | .powerWindow milliwatt => Sys2Proof.Machine.execPowerWindow milliwatt s
  | .gatingStart => Sys2Proof.Machine.execGatingStart s
  | .gatingCommit => Sys2Proof.Machine.execGatingCommit s
  | .wakeMessage => Sys2Proof.Machine.execWakeMessage s
  | .wakingDone => Sys2Proof.Machine.execWakingDone s
  | .watchFire tbl idx => Sys2Proof.Machine.execWatchFire tbl idx s
  | .budgetPeriodEnd tbl idx => Sys2Proof.Machine.execBudgetPeriodEnd tbl idx s
  | .waggleMessage => Sys2Proof.Machine.execWaggleMessage s
  | .consumerTakePacket n im => Sys2Proof.Machine.execConsumerTakePacket n im s
  | .hubCopy n => Sys2Proof.Machine.execHubCopy n s
  | .hubFill n => Sys2Proof.Machine.execHubFill n s
  | .hubCopy2d n => Sys2Proof.Machine.execHubCopy2d n s
  | .hubPacketDone n => Sys2Proof.Machine.execHubPacketDone n s
  | .submit => Sys2Proof.Machine.execSubmit s
  | .shotPacket n => Sys2Proof.Machine.execShotPacket n s
  | .shotEnd n => Sys2Proof.Machine.execShotEnd n s
  | .maskPacket n => Sys2Proof.Machine.execMaskPacket n s
  | .maskWritten n => Sys2Proof.Machine.execMaskWritten n s
  | .calPacket n => Sys2Proof.Machine.execCalPacket n s
  | .calWritten n => Sys2Proof.Machine.execCalWritten n s
  | .measurementStart n => Sys2Proof.Machine.execMeasurementStart n s
  | .measurementEnd n profile => Sys2Proof.Machine.execMeasurementEnd n profile s
  | .calAgeExpiry n => Sys2Proof.Machine.execCalAgeExpiry n s
  | .calTemperatureMove n t => Sys2Proof.Machine.execCalTemperatureMove n t s
  | .engineStop x e => Sys2Proof.Machine.execEngineStop x e s
  | .trapEntry x => Sys2Proof.Machine.execTrapEntry x s
  | .boundExpiry x e => Sys2Proof.Machine.execBoundExpiry x e s
  | .deadlockDetection x => Sys2Proof.Machine.execDeadlockDetection x s
  | .hangWatchdogExpiry x => Sys2Proof.Machine.execHangWatchdogExpiry x s
  | .refreshIntervalExpiry b => Sys2Proof.Machine.execRefreshIntervalExpiry b s
  | .ackDeadlineExpiry x => Sys2Proof.Machine.execAckDeadlineExpiry x s
  | .mapChange c => Sys2Proof.Machine.execMapChange c s
  | .elevatorRetirement k => Sys2Proof.Machine.execElevatorRetirement k s
  | .timingRepeat x e persists => Sys2Proof.Machine.execTimingRepeat x e persists s
  | .timingWindow => Sys2Proof.Machine.execTimingWindow s
  | .patrolScrub pa err => Sys2Proof.Machine.execPatrolScrub pa err s
  | .powerOn => Sys2Proof.Machine.execPowerOn s
  | .bootCoreDecision c doneA doneB => Sys2Proof.Machine.execBootCoreDecision c doneA doneB s
  | .extcmdWrite who v => Sys2Proof.Machine.execExtcmdWrite who v s
  | .attreqWrite who v => Sys2Proof.Machine.execAttreqWrite who v s
  | .ownWrite who v => Sys2Proof.Machine.execOwnWrite who v s
  | .hofferWrite who v => Sys2Proof.Machine.execHofferWrite who v s
  | .hostirqWrite who v => Sys2Proof.Machine.execHostirqWrite who v s
  | .qcbWrite who n im v => Sys2Proof.Machine.execQcbWrite who n im v s
  | .blkwWrite who off v => Sys2Proof.Machine.execBlkwWrite who off v s
  | .blockWorldTakeEffect b => Sys2Proof.Machine.execBlockWorldTakeEffect b s
  | .qbaseWrite x e v => Sys2Proof.Machine.execQbaseWrite x e v s
  | .tvecWrite x v => Sys2Proof.Machine.execTvecWrite x v s
  | .ndmanWrite x v => Sys2Proof.Machine.execNdmanWrite x v s
  | .wmDisarmWrite x c => Sys2Proof.Machine.execWmDisarmWrite x c s
  | .registerWrite who off v => Sys2Proof.Machine.execRegisterWrite who off v s
  | .stopreqGo who lid => Sys2Proof.Machine.execStopreqGo who lid s
  | .stopreqResume who => Sys2Proof.Machine.execStopreqResume who s
  | .hctlClr who => Sys2Proof.Machine.execHctlClr who s
  | .triggerEvent sc ev val => Sys2Proof.Machine.execTriggerEvent sc ev val s
  | .patchGo who => Sys2Proof.Machine.execPatchGo who s
  | .patchDone => Sys2Proof.Machine.execPatchDone s
  | .scanDrainEnd c => Sys2Proof.Machine.execScanDrainEnd c s
  | .scanRunEnd c sig => Sys2Proof.Machine.execScanRunEnd c sig s
  | .rootPortDeviceRequest im va lsize op => Sys2Proof.Machine.execRootPortDeviceRequest im va lsize op s
  | .linkTrained l => Sys2Proof.Machine.execLinkTrained l s
  | .coreStopWithoutSave c => Sys2Proof.Machine.execCoreStopWithoutSave c s
  | .hbmStackFailure g => Sys2Proof.Machine.execHbmStackFailure g s
  | .cbarRendezvous lid => Sys2Proof.Machine.execCbarRendezvous lid s
  | .bankFreeingDone bank => Sys2Proof.Machine.execBankFreeingDone bank s
  | .collChunkReceive x chunk => Sys2Proof.Machine.execCollChunkReceive x chunk s
  | .collAbortFlit x l => Sys2Proof.Machine.execCollAbortFlit x l s

end Sys2Proof.Machine
end

