-- ==== Sys2Proof/Machine/Flaw.lean ====
section
/-! DEFINITION. Which stores of a context an instruction reads (R153 to R181), and the uncorrectable error that it meets there
(R411; entry 95). -/
namespace Sys2Proof.Machine

open Bits

/-- The scalar registers that an instruction reads. -/
def srcRegs : Instr → List (BitVec 6)
  | .add _ a b | .sub _ a b | .and _ a b | .or _ a b | .xor _ a b | .andn _ a b | .sll _ a b | .srl _ a b
  | .sra _ a b | .ror _ a b | .min _ a b | .max _ a b | .minu _ a b | .maxu _ a b | .addw _ a b | .subw _ a b
  | .adds _ a b | .subs _ a b | .mul _ a b | .mulh _ a b | .mulhu _ a b | .mulhsu _ a b | .div _ a b | .divu _ a b
  | .rem _ a b | .remu _ a b | .ldbx _ a b | .ldbux _ a b | .ldhx _ a b | .ldhux _ a b | .ldwx _ a b | .ldwux _ a b
  | .vldb _ a b | .vldh _ a b | .vldw _ a b | .vldd _ a b => [a, b]
  | .aswp _ a b _ | .aadd _ a b _ | .aand _ a b _ | .aor _ a b _ | .axor _ a b _ | .amax _ a b _ | .amin _ a b _
  | .amaxu _ a b _ | .aminu _ a b _ => [a, b]
  | .acas d a b _ => [d, a, b]
  | .clz _ a | .ctz _ a | .popc _ a | .sextb _ a | .sexth _ a | .sextw _ a | .zextw _ a | .bswap _ a | .jalr _ a
  | .wset _ a | .wstat _ a | .slotst _ a | .abst _ a | .crr _ a | .drd _ a | .scanst _ a => [a]
  | .stbx r a b | .sthx r a b | .stwx r a b | .vstb r a b | .vsth r a b | .vstw r a b | .vstd r a b => [r, a, b]
  | .std r b _ | .stw r b _ => [r, b]
  | .ldd _ b _ | .ldw _ b _ => [b]
  | .scpost a b | .scwait a b | .clink a b | .aband a b | .cbld a b | .crw a b | .tlbi a b | .dwr a b | .scango a b => [a, b]
  | .pwr a | .jmp a | .ckick a | .wdis a | .rels a | .afree a | .arelb a | .estim a | .icinv a | .tlbia a | .scanab a
  | .act a | .pre a | .ref a => [a]
  | .addi _ a _ | .andi _ a _ | .ori _ a _ | .xori _ a _ | .muli _ a _ => [a]
  | .slli _ a _ | .srli _ a _ | .srai _ a _ => [a]
  | .sel _ a b _ => [a, b]
  | .stop _ a => [a]
  | .cmp _ _ a b _ _ | .cmpw _ _ a b _ _ => [a, b]
  | .cmpi _ _ a _ _ _ | .cmpwi _ _ a _ _ _ => [a]
  | .loop _ a _ => [a]
  | .sctest _ a b => [a, b]
  | .wmwait a _ => [a]
  | .tagset _ b | .tscset _ b => [b]
  | .addli _ a _ | .liu _ a _ => [a]
  | .cpy _ a b c _ _ | .cpy2d _ a b c _ _ | .cps _ a b c _ _ | .adrain _ a b c _ _ | .fill _ a b c _ _
  | .cmc _ a b c _ _ | .cpost _ a b c _ _ | .cwait _ a b c _ _ | .gexp _ a b c _ _ | .gexpv _ a b c _ _
  | .gath _ a b c _ _ | .gscat _ a b c _ _ | .lsend _ a b c _ _ | .colar _ a b c _ _ | .colrs _ a b c _ _
  | .colag _ a b c _ _ | .aread _ a b c _ _ | .vrun _ a b c _ _ | .vstop _ a b c _ _ | .vbase _ a b c _ _
  | .vwait _ a b c _ _ | .vtld _ a b c _ _ | .oshot _ a b c _ _ | .omask _ a b c _ _ | .ocal _ a b c _ _ => [a, b, c]
  | .mgo _ a _ _ => [a]
  | _ => []

/-- An instruction reads predicate registers. -/
def readsPreds : Instr → Bool
  | .pand _ a b | .por _ a b | .pxor _ a b | .pandn _ a b => a != 0 || b != 0
  | .ptos _ a => a != 0
  | .sel _ _ _ p => p != 0
  | .br p _ _ | .call p _ _ => p != 0
  | .cmp p _ _ _ _ f | .cmpi p _ _ _ _ f | .cmpw p _ _ _ _ f | .cmpwi p _ _ _ _ f => p != 0 && f != 0
  | .prd _ => true
  | _ => false

/-- The queue whose registers an instruction uses: that of the entry it appends. -/
def queueOf : Instr → Option Eng
  | .clink _ _ | .cpy _ _ _ _ _ _ | .cpy2d _ _ _ _ _ _ | .cps _ _ _ _ _ _ | .adrain _ _ _ _ _ _ | .fill _ _ _ _ _ _
  | .cmc _ _ _ _ _ _ | .cpost _ _ _ _ _ _ | .cwait _ _ _ _ _ _ => some .cpe
  | .gexp _ _ _ _ _ _ | .gexpv _ _ _ _ _ _ | .gath _ _ _ _ _ _ | .gscat _ _ _ _ _ _ => some .gxe
  | .lsend _ _ _ _ _ _ | .colar _ _ _ _ _ _ | .colrs _ _ _ _ _ _ | .colag _ _ _ _ _ _ => some .clp
  | .mgo _ _ _ _ | .aread _ _ _ _ _ _ | .cbld _ _ => some .mxe
  | .vrun _ _ _ _ _ _ | .vstop _ _ _ _ _ _ | .vbase _ _ _ _ _ _ | .vwait _ _ _ _ _ _ | .vtld _ _ _ _ _ _ => some .vxe
  | .oshot _ _ _ _ _ _ | .omask _ _ _ _ _ _ | .ocal _ _ _ _ _ _ => some .opp
  | _ => none

/-- A CRR reads a register of the queue of engine `e` (R171): QBASE to QLAST. -/
def crQueue (v : Word) (e : Eng) : Bool := [0x010, 0x018, 0x020, 0x028, 0x030].any fun k => v == BitVec.ofNat 64 (k + engNum e)

/-- Instruction `i`, which context `x` issues, reads a store of `x` (R411). -/
def readsStore (s : State) (x : CtxId) (i : Instr) (f : Store) : Bool :=
  match f with
  | .scalar y r => y == x && r != 0 && (srcRegs i).contains r
  | .preds y => y == x && readsPreds i
  | .vtag y v => y == x && (match i with | .tagget _ t => t == 0#1 ++ v | _ => false)
  | .vscale y v => y == x && (match i with | .tscget _ t => t == 0#1 ++ v | _ => false)
  | .tokens y => y == x && (match i with | .tkwait _ | .tksend _ | .tkcnt _ _ _ => true | _ => false)
  | .queue y e => y == x && (queueOf i == some e || (match i with | .crr _ a => crQueue ((s.cx x).reg a) e | _ => false))
  | _ => false

/-- The instruction that context `x` issues meets the error that strikes now: the value read is not used (R411). -/
def meets (s : State) (x : CtxId) (i : Instr) : Option Store := s.core.flaw.filter (readsStore s x i)

end Sys2Proof.Machine
end

