-- ==== Sys2Proof/Machine/Issue.lean ====
section
/-! DEFINITION. What a step does around the meaning of an instruction: time (R130, R172, R338), the step that the agenda
names (entry 2), the choice of a context (R33), and the fetch (R51, R54, R55, R135, R371, R389, R409). -/
namespace Sys2Proof.Machine

open Bits

/-! ### Which context issues (R33, R54) -/

/-- The context may issue: it has a task, runs, is not stopped (R333), and has no trap to take; under a raised line only a handler
runs (R297, R353, R358). -/
def runnable (s : State) (x : CtxId) : Bool :=
  let c := s.cx x
  s.core.gate == .on && c.task.isSome && !c.halted && !c.dying && c.saving.isNone && c.trap.isNone && !lineStops s x

/-- The context may issue, and its instruction has not been found unable to in this cycle (R33). -/
def able (s : State) (x : CtxId) : Bool := runnable s x && !s.core.tried.contains x

/-- The context that issues next (R33): the holder of the exposed slot, else the rotation after the context that issued
last. -/
def chooseCtx (s : State) : Option CtxId :=
  match s.core.exp.filter (able s) with
  | some x => some x
  | none => ((List.range 4).map fun i => Fin.ofNat 4 (s.core.last.val + 1 + i)).find? (able s)

/-! ### Time and profiling (R130, R172, R296, R336 to R338) -/

/-- The class of a queue head (R336): 0 ISSUE, 1 BUSY, 2 EMPTY, 3 + f WAIT f. An entry that a full window holds is counted as WAIT 15
while a retained entry executes (R417), and so is a started entry that has faulted or that a halt line has stopped. -/
def headClass (s : State) (x : CtxId) (e : Eng) : Nat :=
  let c := s.cx x
  match e with
  | .seq =>
    if c.task.isNone then 2
    else if chooseCtx s = some x then (match c.wait with | none => 0 | some f => 3 + f)
    else if runnable s x then (match c.wait with | none => 1 | some f => 3 + f)
    else 18
  | _ => match s.run x e with
    | some r =>
      let next := (s.eq x e).window.length == 16 && (match headOf s x e with | .entry _ d _ => !bit (entryHdr d) 28 | _ => false)
      if r.fault.isSome || (s.eq x e).stop || next then 18
      else match waitFlag s x e r with | some f => 3 + f | none => 0
    | none =>
      match headOf s x e with
      | .empty => 2
      | .held => 18
      | _ => match headFlag (engReady e) s x e with | none => 1 | some f => 3 + f

/-- HCNT[p,e,k] of the core counts `n` cycles in the class of each head (R338). -/
def profile (s : State) (n : Word) : State :=
  if bit (ctl s 0x800020) 0 && (s.core.gate == .on || s.core.gate == .waking) then
    (ctxs.flatMap fun x => (Eng.seq :: engines).map fun e => (engNum e, headClass s x e)).foldl (fun s k =>
      let o := 0xC00000 + 0x1000 * s.core.phys.toNat + 0x100 * k.1 + 8 * k.2
      setCtl s o (ctl s o + n)) s
  else s

/-- Time passes before a step (entry 5): the stroke count, the cycle count, the idle count of R296, the profile. The further
choices of one cycle take no time (R33). The cycles of pointers that stand (R404) and the contexts whose period of the hang
watchdog does not run (R405) are seen as it begins to pass. -/
def tick (s : State) : State :=
  let c := if s.core.tried.isEmpty then Config.cycleTicks s.tick else 0
  let n := BitVec.ofNat 64 (if s.core.tried.isEmpty then Config.strokeTicks s.tick else 0)
  let t := hitsAge (ctxs.foldl (fun s x => pauseHang (noteDead s x) n x) (profile s (BitVec.ofNat 64 c))) c
  let idle := if coreIdle t then t.core.idle + c else 0
  { core := { t.core with cycle := t.core.cycle + BitVec.ofNat 64 c, idle := idle }
    pkg := Pkg.fireDue { t.pkg with stroke := t.pkg.stroke + n }
    mem := s.mem
    agenda := s.agenda
    tick := s.tick + 1 }

/-! ### Steps the machine takes by itself (entry 2) -/

/-- A copy hub goes on with its oldest packet, or posts the first that is done (R207). -/
def hubAny (s : State) (n : Nat) : State :=
  if s.pkg.packets.any (fun p => p.cons == n && p.done && p.posts.isEmpty) then hubDone s n else hubWork s n fun _ => true

/-- An asynchronous step of the core or a package block. -/
def runAuto (s : State) : Auto → State
  | .perform x => performAny s x
  | .land x => landAny s x
  | .leave x b => leaveAny s x b
  | .deliver p => opticPosts (deliver s p.val)
  | .start x e => startEntry s x e
  | .work x e => workEntry s x e
  | .complete x e => completeEntry s x e
  | .trap x => trapStep s x
  | .save x => saveStep s x
  | .wake => wakeUp (gateCommit s)
  | .watch => fireAny s
  | .waggle => waggleStep s
  | .accept => launchService s
  | .placement => placement s
  | .hub n => hubAny s n.val
  | .take n => opticPosts (takeNext s n)
  | .completion => completeAny s
  | .peer l next n p => colPeer s l next n p
  | .attest => attestStep s
  | .change => runChanges s
  | .scanPost => scanEndPost s
  | .flaw f => s.modCore ({ · with flaw := some f })
  | .corrected f => countCE s (storeUnit f)

/-- Only events come from the agenda; an instruction or a micro-order comes from memory. -/
def isEventInstr (i : Instr) : Bool := (encode i).isEmpty && (encodeMicro i).isNone

/-! ### The fetch -/

/-- Exposed loads due at this issue cycle, and what comes before them, are performed (R52). -/
def performDue (s : State) (x : CtxId) : State :=
  let c := s.cx x
  match (c.acc.filter fun a => a.due.any (decide <| · ≤ c.issue)).getLast? with
  | none => s
  | some l => (c.acc.filter fun a => decide (a.id ≤ l.id)).foldl (fun s a => performId s x a.id) s

/-- Exposed loads land at their issue cycle, before the instruction issues (R52). -/
def landDue (s : State) (x : CtxId) : State :=
  let s := performDue s x
  ((s.cx x).acc.filter fun a => a.due.isSome && mayLand s x a).foldl (fun s a => landAcc s x a) s

/-- A load is due at this issue cycle and could not land: the context freezes until it has (R53, R91). -/
def frozen (s : State) (x : CtxId) : Bool :=
  let c := s.cx x
  c.acc.any fun a => a.due.any (decide <| · ≤ c.issue)

/-- The loads of the task that are still to be issued again, which come before any instruction but a handler's (R291). -/
def leftLoads (s : State) (x : CtxId) : List Acc :=
  if (s.cx x).inh then [] else match (s.cx x).task.bind (taskOf s) with | none => [] | some t => t.reissue

/-- They are issued again, as far as the core accepts them. -/
def issueLoads (s : State) (x : CtxId) : State :=
  if (leftLoads s x).isEmpty then s else reissueLoads s x (leftLoads s x)

/-- The FETCH checks of R371 for word `i` of a line. -/
def fetchBad (l : BitVec 1024) (i : Nat) : Bool :=
  let h := header l
  let w := lineWord l i
  !isCode h || bit h 31 || !smap h i ||
    (if isLong w then i == 29 || smap h (i + 1) else decide (i < 29) && !smap h (i + 1))

/-- The line is kept by the instruction cache (R135; entry 11). -/
def keepLine (s : State) (a : BitVec 52) (l : BitVec 1024) : State :=
  s.modCore fun k => { k with icache := ((a, l) :: k.icache.filter (·.1 != a)).take 64 }

/-- A poisoned word of a line that is read from memory (R409). -/
def linePoison (s : State) (a : BitVec 52) : Option Nat :=
  if s.core.icache.any (·.1 == a) then none else poisonAt s a.toNat 128

/-- What the next step is: an instruction in the state in which it issues, or a state that is reached without one. -/
inductive Plan where
  | run (i : Instr) (s : State)
  | done (s : State)
deriving DecidableEq, Repr

/-- Context `x` crosses from a line of the other mode to one of mode `m`, and its entries and loads are not all done (R51, R55). -/
def crossing (c : Ctx) (m : Bool) : Bool :=
  c.prevMode.any (· != m) && !(engines.all (fun e => (c.eq e).quiet) && c.acc.all fun a => a.isStore)

/-- Context `x` is to issue from a line of mode `m` (R51, R54, R55): it waits for its entries and loads when it crosses from a
line of the other mode, or for the exposed slot. -/
def modeTurn (s : State) (x : CtxId) (m : Bool) : Option State :=
  if crossing (s.cx x) m then none
  else if m && s.core.exp.any (· != x) then none
  else some (s.modCx x ({ · with exposed := m }))

/-- The instruction at the PC of context `x`, which issues: the section of its line (R92), the line, the checks of R371, the
mode, the decoding. -/
def fetch (s : State) (x : CtxId) : Plan :=
  let pc := (s.cx x).pc
  match fetchAt s x pc with
  | .error f => .done (preciseFault s f)
  | .ok t =>
    let a := t.line
    let (s, ok) := sectionFor (tlbFill s x pc t) x a.toNat
    let l := lineSeen s a
    if !ok then .done s
    else if ndHold s a.toNat then .done (waitFor s 15)
    else match linePoison s a with
    | some u =>
      .done (takeTrap (rasRecord s (8 * u) (rasUnit s (8 * u)) 3 (some (lcore s))) x
        ⟨0x30, 0, false, 0, uceVal (pc - BitVec.ofNat 56 (pc.toNat % 128) + BitVec.ofNat 56 (8 * u - a.toNat)) (rasUnit s (8 * u))⟩)
    | none =>
      let s := keepLine s a l
      let i := wordOf pc
      let w := lineWord l i
      let w1 := if isLong w then lineWord l (i + 1) else 0
      if fetchBad l i then .done (preciseFault s ⟨0x02, header l⟩)
      else match modeTurn s x (bit (header l) 30) with
      | none =>
        let m := crossing (s.cx x) (bit (header l) 30)
        .done ((waitFor s 15).modCx x ({ · with landing := m }))
      | some s =>
        match decode w w1 with
        | .error _ => .done (preciseFault s (firstFault s (if isLong w then 2 else 1) ⟨0x01, wordsVal w w1⟩))
        | .ok i => .run i s

/-- The first issue of a task or of a phase (R134, R372, R405): the entry point passes the arrival test, or TARGET with
kind 4. -/
def firstIssue (s : State) (x : CtxId) : Except State State :=
  let c := s.cx x
  let s := s.modCx x fun c => { c with first := false, beat := c.beat.or (some (now s)), hbeat := if c.beat.isNone then now s else c.hbeat }
  if !c.first then .ok s
  else match targetCheck s x c.pc with
    | some _ => .error (preciseFault s (targetFlt 4 c.pc))
    | none => .ok s

/-- Context `x` issues (R33): the loads of a resume are issued again, what is due lands, the entry point is checked, and the
instruction is fetched. -/
def issue (s : State) (x : CtxId) : Plan :=
  let s := landDue (issueLoads (s.modCore ({ · with cur := x })) x) x
  if !runnable s x then .done s
  else if frozen s x || !(leftLoads s x).isEmpty then .done (waitFor s 15)
  else match firstIssue s x with
    | .error u => .done (mapTurn x s u)
    | .ok t => match fetch t x with
      | .done u => .done (mapTurn x s u)
      | .run i u => match meets u x i with
        | some f => .done (ctxError u x f)
        | none => .run i u

/-- An uncorrectable error at the head of the agenda strikes in the step that follows it (R411; entry 95). -/
def strike (s : State) : State :=
  match s.agenda with
  | .auto (.flaw f) :: l => { s.modCore ({ · with flaw := some f }) with agenda := l }
  | _ => s

/-- The next step (entry 2): the head of the agenda, or an issue, or, when no context can issue, the other agents. -/
def plan (s : State) : Plan :=
  let s := strike s
  match s.agenda with
  | .event i :: l =>
    let s := { s.modCore ({ · with tried := [] }) with agenda := l }
    if isEventInstr i then .run i s else .done s
  | .auto a :: l => .done (runAuto { s.modCore ({ · with tried := [] }) with agenda := l } a)
  | [] => match chooseCtx s with
    | some x => issue s x
    | none => .done { s.modCore ({ · with tried := [] }) with agenda := serviceMoves }

/-- The service step that follows an issue (entry 2): they take turns, so that every agent goes on. -/
def serviceTurn (s : State) : List Move := ((serviceMoves.drop (s.tick % serviceMoves.length)).take 1)

/-- After a step: stops in progress are completed (R333), and the other agents get a turn after an issue. -/
def settle (issued : Bool) (s : State) : State :=
  let s := (settleStop s).modCore ({ · with flaw := none })
  if issued && s.agenda.isEmpty && s.core.tried.isEmpty then { s with agenda := serviceTurn s } else s

end Sys2Proof.Machine
end

