-- ==== Sys2Proof/Machine/Place.lean ====
section
/-! DEFINITION. How one instruction is placed for the next step (entry 4): a code line and the page that maps it, or a table
run. -/
namespace Sys2Proof.Machine

open Bits

/-- Physical and virtual address of the line that holds the placed instruction. -/
def placeLine : Nat := 0x40000000
/-- Physical address of the root table; the L2 table follows it. -/
def placeRoot : Nat := 0x10000

/-- The header of the placed line: code, scoreboard mode, every word a branch target, and the start map (R132, R133). -/
def placeHeader (long : Bool) : Word := BitVec.ofNat 64 (0x3FFFFFFF * 2 ^ 32 + (if long then 0x3FFFFFFD else 0x3FFFFFFF))

/-- Context X0 runs a task whose next instruction is the word pair at word 0 of the placed line, through an identity page
of 1 GiB. -/
def State.placeCode (s : State) (w0 w1 : IWord) : State :=
  let m := memWrite s.mem placeRoot (toBytes (BitVec.ofNat 64 (placeRoot + 0x10003)) 8)
  let m := memWrite m (placeRoot + 0x10008) (toBytes (BitVec.ofNat 64 (placeLine + 0x1D)) 8)
  let m := memWrite m placeLine (toBytes (placeHeader (isLong w0)) 8 ++ toBytes w0 4 ++ toBytes w1 4 ++ List.replicate 112 0)
  let c := s.cx 0
  let c := { c with
    pc := BitVec.ofNat 56 (placeLine + 8), task := c.task.or (some 0), troot := BitVec.ofNat 64 (placeRoot + 1), pins := [],
    halted := false, saving := none, trap := none, later := none, line := false, wide := false, dying := false, first := false,
    acc := [], exposed := false, prevMode := none, landing := false, tstat := c.tstat &&& ~~~4 }
  { (s.setCx 0 c).modCore fun k => { k with gate := .on, last := 3, tried := [], exp := none, tlb := [], icache := [] } with
    mem := m, agenda := [] }

/-- A VRUN of context X0 is at step 0 of table 0, which holds the micro-order. -/
def State.placeMicro (s : State) (w : IWord) : State :=
  let r : Run :=
    { seq := 1, hdr := 0xFFFF200, addr := 0, a := 0, b := 0, c := 0, b40 := 0, prog := 0, cycle := 0, stroke := 0,
      done := false, waits := false, begun := true, fault := none, early := false, posts := [], fmtst := 0, accf := 0, sync := 0xFFFF, npdone := false,
      rebuilt := 0, pend := none, x := .table 0 0 false 0 0 [] [] }
  let c := s.cx 0
  let t := c.v.tables.get 0
  let c := { c with line := false, v := { c.v with tables := c.v.tables.set 0 { t with code := t.code.set 0 w, len := 1 } } }
  let s := (s.setCx 0 c).modEq 0 .vxe fun q => { q with run := some r, stop := false }
  { s.modCore fun k => { k with gate := .on, busy := k.busy.set 2 (some 0) } with agenda := [.auto (.work 0 .vxe)] }

end Sys2Proof.Machine
end

