-- ==== Sys2Proof/Machine/Step.lean ====
section
/-! DEFINITION. One step of the machine: time passes, the plan is made (`Machine/Issue.lean`), and an instruction or an
event runs through `exec`. And how one instruction is placed for the next step (entry 4). -/
namespace Sys2Proof.Machine

/-- What follows the meaning of an instruction in a step. -/
def afterStep (issued : Bool) : Host.Outcome State Fault Refusal → Host.Outcome State Fault Refusal
  | .next s => .next (settle issued s)
  | .fault r => .fault r
  | .refused r => .refused r

/-- An instruction at a boundary at which a MAPCHG is due (R365, R388). -/
def atBoundary (i : Instr) (t : State) : Host.Outcome State Fault Refusal → Host.Outcome State Fault Refusal
  | .next u => .next (if isEventInstr i then u else mapTurn t.core.cur t u)
  | r => r

/-- One step (entry 2): an event or an instruction that issues runs through `exec`; any other step of an agent is a next
state by itself. -/
def step (s : State) : Host.Outcome State Fault Refusal :=
  match plan (tick s) with
  | .run i t => afterStep (!isEventInstr i) (atBoundary i t (exec i t))
  | .done t => .next (settle false t)

/-! ### Placing one instruction (entry 4) -/

/-- `s` with the instruction whose bits are `w` placed where the next step fetches it: a sequencer instruction at the PC of
context X0, or a micro-order at the step of a table run. -/
def State.withFetchWord (s : State) (nbits w : Nat) : State :=
  let w := w % 2 ^ nbits
  let w0 := BitVec.ofNat 32 w
  let w1 := BitVec.ofNat 32 (w / 2 ^ 32)
  match decode w0 w1 with
  | .ok _ => s.placeCode w0 w1
  | .error _ => s.placeMicro w0

end Sys2Proof.Machine
end

