-- ==== Sys2Proof/Safety.lean ====
section
/-! DEFINITION. The words of the claims: when an instruction may end, the state it ends in, what a frame keeps, where a
table run stands, and what a run that goes well is. -/
namespace Sys2Proof

open Machine

/-! ### Memory -/

/-- Memory is in its one canonical form: addresses rising, no byte listed that reads as an unlisted one (entry 3). -/
def Memory.wf (s : State) : Bool := memWf s.mem

/-- The byte of memory at a physical address. -/
def byteAt (s : State) (a : Nat) : Byte := memGet s.mem a

/-! ### The end of an instruction -/

/-- The context that issues (R33). -/
def issuer (s : State) : Ctx := s.cx s.core.cur

/-- An instruction of `w` words may end: none of the registers it names is pending (R51, R196), and no back-edge of a
hardware loop at it fails the arrival test (R162, R372). -/
def Ready (s : State) (w : Nat) (rs : List (BitVec 6)) (ps : List (BitVec 5)) : Prop :=
  hazard s rs ps = false ∧ endFault s w = none

/-- The end of an instruction of `w` words that began in `s` and whose effect gave `t`: the end step of the hardware loops
(R162), which gives the next address, and the issue of the instruction (R33, R52, R54). -/
def ended (s : State) (w : Nat) (t : State) : State :=
  let e := endStep (t.cx s.core.cur) (curPc s) (slotAdd (curPc s) w)
  (t.setCx s.core.cur e.1).issued e.2.1

/-- The end of an instruction that gave `t` and transfers to `a` (R159). -/
def arrived (t : State) (a : VAddr) : State := t.issued a

/-- An instruction that began in `s` does not retire in this step: it waits for flag `f` of R337, its context is as it was but
for that, and the other contexts are tried in this cycle (R33). -/
def waiting (s : State) (f : Nat) : State := waitFor s f

/-- It waits so, and its exposed loads are to land (R49, R55; entry 8). -/
def resting (s : State) (f : Nat) : State := (waitFor s f).modCx s.core.cur ({ · with landing := true })

/-- A precise fault of the instruction that issues in `s`: cause and TVAL (R351, R358). -/
def trapped (s : State) (cause : BitVec 8) (val : Word) : State := preciseFault s ⟨cause, val⟩

/-- The precise fault of an instruction of `w` words that breaks a rule with this cause and TVAL: TARGET of a back-edge at the
instruction comes first (R368). -/
def raised (s : State) (w : Nat) (cause : BitVec 8) (val : Word) : State := preciseFault s (firstFault s w ⟨cause, val⟩)

/-! ### Control registers -/

/-- The numbers that R171, R205 and R356 give a register of a context or a core. -/
def CrListed (n : Nat) : Prop :=
  n ≤ 0x00A ∨ (0x011 ≤ n ∧ n ≤ 0x016) ∨ (0x019 ≤ n ∧ n ≤ 0x01E) ∨ (0x021 ≤ n ∧ n ≤ 0x026) ∨ (0x029 ≤ n ∧ n ≤ 0x02E) ∨
    (0x031 ≤ n ∧ n ≤ 0x036) ∨ (0x040 ≤ n ∧ n ≤ 0x04C) ∨ (0x051 ≤ n ∧ n ≤ 0x056) ∨ (0x080 ≤ n ∧ n ≤ 0x091) ∨
    (0x098 ≤ n ∧ n ≤ 0x09F) ∨ (0x0C0 ≤ n ∧ n ≤ 0x0D7) ∨ (0x100 ≤ n ∧ n ≤ 0x104)

/-- The listed numbers whose register has only RO fields, at least one not reserved (R374). -/
def CrReadOnly (n : Nat) : Prop :=
  n = 0x00A ∨ (0x019 ≤ n ∧ n ≤ 0x01E) ∨ (0x021 ≤ n ∧ n ≤ 0x026) ∨ (0x029 ≤ n ∧ n ≤ 0x02E) ∨ (0x031 ≤ n ∧ n ≤ 0x036) ∨
    n = 0x046 ∨ n = 0x047 ∨ (0x051 ≤ n ∧ n ≤ 0x056) ∨ (0x088 ≤ n ∧ n ≤ 0x08F) ∨ n = 0x091 ∨ (0x098 ≤ n ∧ n ≤ 0x09F) ∨
    n = 0x0CA ∨ (0x102 ≤ n ∧ n ≤ 0x104)

/-! ### Frames -/

/-- `t` differs from `s` at most in registers and in what every instruction moves: of the context that issues, the PC, the
hardware-loop levels, the issue count, the wait marks and the mode it last issued from; of the core, which context issued last,
those tried since, and the exposed slot (R33, R54). Package, memory, the other contexts, the rest of the core, and every special
register, accumulator bank, comb slot and engine queue are as they were. -/
def OnlyRegisters (s t : State) : Prop :=
  t.pkg = s.pkg ∧ (∀ a, byteAt t a = byteAt s a) ∧ t.agenda = s.agenda ∧ t.tick = s.tick ∧
  (∀ y, y ≠ s.core.cur → t.cx y = s.cx y) ∧
  { t.core with ctx := s.core.ctx, last := s.core.last, tried := s.core.tried, exp := s.core.exp } = s.core ∧
  (t.core.exp ≠ s.core.exp → t.core.exp = some s.core.cur ∨ s.core.exp = some s.core.cur ∧ t.core.exp = none) ∧
  (let c := issuer s
   { t.cx s.core.cur with s := c.s, p := c.p, pc := c.pc, loops := c.loops, issue := c.issue, wait := c.wait,
                          landing := c.landing, prevMode := c.prevMode } = c)

/-! ### A read at the home -/

/-- A vault section that holds address `a` is tagged with the launch of context `x`: an access makes no section action
(R92). -/
def OwnSection (s : State) (x : CtxId) (a : Nat) : Prop :=
  ∀ n l, sectionOf a = some n → actsFor s x = some l → secTag s n = some l

/-- The physical address is one of memory: no control register, and no window to a device or a peer (R83). -/
def InMemory (a : Nat) : Prop := rowOf a ≠ .ctl ∧ rowOf a ≠ .peer ∧ ∀ i, rowOf a ≠ .root i

/-- The issuing context may read `2 ^ k` bytes at `va`, which `t` translates, as a part of its instruction: the load is
allowed, no earlier access comes first, no near-DRAM bank holds it, the section is its launch's own, and no word is poisoned (R89,
R92, R99, R111, R409). -/
def CanRead (s : State) (va : VAddr) (t : Tr) (k : Nat) : Prop :=
  accCheck s 1 k va = .ok t ∧ readWaits s va t (2 ^ k) = false ∧ ndHold s t.pa.toNat = false ∧ OwnSection s s.core.cur t.pa.toNat ∧
  poisonAt s t.pa.toNat (2 ^ k) = none ∧ InMemory t.pa.toNat

/-- `s` after such a read: its translation is kept (R88), and the read has left its queue (R110). -/
def readFill (s : State) (va : VAddr) (t : Tr) : State :=
  (tlbFill s s.core.cur va t).modCx s.core.cur (·.direct (newAcc s .read va t 3 false))

/-! ### Appending an entry -/

/-- The issuing context may append an entry on engine `e`, and `t` translates its ring slot: the store is allowed, the slot
after the tail is free, no earlier access comes first, the section is the launch's own, and no watchpoint covers the slot
(R37, R92, R110, R342, R389). -/
def CanAppend (s : State) (e : Eng) (t : Tr) : Prop :=
  let q := s.eq s.core.cur e
  let va := ringAddr q q.qtail
  accCheck s 2 3 va = .ok t ∧ slotBusy q (nextSlot q.qtail) = false ∧
  accWaits (issuer s) (newAcc s (.write 0) va t 3 false) 64 = false ∧ OwnSection s s.core.cur t.pa.toNat ∧
  dwAll s t.pa.toNat 64 false = [] ∧ (issuer s).passed = none

/-- The 64 bytes of an entry: its header, its number, the operand bytes, zeros above (R38). -/
def entryOf (hdr seq : Word) (body : List Byte) : List Byte :=
  Bits.toBytes hdr 8 ++ Bits.toBytes seq 8 ++ body ++ List.replicate (48 - body.length) 0

/-- `s` with an entry appended on engine `e` by the issuing context (R37): its bytes in the ring slot at the tail, the tail at
the next slot, `k` numbers consumed, and the entry among those not started. The store has its place in the program order, and
those before it in its queue have left with it (R110). -/
def appended (s : State) (e : Eng) (t : Tr) (bytes : List Byte) (k : Nat) (p : Pend) : State :=
  let x := s.core.cur
  let q := s.eq x e
  let va := ringAddr q q.qtail
  let u := (tlbFill s x va t).modCx x (·.direct (newAcc s (.write 0) va t 3 false))
  ((rawStore u t.pa.toNat bytes).setEq x e
    { q with qtail := nextSlot q.qtail, qlast := q.qlast + BitVec.ofNat 64 k, pend := q.pend ++ [p] }).modCx x fun c =>
      { c with nextAcc := c.nextAcc + 1 }

/-- What an append records of an entry (R57, R116, R216, R380): `info` with its number, slot, the accesses before it, the lent
banks, the banks it names, and of the slots and banks those that are not FREE. -/
def recorded (s : State) (e : Eng) (info : Pend) : Pend :=
  let c := issuer s
  let q := c.eq e
  { info with seq := q.qlast + 1, slot := q.qtail, rel := c.nextAcc, lent := c.v.lent
              slots := info.slots &&& claimed s, banks := info.banks &&& allocated s, names := info.banks }

/-- After an engine command on `e` with token register `t` (R141, R196, R364): CTX.EFL.TSM of the engine is
cleared, and the token register is pending. -/
def commanded (s : State) (e : Eng) (t : BitVec 6) : State :=
  s.modCx s.core.cur fun c =>
    { c with efl := Bits.setFld c.efl (engNum e - 1) 0#1
             tkpend := if t = 0 then c.tkpend else Bits.setFld c.tkpend t.toNat 1#1 }

/-! ### The fetch -/

/-- The next step fetches instruction `i`, and issues it in state `z`: nothing is on the agenda, the context that issues has
no access outstanding and nothing to take first, its line is code that may be executed, in a section of its launch, the words at
its PC decode to `i`, the line's timing mode holds, and no error strikes what it reads (R33, R51, R54, R92, R99, R135, R371, R409,
R411). -/
def Fetched (s : State) (i : Instr) (z : State) : Prop :=
  ∃ (x : CtxId) (t : Tr) (v : State), s.agenda = [] ∧ chooseCtx (tick s) = some x ∧
    let u := (tick s).modCore fun k => { k with cur := x }
    let b := u.modCx x fun c =>
      { c with first := false, beat := c.beat.or (some (now u)), hbeat := if c.beat.isNone then now u else c.hbeat }
    let pc := (u.cx x).pc
    let k := wordOf pc
    let a := t.line
    let l := lineSeen v a
    (u.cx x).acc = [] ∧ leftLoads u x = [] ∧ (u.cx x).first = false ∧ (u.cx x).tstat.getLsbD 2 = false ∧
    fetchAt b x pc = .ok t ∧ sectionFor (tlbFill b x pc t) x a.toNat = (v, true) ∧ ndHold v a.toNat = false ∧
    linePoison v a = none ∧ fetchBad l k = false ∧ modeTurn (keepLine v a l) x ((header l).getLsbD 30) = some z ∧
    decode (lineWord l k) (if isLong (lineWord l k) then lineWord l (k + 1) else 0) = .ok i ∧ meets z x i = none

/-! ### The work of engines -/

/-- Engine `e` may do a unit of work on entry `r` of context `x`, which it does in state `z`: the entry has begun, the engine is the
context's, its accesses go with the entry's WORLD bit, and no error strikes now (R180, R224, R241, R354, R411). -/
def WorksIn (s : State) (x : CtxId) (e : Eng) (r : Run) (z : State) : Prop :=
  s.run x e = some r ∧ r.begun = true ∧ mayWork s x e = true ∧ engineFree s x e = true ∧ s.core.flaw = none ∧
  z = (takeEngine s x e).modCore ({ · with asWorld := some (r.hdr.getLsbD 11) })

/-- A unit of `n` bytes of an entry, within a 64-byte line at `va`, that `t` translates: its checks pass for an access of this
kind (5 read, 6 write, 3 atomic), and it goes to memory in a section of the launch's own (R92, R108, R389). -/
def UnitAt (z : State) (x : CtxId) (kind : Nat) (va : VAddr) (n : Nat) (t : Tr) : Prop :=
  0 < n ∧ va.toNat % 64 + n ≤ 64 ∧ unitCheck z x kind va = .ok t ∧ OwnSection z x t.pa.toNat ∧ InMemory t.pa.toNat

/-- A unit that an entry writes so; no watchpoint covers it (R342). -/
def UnitWrite (z : State) (x : CtxId) (va : VAddr) (n : Nat) (t : Tr) : Prop :=
  UnitAt z x 6 va n t ∧ dwAll z t.pa.toNat n false = []

/-! ### Table runs -/

/-- VXE executes a table run: its entry is `r`, at step `step` of table `t`; none of the registers `rs` lies in a bank that the
run's context had lent, and no error strikes now (R57, R237, R381, R411). -/
def InRun (s : State) (r : Run) (t : Fin 4) (step : Nat) (rs : List (BitVec 5)) : Prop :=
  s.run s.core.vx .vxe = some r ∧ (∃ drain path t0 taken batch, r.x = .table t step drain path t0 taken batch) ∧
  rs.find? (lentReg (runLent (s.cx s.core.vx) r)) = none ∧ s.core.flaw = none

/-- The context whose run VXE executes. -/
def runner (s : State) : Ctx := s.cx s.core.vx

/-- The codebooks that the run of entry `r` may use (R64, R68, R230). -/
def books (s : State) (r : Run) : Nat → Option (BitVec 256) := cbSeen s s.core.vx r

/-- The state after a micro-order at step `step` of table `t` that left the running context as `c` and set flags `fl`: the
run is at its next step (R237, R242). -/
def stepped (s : State) (t : Fin 4) (step : Nat) (c : Ctx) (fl : BitVec 3) : State :=
  microNext (s.setCx s.core.vx c) s.core.vx t.val step fl .next

/-- An operand of format `n` without scales: FMT is `n`, BSP, TSP and the reserved bit 11 of its tag are 0 (R65, R68, R243). -/
def Unscaled (v : VReg) (n : Nat) : Prop :=
  v.tag.toNat % 2 ^ 5 = n ∧ v.tag.getLsbD 5 = false ∧ v.tag.getLsbD 6 = false ∧ v.tag.getLsbD 11 = false

/-- Element `j` of width `w` of a register (R59). -/
def elemBits (v : VReg) (w j : Nat) : BitVec w := v.data.extractLsb' (w * j) w

/-- The tag of a register result: FMT with ANA where an operand of `rs` has analogue origin (R69, R243). -/
def resultTag (c : Ctx) (f : Nat) (rs : List (BitVec 5)) : BitVec 16 :=
  BitVec.ofNat 16 (f + if rs.any fun r => (c.vreg r).tag.getLsbD 7 then 2 ^ 7 else 0)

/-- The pairwise tree of R77 over items 0 to 2^k − 1, and those that begin at `2^k * i` in general: neighbours are combined level by
level, and an absent item passes its partner up (R252). -/
def pairwise {α : Type} (f : α → α → α) (item : Nat → Option α) : Nat → Nat → Option α
  | 0, i => item i
  | k + 1, i => match pairwise f item k (2 * i), pairwise f item k (2 * i + 1) with
    | some a, some b => some (f a b)
    | some a, none => some a
    | none, b => b

/-- Of context `c`, `t` differs at most in vector register `d` and, where `sr` allows it, in the generators. -/
def OnlyVreg (c t : Ctx) (d : BitVec 5) (sr : Prop) : Prop :=
  (∀ r, r ≠ d → t.vreg r = c.vreg r) ∧ (¬ sr → t.v.gen = c.v.gen) ∧
  { t with v := { t.v with regs := c.v.regs, gen := c.v.gen } } = c

/-- `t` is context `c` after a row wrote register `d`: an element that `on` names holds the pattern that `p` gives from its
index and its draws, another element is as it was; the tag, TS 1.0, BS unchanged; and the flags are those of the
elements together (R72, R75, R232, R243). Without stochastic rounding a draw is 0 and no generator moves; with it, and one
element to a lane, the draw is the lane's next. -/
def Wrote (c t : Ctx) (d : BitVec 5) (on : Nat → Bool) (w : Nat) (rm : BitVec 2) (tag : BitVec 16) (fl : BitVec 3)
    (p : Nat → Nat → Nat → Nat × BitVec 3) : Prop :=
  OnlyVreg c t d (rm = 1) ∧ (t.vreg d).tag = tag ∧ (t.vreg d).ts = 0x3F800000 ∧ (t.vreg d).bs = (c.vreg d).bs ∧
  ∃ g h : Nat → Nat, (rm ≠ 1 → ∀ j, g j = 0 ∧ h j = 0) ∧
    (rm = 1 → 32 ≤ w → ∀ j < 2048 / w, on j = true → g j = (xorshift (c.v.gen.toList.getD (elemLane w j) 0)).toNat) ∧
    (∀ j < 2048 / w, elemBits (t.vreg d) w j = if on j then BitVec.ofNat w (p j (g j) (h j)).1 else elemBits (c.vreg d) w j) ∧
    ∀ i, fl.getLsbD i = true ↔ ∃ j < 2048 / w, on j = true ∧ (p j (g j) (h j)).2.getLsbD i = true

/-- `t` is context `c` after a row wrote the bits `p` of mask `d` where mask `m` is true; a write of m0 is discarded (R5, R232). -/
def WroteMask (c t : Ctx) (d m : BitVec 3) (p : Nat → Bool) : Prop :=
  { t with v := { t.v with masks := c.v.masks } } = c ∧ (∀ k, k ≠ d → t.mask k = c.mask k) ∧ (d = 0 → t = c) ∧
  (d ≠ 0 → ∀ l < 64, (t.mask d).getLsbD l = if (c.mask m).getLsbD l then p l else (c.mask d).getLsbD l)

/-! ### Runs -/

/-- The step answers a next state: it ends neither in a fault nor in a refusal. -/
def Completes (o : Host.Outcome State Fault Refusal) : Prop := ∃ t, o = .next t

/-- A run of `n` steps from `s` ends in a state. -/
def RunsOn (n : Nat) (s : State) : Prop := ∃ t, Host.Core.run core n s = .next t

end Sys2Proof
end

