-- ==== Sys2Proof/Certificates/Slice0/Obligations.lean ====
section
/-! DEFINITION. The statements about this model, one definition each, in the words of `Safety.lean`. `.next` is the next state
of an instruction; a docstring names the rules of the spec that a statement formalises. -/
open Sys2Proof
open Sys2Proof.Machine
open Sys2Proof.Bits

/-! ### Integer instructions -/

/-- The register rows of R153, its unary rows and RDSTR, the immediate rows of R155 and the long forms of R156: the value that
each writes to s[d], with the PC past the instruction. -/
def Obligations.IntegerRowsWriteTheirResult : Prop :=
  (∀ (s : State) (d a b : BitVec 6), Ready s 1 [d, a, b] [] →
    let x := s.reg a
    let y := s.reg b
    let k := y.toNat % 64
    let res := fun v => Host.Outcome.next (ended s 1 (s.setReg d v))
    exec (.add d a b) s = res (x + y) ∧ exec (.sub d a b) s = res (x - y) ∧
    exec (.and d a b) s = res (x &&& y) ∧ exec (.or d a b) s = res (x ||| y) ∧ exec (.xor d a b) s = res (x ^^^ y) ∧
    exec (.andn d a b) s = res (x &&& ~~~y) ∧
    exec (.sll d a b) s = res (x <<< k) ∧ exec (.srl d a b) s = res (x >>> k) ∧
    exec (.sra d a b) s = res (x.sshiftRight k) ∧ exec (.ror d a b) s = res (x.rotateRight k) ∧
    exec (.min d a b) s = res (if x.toInt < y.toInt then x else y) ∧
    exec (.max d a b) s = res (if x.toInt < y.toInt then y else x) ∧
    exec (.minu d a b) s = res (if x.toNat < y.toNat then x else y) ∧
    exec (.maxu d a b) s = res (if x.toNat < y.toNat then y else x) ∧
    exec (.addw d a b) s = res (((x + y).setWidth 32).signExtend 64) ∧
    exec (.subw d a b) s = res (((x - y).setWidth 32).signExtend 64) ∧
    exec (.adds d a b) s = res (BitVec.ofInt 64 (max (-2 ^ 63) (min (2 ^ 63 - 1) (x.toInt + y.toInt)))) ∧
    exec (.subs d a b) s = res (BitVec.ofInt 64 (max (-2 ^ 63) (min (2 ^ 63 - 1) (x.toInt - y.toInt)))) ∧
    exec (.mul d a b) s = res (BitVec.ofInt 64 (x.toInt * y.toInt)) ∧
    exec (.mulh d a b) s = res (BitVec.ofInt 64 (x.toInt * y.toInt / 2 ^ 64)) ∧
    exec (.mulhu d a b) s = res (BitVec.ofNat 64 (x.toNat * y.toNat / 2 ^ 64)) ∧
    exec (.mulhsu d a b) s = res (BitVec.ofInt 64 (x.toInt * (y.toNat : Int) / 2 ^ 64))) ∧
  (∀ (s : State) (d a : BitVec 6), Ready s 1 [d, a] [] →
    let x := s.reg a
    let res := fun v => Host.Outcome.next (ended s 1 (s.setReg d v))
    exec (.clz d a) s = res (BitVec.ofNat 64 (((List.range 64).find? fun i => x.getLsbD (63 - i)).getD 64)) ∧
    exec (.ctz d a) s = res (BitVec.ofNat 64 (((List.range 64).find? fun i => x.getLsbD i).getD 64)) ∧
    exec (.popc d a) s = res (BitVec.ofNat 64 ((List.range 64).filter fun i => x.getLsbD i).length) ∧
    exec (.sextb d a) s = res ((x.setWidth 8).signExtend 64) ∧ exec (.sexth d a) s = res ((x.setWidth 16).signExtend 64) ∧
    exec (.sextw d a) s = res ((x.setWidth 32).signExtend 64) ∧ exec (.zextw d a) s = res (BitVec.ofNat 64 (x.toNat % 2 ^ 32)) ∧
    exec (.bswap d a) s = res (BitVec.ofNat 64 (ofBytes (toBytes x 8).reverse)) ∧
    (Ready s 1 [d] [] → exec (.rdstr d) s = res s.pkg.stroke)) ∧
  ∀ (s : State) (d a : BitVec 6) (i : BitVec 14) (n : BitVec 6) (l : BitVec 42) (u : BitVec 22),
    let x := s.reg a
    let v : Word := BitVec.ofInt 64 i.toInt
    let res := fun w v => Host.Outcome.next (ended s w (s.setReg d v))
    (Ready s 1 [d, a] [] →
      exec (.addi d a i) s = res 1 (x + v) ∧ exec (.andi d a i) s = res 1 (x &&& v) ∧ exec (.ori d a i) s = res 1 (x ||| v) ∧
      exec (.xori d a i) s = res 1 (x ^^^ v) ∧ exec (.muli d a i) s = res 1 (x * v) ∧
      exec (.slli d a n) s = res 1 (x <<< n.toNat) ∧ exec (.srli d a n) s = res 1 (x >>> n.toNat) ∧
      exec (.srai d a n) s = res 1 (x.sshiftRight n.toNat)) ∧
    (Ready s 2 [d] [] → exec (.li d l) s = res 2 (BitVec.ofInt 64 l.toInt)) ∧
    (Ready s 2 [d, a] [] → exec (.addli d a l) s = res 2 (x + BitVec.ofInt 64 l.toInt) ∧
      exec (.liu d a u) s = res 2 (BitVec.ofNat 64 (u.toNat * 2 ^ 42 + x.toNat % 2 ^ 42)))

/-- The divisions of R153, and R154's results for a divisor of 0 and for −2^63 by −1. -/
def Obligations.DivisionsWithCorners : Prop :=
  ∀ (s : State) (d a b : BitVec 6), Ready s 1 [d, a, b] [] →
    let x := s.reg a
    let y := s.reg b
    let res := fun v => Host.Outcome.next (ended s 1 (s.setReg d v))
    (y = 0 → exec (.div d a b) s = res (BitVec.allOnes 64) ∧ exec (.divu d a b) s = res (BitVec.allOnes 64) ∧
      exec (.rem d a b) s = res x ∧ exec (.remu d a b) s = res x) ∧
    (x = 0x8000000000000000 → y = BitVec.allOnes 64 →
      exec (.div d a b) s = res 0x8000000000000000 ∧ exec (.rem d a b) s = res 0) ∧
    (y ≠ 0 → exec (.div d a b) s = res (BitVec.ofInt 64 (x.toInt.tdiv y.toInt)) ∧
      exec (.rem d a b) s = res (BitVec.ofInt 64 (x.toInt.tmod y.toInt)) ∧
      exec (.divu d a b) s = res (BitVec.ofNat 64 (x.toNat / y.toNat)) ∧
      exec (.remu d a b) s = res (BitVec.ofNat 64 (x.toNat % y.toNat)))

/-! ### Predicates -/

/-- The compare conditions and the combinations of R137, whose unused codes no well-formed compare has, and CMP, CMPI, CMPW
and CMPWI (R157), which write p[d] := combine(p[d], cmp xor N). -/
def Obligations.ComparesWriteAPredicate : Prop :=
  (∀ (a b : Word) (old c : Bool),
    (condHolds 0 a b = decide (a = b) ∧ condHolds 1 a b = decide (a ≠ b) ∧
     condHolds 2 a b = decide (a.toInt < b.toInt) ∧ condHolds 3 a b = decide (b.toInt ≤ a.toInt) ∧
     condHolds 4 a b = decide (a.toNat < b.toNat) ∧ condHolds 5 a b = decide (b.toNat ≤ a.toNat) ∧
     condHolds 6 a b = decide (b.toInt < a.toInt) ∧ condHolds 7 a b = decide (a.toInt ≤ b.toInt) ∧
     condHolds 8 a b = decide (b.toNat < a.toNat) ∧ condHolds 9 a b = decide (a.toNat ≤ b.toNat) ∧
     condHolds 10 a b = decide (a &&& b ≠ 0) ∧ condHolds 11 a b = decide (a &&& b = 0)) ∧
    combine 0 old c = c ∧ combine 1 old c = (old && c) ∧ combine 2 old c = (old || c) ∧ combine 3 old c = (old != c)) ∧
  (∀ (p : BitVec 5) (n : BitVec 1) (a b : BitVec 6) (c f : BitVec 4), 11 < c.toNat ∨ 3 < f.toNat →
    Instr.wf (.cmp p n a b c f) = false ∧ Instr.wf (.cmpi p n a b c f) = false ∧ Instr.wf (.cmpw p n a b c f) = false ∧
    Instr.wf (.cmpwi p n a b c f) = false) ∧
  ∀ (s : State) (p : BitVec 5) (n : BitVec 1) (a b i : BitVec 6) (c f : BitVec 4), c.toNat ≤ 11 → f.toNat ≤ 3 →
    let x := s.reg a
    let y := s.reg b
    let low := fun (w : Word) => BitVec.ofInt 64 (w.setWidth 32).toInt
    let res := fun u v => Host.Outcome.next (ended s 1 (s.setPred p (combine f (s.pred p) (condHolds c u v != (n == 1)))))
    (Ready s 1 [a, b] [p] → exec (.cmp p n a b c f) s = res x y ∧ exec (.cmpw p n a b c f) s = res (low x) (low y)) ∧
    (Ready s 1 [a] [p] → exec (.cmpi p n a i c f) s = res x (BitVec.ofInt 64 i.toInt) ∧
      exec (.cmpwi p n a i c f) s = res (low x) (BitVec.ofInt 64 i.toInt))

/-- The predicate instructions (R158): the predicate rows, PTOS, STOP and SEL write their one result; PRD gathers the predicates
into one word, bit 0 reading 1; PWR sets p1 to p31 from one word. -/
def Obligations.PredicateInstructions : Prop :=
  ∀ (s : State) (p q r : BitVec 5) (d a b : BitVec 6),
    let put := fun v => Host.Outcome.next (ended s 1 (s.setPred p v))
    let res := fun v => Host.Outcome.next (ended s 1 (s.setReg d v))
    (Ready s 1 [] [p, q, r] → exec (.pand p q r) s = put (s.pred q && s.pred r) ∧
      exec (.por p q r) s = put (s.pred q || s.pred r) ∧ exec (.pxor p q r) s = put (s.pred q != s.pred r) ∧
      exec (.pandn p q r) s = put (s.pred q && !s.pred r)) ∧
    (Ready s 1 [d] [p] → exec (.ptos d p) s = res (if s.pred p then 1 else 0)) ∧
    (Ready s 1 [a] [p] → exec (.stop p a) s = put (decide (s.reg a ≠ 0))) ∧
    (Ready s 1 [d, a, b] [p] → exec (.sel d a b p) s = res (if s.pred p then s.reg a else s.reg b)) ∧
    ∀ ps : List (BitVec 5), (∀ p, p ∈ ps) →
      (Ready s 1 [d] ps → ∃ v : Word, exec (.prd d) s = .next (ended s 1 (s.setReg d v)) ∧
        ∀ i : Nat, v.getLsbD i = (decide (i < 32) && s.pred (BitVec.ofNat 5 i))) ∧
      (Ready s 1 [a] ps → ∃ c : Ctx, exec (.pwr a) s = .next (ended s 1 (s.setCx s.core.cur c)) ∧
        { c with p := (issuer s).p } = issuer s ∧ ∀ p : BitVec 5, c.pred p = (decide (p = 0) || (s.reg a).getLsbD p.toNat))

/-- s0 reads zero, p0 reads true and m0 is all-true; a write of any of them leaves the machine as it is, and a write of another
register is what it then reads (R5). -/
def Obligations.HardwiredRegisters : Prop :=
  ∀ (s : State) (r : BitVec 6) (p : BitVec 5) (m k : BitVec 3) (v : Word) (b : Bool),
    s.reg 0 = 0 ∧ s.pred 0 = true ∧ (issuer s).mask 0 = BitVec.allOnes 64 ∧ (s.setReg 0 v).cx s.core.cur = issuer s ∧
    (s.setPred 0 b).cx s.core.cur = issuer s ∧ (issuer s).putMask 0 k v = issuer s ∧
    (r ≠ 0 → (s.setReg r v).reg r = v ∧ ∀ q, q ≠ r → (s.setReg r v).reg q = s.reg q) ∧
    (p ≠ 0 → (s.setPred p b).pred p = b ∧ ∀ q, q ≠ p → (s.setPred p b).pred q = s.pred q) ∧
    (m ≠ 0 → (∀ l < 64, (((issuer s).putMask m k v).mask m).getLsbD l = if ((issuer s).mask k).getLsbD l then v.getLsbD l else
        ((issuer s).mask m).getLsbD l) ∧ ∀ q, q ≠ m → ((issuer s).putMask m k v).mask q = (issuer s).mask q)

/-- An instruction that names a pending register waits, and nothing of it happens (R51, R196): its context keeps every
register, and its PC stays. It waits for flag 15 of R337; a load whose destination is pending shows flag 9 while a watermark keeps
it too (R203, R336). -/
def Obligations.PendingOperandsHoldTheInstruction : Prop :=
  ∀ (s : State) (d a b : BitVec 6) (p : BitVec 5) (n : BitVec 1) (i o : BitVec 14) (c f : BitVec 4) (l : BitVec 42) (w : BitVec 1),
    (∀ j ∈ [Instr.add d a b, .sub d a b, .mul d a b, .div d a b, .adds d a b, .sra d a b, .aadd d a b w, .acas d a b w],
        hazard s [d, a, b] [] = true → exec j s = .next (waiting s 15)) ∧
    (∀ j ∈ [Instr.addi d a i, .popc d a, .jalr d a, .slotst d a, .crr d a],
        hazard s [d, a] [] = true → exec j s = .next (waiting s 15)) ∧
    (∀ j ∈ [Instr.vldd d a b, .ldbx d a b], (hazard s [a, b] [] = true → exec j s = .next (waiting s 15)) ∧
        (hazard s [d, a, b] [] = true → exec j s = .next (waiting s 15) ∨ exec j s = .next (waiting s 9))) ∧
    (hazard s [a] [] = true → exec (.ldd d a o) s = .next (waiting s 15)) ∧
    (hazard s [d, a] [] = true → exec (.ldd d a o) s = .next (waiting s 15) ∨ exec (.ldd d a o) s = .next (waiting s 9)) ∧
    (hazard s [a, b] [p] = true → exec (.cmp p n a b c f) s = .next (waiting s 15)) ∧
    (hazard s [a, d] [] = true → exec (.std a d o) s = .next (waiting s 15)) ∧
    (hazard s [d] [] = true → exec (.li d l) s = .next (waiting s 15)) ∧
    (waiting s 15).mem = s.mem ∧ (waiting s 15).pkg = s.pkg ∧
    { (waiting s 15).cx s.core.cur with wait := (issuer s).wait } = issuer s

/-! ### Frames of the integer and predicate instructions -/

/-- What the integer, immediate and predicate instructions leave unchanged: every register but the destination, and
everything that `OnlyRegisters` names, memory byte by byte. -/
def Obligations.IntegerInstructionsFrame : Prop :=
  ∀ (s t : State) (d a b : BitVec 6) (i : BitVec 14) (n : BitVec 6) (l : BitVec 42) (u : BitVec 22) (p q r : BitVec 5),
    (∀ j ∈ [Instr.add d a b, .sub d a b, .and d a b, .or d a b, .xor d a b, .andn d a b, .sll d a b, .srl d a b, .sra d a b,
        .ror d a b, .min d a b, .max d a b, .minu d a b, .maxu d a b, .addw d a b, .subw d a b, .adds d a b, .subs d a b,
        .mul d a b, .mulh d a b, .mulhu d a b, .mulhsu d a b, .div d a b, .divu d a b, .rem d a b, .remu d a b,
        .clz d a, .ctz d a, .popc d a, .sextb d a, .sexth d a, .sextw d a, .zextw d a, .bswap d a, .rdstr d,
        .addi d a i, .andi d a i, .ori d a i, .xori d a i, .muli d a i, .slli d a n, .srli d a n, .srai d a n,
        .ptos d p, .sel d a b p],
      Ready s 1 [d, a, b] [p] → exec j s = .next t →
        OnlyRegisters s t ∧ (∀ k, k ≠ d → t.reg k = s.reg k) ∧ ∀ k, t.pred k = s.pred k) ∧
    (∀ j ∈ [Instr.li d l, .addli d a l, .liu d a u], Ready s 2 [d, a] [] → exec j s = .next t →
        OnlyRegisters s t ∧ (∀ k, k ≠ d → t.reg k = s.reg k) ∧ ∀ k, t.pred k = s.pred k) ∧
    (∀ j ∈ [Instr.pand p q r, .por p q r, .pxor p q r, .pandn p q r, .stop p a], Ready s 1 [a] [p, q, r] → exec j s = .next t →
        OnlyRegisters s t ∧ (∀ k, t.reg k = s.reg k) ∧ ∀ k, k ≠ p → t.pred k = s.pred k)

/-! ### Control transfers and hardware loops -/

/-- BR and CALL (R159): taken when p[p] xor N, to the PC plus off20 slots (R138), where the target passes the arrival test;
else the next instruction; a taken CALL writes the address of the next instruction to s63. JMP and JALR: the PC becomes s[a],
read before s[d] receives the address of the next instruction. A taken BR or CALL whose target fails the test does not retire: it
takes the fault of the test, TARGET with its kind (R372). -/
def Obligations.TransfersOfControl : Prop :=
  ∀ (s : State) (p : BitVec 5) (n : BitVec 1) (o : BitVec 20) (d a : BitVec 6),
    let t := slotAdd (curPc s) o.toInt
    let link := (slotAdd (curPc s) 1).setWidth 64
    (hazard s [] [p] = false → s.pred p ≠ (n == 1) → targetCheck s s.core.cur t = none →
      exec (.br p n o) s = .next (arrived s t)) ∧
    (hazard s [63] [p] = false → s.pred p ≠ (n == 1) → targetCheck s s.core.cur t = none →
      exec (.call p n o) s = .next (arrived (s.setReg 63 link) t)) ∧
    (∀ f : Flt, s.pred p ≠ (n == 1) → targetCheck s s.core.cur t = some f →
      (hazard s [] [p] = false → exec (.br p n o) s = .next (trapped s f.cause f.val)) ∧
      (hazard s [63] [p] = false → exec (.call p n o) s = .next (trapped s f.cause f.val))) ∧
    (Ready s 1 [] [p] → s.pred p = (n == 1) → exec (.br p n o) s = .next (ended s 1 s)) ∧
    (Ready s 1 [63] [p] → s.pred p = (n == 1) → exec (.call p n o) s = .next (ended s 1 s)) ∧
    (let u := (s.reg a).setWidth 56
     targetCheck s s.core.cur u = none →
       (hazard s [a] [] = false → exec (.jmp a) s = .next (arrived s u)) ∧
       (hazard s [d, a] [] = false → exec (.jalr d a) s = .next (arrived (s.setReg d link) u)))

/-- A transfer to a word that no header allows takes TARGET (R134, R372): kind 3 where the address is malformed, 1 where its
branch-target bit is 0, 2 where its start-map bit is 0, and no register is written. -/
def Obligations.ArrivalTest : Prop :=
  ∀ (s : State) (a d : BitVec 6) (f : Flt), hazard s [d, a] [] = false → hazard s [a] [] = false →
    let t := (s.reg a).setWidth 56
    (targetCheck s s.core.cur t = some f →
      exec (.jmp a) s = .next (trapped s f.cause f.val) ∧ exec (.jalr d a) s = .next (trapped s f.cause f.val)) ∧
    ((t.toNat % 4 ≠ 0 ∨ t.toNat % 128 < 8) → targetCheck s s.core.cur t = some ⟨0x03, 3#8 ++ t⟩) ∧
    (∀ (p : BitVec 52) (l : BitVec 1024), t.toNat % 4 = 0 → 8 ≤ t.toNat % 128 → fetchLine s s.core.cur t = .ok (p, l) →
      l.getLsbD 62 = false → l.getLsbD 63 = false →
        let i := (t.toNat % 128 - 8) / 4
        targetCheck s s.core.cur t =
          if l.getLsbD (32 + i) = false then some ⟨0x03, 1#8 ++ t⟩
          else if l.getLsbD i = false then some ⟨0x03, 2#8 ++ t⟩ else none)

/-- The end step of the hardware loops (R162), level 0 before level 1: an active level whose final instruction ends counts
down; while it is not spent the PC goes to its start, and a spent level becomes inactive. NOP does nothing but end (R153); where
a back-edge fails the arrival test the instruction does not retire, and TARGET is taken (R372). LOOP (R161, R376) arms level l with
the count of s[a], at most 2^32 − 1, from the next instruction to the one imm14 slots on; with a count of 0 it goes past that
instruction, and the level stays as it is. TARGET of a back-edge at the instruction comes before any rule that it breaks, unless it
would not reach its end step; MISUSE 0x19 for a wrong nesting comes before the fault of a line that cannot be read
(R368). -/
def Obligations.HardwareLoops : Prop :=
  ((∀ (c : Ctx) (pc next : VAddr),
     let l0 := c.loops.get 0
     let l1 := c.loops.get 1
     let at0 := l0.act = true ∧ l0.fin = pc
     let at1 := l1.act = true ∧ l1.fin = pc
     (at0 → l0.count ≠ 1 → endStep c pc next = ({ c with loops := c.loops.set 0 { l0 with count := l0.count - 1 } }, l0.start, true)) ∧
     (¬ at0 → at1 → l1.count ≠ 1 →
       endStep c pc next = ({ c with loops := c.loops.set 1 { l1 with count := l1.count - 1 } }, l1.start, true)) ∧
     (at0 → l0.count = 1 → at1 → l1.count ≠ 1 → endStep c pc next =
       ({ c with loops := (c.loops.set 0 { l0 with count := 0, act := false }).set 1 { l1 with count := l1.count - 1 } }, l1.start, true)) ∧
     (at0 → l0.count = 1 → at1 → l1.count = 1 → endStep c pc next =
       ({ c with loops := (c.loops.set 0 { l0 with count := 0, act := false }).set 1 { l1 with count := 0, act := false } }, next, false)) ∧
     (at0 → l0.count = 1 → ¬ at1 →
       endStep c pc next = ({ c with loops := c.loops.set 0 { l0 with count := 0, act := false } }, next, false)) ∧
     (¬ at0 → at1 → l1.count = 1 →
       endStep c pc next = ({ c with loops := c.loops.set 1 { l1 with count := 0, act := false } }, next, false)) ∧
     (¬ at0 → ¬ at1 → endStep c pc next = (c, next, false))) ∧
   ∀ (s : State) (f : Flt) (d a b : BitVec 6),
     (endFault s 1 = none → exec .nop s = .next (ended s 1 s)) ∧
     (endFault s 1 = some f → exec .nop s = .next (trapped s f.cause f.val)) ∧
     (endFault s 1 = some f → hazard s [d, a, b] [] = false → exec (.add d a b) s = .next (trapped s f.cause f.val))) ∧
  (∀ (s : State) (l : BitVec 1) (a : BitVec 6) (i : BitVec 14) (w : Nat),
     let t := slotAdd (curPc s) i.toInt
     let n := min (s.reg a).toNat (2 ^ 32 - 1)
     hazard s [a] [] = false →
     (startsInstr s t = .ok (true, w) →
       (n = 0 → exec (.loop l a i) s = .next (arrived s (slotAdd t w))) ∧
       (n ≠ 0 → nestOk (issuer s) l t = true →
         let c := { issuer s with loops :=
           (issuer s).loops.setIfInBounds l.toNat ⟨true, BitVec.ofNat 32 n, slotAdd (curPc s) 1, t⟩ }
         let e := endStep c (curPc s) (slotAdd (curPc s) 1)
         e.2.2 = false ∨ targetCheck s s.core.cur e.2.1 = none →
           exec (.loop l a i) s = .next ((s.setCx s.core.cur e.1).issued e.2.1)) ∧
       (n ≠ 0 → nestOk (issuer s) l t = false →
         exec (.loop l a i) s = .next (raised s 1 0x06 (0#48 ++ BitVec.ofNat 8 l.toNat ++ 0x19#8)))) ∧
     (startsInstr s t = .ok (false, w) → ∃ v : BitVec 32, v = BitVec.ofNat 32 (slotOf t) ∧
       (n = 0 → exec (.loop l a i) s = .next (trapped s 0x06 (0#16 ++ v ++ 0x18#16))) ∧
       (n ≠ 0 → exec (.loop l a i) s = .next (raised s 1 0x06 (0#16 ++ v ++ 0x18#16)))) ∧
     ∀ f : Flt, startsInstr s t = .error f → f.cause ≠ 0 →
       (n = 0 → exec (.loop l a i) s = .next (trapped s f.cause f.val)) ∧
       (n ≠ 0 → nestOk (issuer s) l t = true → exec (.loop l a i) s = .next (raised s 1 f.cause f.val)) ∧
       (n ≠ 0 → nestOk (issuer s) l t = false →
         exec (.loop l a i) s = .next (raised s 1 0x06 (0#48 ++ BitVec.ofNat 8 l.toNat ++ 0x19#8))))



/-! ### Loads, stores and atomics -/

/-- The load forms (R164 to R166): address modulo 2^56, size, extension, class; with 2048 requests of the core outstanding they
wait (R21). -/
def Obligations.LoadsEnterTheLoadQueue : Prop :=
  ∀ (s : State) (d a b : BitVec 6) (o : BitVec 14),
    let off := fun (n : Nat) => (s.reg b + BitVec.ofInt 64 (o.toInt * 2 ^ n)).setWidth 56
    let idx : VAddr := (s.reg a + s.reg b).setWidth 56
    ∀ e ∈ [(Instr.ldd d b o, off 3, (3 : Fin 4), true, false), (.ldw d b o, off 2, 2, true, false),
        (.ldbx d a b, idx, 0, true, false), (.ldbux d a b, idx, 0, false, false), (.ldhx d a b, idx, 1, true, false),
        (.ldhux d a b, idx, 1, false, false), (.ldwx d a b, idx, 2, true, false), (.ldwux d a b, idx, 2, false, false),
        (.vldb d a b, idx, 0, false, true), (.vldh d a b, idx, 1, false, true), (.vldw d a b, idx, 2, false, true),
        (.vldd d a b, idx, 3, false, true)],
      let (i, va, n, sext, vol) := e
      ∀ t : Tr, Ready s 1 [d, a, b] [] → accCheck s 1 n.val va = .ok t → wmStall (issuer s) va.toNat (2 ^ n.val) = false →
        ndHold s t.pa.toNat = false →
        let x : Acc := { newAcc s .read va t n vol with dest := some d, sext := sext }
        (accFull s = false →
          exec i s = .next (ended s 1 (pushAcc s va t { x with due := if x.vol then none else landingCycle s t.pa.toNat }))) ∧
        (accFull s = true → exec i s = .next (waiting s 15))

/-- The store forms (R164 to R166): the low bytes of s[s] enter the store queue; a store that hits a watchpoint writes its
record first (R343). -/
def Obligations.StoresEnterTheStoreQueue : Prop :=
  ∀ (s : State) (r a b : BitVec 6) (o : BitVec 14),
    let off := fun (n : Nat) => (s.reg b + BitVec.ofInt 64 (o.toInt * 2 ^ n)).setWidth 56
    let idx : VAddr := (s.reg a + s.reg b).setWidth 56
    ∀ e ∈ [(Instr.std r b o, off 3, (3 : Fin 4), false), (.stw r b o, off 2, 2, false), (.stbx r a b, idx, 0, false),
        (.sthx r a b, idx, 1, false), (.stwx r a b, idx, 2, false), (.vstb r a b, idx, 0, true), (.vsth r a b, idx, 1, true),
        (.vstw r a b, idx, 2, true), (.vstd r a b, idx, 3, true)],
      let (i, va, n, vol) := e
      ∀ t : Tr, Ready s 1 [r, a, b] [] → accCheck s 2 n.val va = .ok t → chainHit (issuer s) va.toNat (2 ^ n.val) = false →
        wmForbids (issuer s) va.toNat (2 ^ n.val) = false → ndHold s t.pa.toNat = false → accFull s = false →
        let x := newAcc s (.write (s.reg r)) va t n vol
        (dwAll s t.pa.toNat (2 ^ n.val) false = [] → exec i s = .next (ended s 1 (pushAcc s va t x))) ∧
        (dwStops s t.pa.toNat (2 ^ n.val) false = false → exec i s =
          .next (ended s 1 (pushAcc (dwCheck s t.pa.toNat (2 ^ n.val) (accWriter s s.core.cur 1 x)) va t x)))

/-- The atomics (R119, R167): 8 bytes, or 4 with W = 1, at s[a], with operand s[b] and, for ACAS, comparand s[d]. -/
def Obligations.AtomicsEnterTheirQueue : Prop :=
  ∀ (s : State) (d a b : BitVec 6) (w : BitVec 1) (t : Tr),
    let va : VAddr := (s.reg a).setWidth 56
    let n : Fin 4 := if w = 1 then 2 else 3
    Ready s 1 [d, a, b] [] → accCheck s 3 n.val va = .ok t → chainHit (issuer s) va.toNat (2 ^ n.val) = false →
      ndHold s t.pa.toNat = false → accFull s = false →
      ∀ e ∈ [(Instr.aswp d a b w, AtomOp.swp), (.aadd d a b w, .add), (.aand d a b w, .and), (.aor d a b w, .or),
          (.axor d a b w, .xor), (.amax d a b w, .max), (.amin d a b w, .min), (.amaxu d a b w, .maxu),
          (.aminu d a b w, .minu), (.acas d a b w, .cas)],
        exec e.1 s = .next (ended s 1 (pushAcc s va t
          { newAcc s (.atomic e.2 (s.reg b) (s.reg d)) va t n false with dest := some d, sext := decide (w = 1) }))

/-- A misaligned access outside the pinned set takes ALIGN precisely, cause 0x10, with the access kind and the address in
TVAL (R389, R390): kind 1 a load, 2 a store, 3 an atomic; a failing back-edge at it comes first (R368). -/
def Obligations.MisalignedAccessesTrap : Prop :=
  ∀ (s : State) (d a b : BitVec 6) (o : BitVec 14) (w : BitVec 1), hazard s [d, a, b] [] = false →
    let off := fun (n : Nat) => (s.reg b + BitVec.ofInt 64 (o.toInt * 2 ^ n)).setWidth 56
    let idx : VAddr := (s.reg a + s.reg b).setWidth 56
    let at0 : VAddr := (s.reg a).setWidth 56
    let m := if w = 1 then 4 else 8
    ∀ e ∈ [(Instr.ldd d b o, off 3, 8, 1), (.ldw d b o, off 2, 4, 1), (.ldhx d a b, idx, 2, 1), (.ldhux d a b, idx, 2, 1),
        (.ldwx d a b, idx, 4, 1), (.ldwux d a b, idx, 4, 1), (.vldh d a b, idx, 2, 1), (.vldw d a b, idx, 4, 1),
        (.vldd d a b, idx, 8, 1), (.std d b o, off 3, 8, 2), (.stw d b o, off 2, 4, 2), (.sthx d a b, idx, 2, 2),
        (.stwx d a b, idx, 4, 2), (.vsth d a b, idx, 2, 2), (.vstw d a b, idx, 4, 2), (.vstd d a b, idx, 8, 2),
        (.aswp d a b w, at0, m, 3), (.aadd d a b w, at0, m, 3), (.aand d a b w, at0, m, 3), (.aor d a b w, at0, m, 3),
        (.axor d a b w, at0, m, 3), (.amax d a b w, at0, m, 3), (.amin d a b w, at0, m, 3), (.amaxu d a b w, at0, m, 3),
        (.aminu d a b w, at0, m, 3), (.acas d a b w, at0, m, 3), (.scpost a b, at0, 8, 3), (.scwait a b, at0, 8, 1)],
      let (i, va, n, k) := e
      va.toNat % n ≠ 0 → inPins (issuer s) va = none → exec i s = .next (raised s 1 0x10 (BitVec.ofNat 8 k ++ va))

/-- What loads, stores and atomics leave unchanged when their access has entered its queue: every byte of memory (a store or
an atomic reaches memory when it is performed) and every register; and where no watchpoint is set, the package, the other
contexts, and every special register, bank and slot. -/
def Obligations.AccessInstructionsFrame : Prop :=
  ∀ (s t : State) (d a b : BitVec 6) (o : BitVec 14) (w : BitVec 1), Ready s 1 [d, a, b] [] →
    ∀ i ∈ [Instr.ldd d b o, .ldw d b o, .std d b o, .stw d b o, .ldbx d a b, .ldbux d a b, .ldhx d a b, .ldhux d a b,
        .ldwx d a b, .ldwux d a b, .stbx d a b, .sthx d a b, .stwx d a b, .vldb d a b, .vldh d a b, .vldw d a b, .vldd d a b,
        .vstb d a b, .vsth d a b, .vstw d a b, .vstd d a b, .aswp d a b w, .aadd d a b w, .aand d a b w, .aor d a b w,
        .axor d a b w, .amax d a b w, .amin d a b w, .amaxu d a b w, .aminu d a b w, .acas d a b w],
      exec i s = .next t → (t.cx s.core.cur).nextAcc = (issuer s).nextAcc + 1 →
        (∀ p, byteAt t p = byteAt s p) ∧
        (∀ k, (t.cx s.core.cur).reg k = s.reg k) ∧ (∀ k, (t.cx s.core.cur).pred k = s.pred k) ∧
        ((∀ k < 16, (ctl s (oDwp k)).getLsbD 0 = false) →
          t.pkg = s.pkg ∧ (∀ y, y ≠ s.core.cur → t.cx y = s.cx y) ∧
          (let k := s.core
           { t.core with ctx := k.ctx, tlb := k.tlb, stlb := k.stlb, last := k.last, tried := k.tried, exp := k.exp } = k) ∧
          (let c := issuer s
           { t.cx s.core.cur with
             acc := c.acc, nextAcc := c.nextAcc, pc := c.pc, loops := c.loops, issue := c.issue, wait := c.wait,
             landing := c.landing, prevMode := c.prevMode } = c))

/-! ### Accesses performed and landed -/

/-- ACCESS_PERFORM_AT_HOME of a store to memory (R107, R110): it leaves its queue, and those before it with it; the bytes at its
physical address become the low bytes of the data, no other byte changes, and the access is gone. -/
def Obligations.StorePerformedWritesItsBytes : Prop :=
  ∀ (s : State) (x : CtxId) (id : Nat) (a : Acc) (v : Word),
    (s.cx x).acc.find? (·.id == id) = some a → a.op = .write v → mayPerform (s.cx x) a = true →
    let c := (s.cx x).leave (leavers (s.cx x) a)
    sectionFor (s.setCx x c) x a.pa.toNat = (s.setCx x c, true) → portOf a.home = none →
    (rowOf a.pa.toNat ≠ .ctl ∧ rowOf a.pa.toNat ≠ .peer ∧ ∀ i, rowOf a.pa.toNat ≠ .root i) →
    ∃ t, exec (.accessPerformAtHome (.ctx x id)) s = .next t ∧
      (∀ k < a.size, byteAt t (a.pa.toNat + k) = (v >>> (8 * k)).setWidth 8) ∧
      (∀ p, (p < a.pa.toNat ∨ a.pa.toNat + a.size ≤ p) → byteAt t p = byteAt s p) ∧
      t.cx x = c.dropAcc a.id ∧ (∀ y, y ≠ x → t.cx y = s.cx y) ∧ t.core.banks = s.core.banks ∧ t.core.slots = s.core.slots

/-- The operations of the atomics on `n` bytes (R167), signed and unsigned orders apart; and ACCESS_PERFORM_AT_HOME of an atomic
on memory that no watchpoint covers (R119): one indivisible step reads the old value and writes the new one, and the access
waits to land with the old value. -/
def Obligations.AtomicPerformedIsIndivisible : Prop :=
  (∀ (n : Nat) (old v cmp : Word), n = 4 ∨ n = 8 →
    let m := fun (w : Word) => w.toNat % 2 ^ (8 * n)
    let i := fun (w : Word) => (w.setWidth (8 * n)).toInt
    (atomNew .swp n old v cmp).toNat = m v ∧
    (atomNew .add n old v cmp).toNat = (m old + m v) % 2 ^ (8 * n) ∧
    (atomNew .and n old v cmp).toNat = m old &&& m v ∧
    (atomNew .or n old v cmp).toNat = m old ||| m v ∧
    (atomNew .xor n old v cmp).toNat = m old ^^^ m v ∧
    (atomNew .max n old v cmp).toNat = (if i old < i v then m v else m old) ∧
    (atomNew .min n old v cmp).toNat = (if i v < i old then m v else m old) ∧
    (atomNew .maxu n old v cmp).toNat = max (m old) (m v) ∧
    (atomNew .minu n old v cmp).toNat = min (m old) (m v) ∧
    (atomNew .cas n old v cmp).toNat = (if m old = m cmp then m v else m old)) ∧
  ∀ (s : State) (x : CtxId) (id : Nat) (a : Acc) (op : AtomOp) (v cmp : Word),
    (s.cx x).acc.find? (·.id == id) = some a → a.op = .atomic op v cmp → mayPerform (s.cx x) a = true →
    let c := (s.cx x).leave (leavers (s.cx x) a)
    sectionFor (s.setCx x c) x a.pa.toNat = (s.setCx x c, true) → portOf a.home = none → poisoned s a.pa.toNat a.size = false →
    (rowOf a.pa.toNat ≠ .ctl ∧ rowOf a.pa.toNat ≠ .peer ∧ ∀ i, rowOf a.pa.toNat ≠ .root i) →
    dwAll s a.pa.toNat a.size true = [] →
    let old := readMem s a.pa.toNat a.size
    ∃ t, exec (.accessPerformAtHome (.ctx x id)) s = .next t ∧
      (∀ k < a.size, byteAt t (a.pa.toNat + k) = (atomNew op a.size old v cmp >>> (8 * k)).setWidth 8) ∧
      (∀ p, (p < a.pa.toNat ∨ a.pa.toNat + a.size ≤ p) → byteAt t p = byteAt s p) ∧
      t.cx x = c.modAcc a.id (fun a => { a with done := true, left := true, val := old })

/-- ACCESS_PERFORM_AT_HOME of a load of memory (R107, R112): it takes the bytes at its home, or what a pending store of its context
forwards, without a read of its home; and the LOAD_LANDING of a performed access (R52): the destination takes the value, sign- or zero-extended, and nothing
else of the machine changes. With a repair entry written since its issue it goes to the register row of then (R174; entry 101). -/
def Obligations.LoadPerformsThenLands : Prop :=
  ∀ (s : State) (x : CtxId) (id : Nat) (a : Acc), (s.cx x).acc.find? (·.id == id) = some a →
    (a.op = .read → mayPerform (s.cx x) a = true →
      let c := (s.cx x).leave (leavers (s.cx x) a)
      let took := fun (c : Ctx) (v : Word) => Host.Outcome.next (s.setCx x
        (c.modAcc a.id fun a => { a with done := true, left := true, val := v }))
      (clear (s.cx x) a = true → sectionFor (s.setCx x c) x a.pa.toNat = (s.setCx x c, true) → forwarded (before c.acc a.id) a = none →
        poisoned s a.pa.toNat a.size = false → (rowOf a.pa.toNat ≠ .ctl ∧ rowOf a.pa.toNat ≠ .peer ∧ ∀ i, rowOf a.pa.toNat ≠ .root i) →
        exec (.accessPerformAtHome (.ctx x id)) s = took c (BitVec.ofNat 64 (ofBytes (memRead s.mem a.pa.toNat a.size)))) ∧
      (∀ v, clear (s.cx x) a = false → forwarded (before (s.cx x).acc a.id) a = some v →
        exec (.accessPerformAtHome (.ctx x id)) s = took (s.cx x) v)) ∧
    (∀ d : BitVec 6, a.dest = some d → a.test = none → a.done = true → (∀ n, a.due = some n → n ≤ (s.cx x).issue) →
      let v := if a.sext then (a.val.setWidth (8 * a.size)).signExtend 64 else a.val
      (a.row = none → exec (.loadLanding x id) s = .next (s.modCx x fun c => (c.dropAcc a.id).setReg d v)) ∧
      ∀ r, a.row = some r → exec (.loadLanding x id) s = .next ((setRow s x d r v).modCx x (·.dropAcc a.id)))

/-! ### MARK and the near-DRAM commands -/

/-- MARK (R114, R126): waits until the accesses have left their queues and those with a home in scope are performed; at system
scope, once they are on their way, the root ports that the context has written are asked for a zero-length read, and it waits
for them. And ACT, PRE and REF on a bank that is manual for the context (R99, R169), once its accesses to the bank are performed
and the bank's timing allows it: ACT opens the row, PRE closes it, REF refreshes the next row and keeps the bank busy for 110 ns,
and the errors it corrects there are counted (R408). -/
def Obligations.MarkAndNearDramCommands : Prop :=
  (∀ (s : State) (n : BitVec 6), endFault s 1 = none →
    let c := issuer s
    let within := fun (a : Acc) => inScope s n.toNat a.home
    let ready := canLeave c = true ∧ ∀ a ∈ c.acc, within a = true → a.done = true ∨ a.sent = true
    (¬ ready → exec (.mark n) s = .next (waiting s 15)) ∧
    (ready → n = 5 → c.rootW ≠ 0 → ∃ u, exec (.mark n) s = .next (waiting u 15) ∧ u.mem = s.mem ∧
      (u.cx s.core.cur).zlr = c.zlr ||| c.rootW ∧ { u.cx s.core.cur with zlr := c.zlr } = c ∧
      ∀ i : Fin 4, c.rootW.getLsbD i = true → c.zlr.getLsbD i = false → OutMsg.zeroRead i ∈ u.pkg.out) ∧
    (ready → (n = 5 → c.rootW = 0) → (∃ a ∈ c.acc, within a = true ∧ a.done = false) → exec (.mark n) s = .next (waiting s 15)) ∧
    (ready → (n = 5 → c.rootW = 0) → (∀ a ∈ c.acc, within a = true → a.done = true) →
      ∃ d : Ctx, exec (.mark n) s = .next (ended s 1 (s.setCx s.core.cur d)) ∧ (∀ a ∈ d.acc, a.left = true ∨ a.done = true) ∧
        { d with acc := c.acc, nextOrd := c.nextOrd } = c ∧
        d.acc.map (fun a => { a with left := true, ord := 0 }) = c.acc.map fun a => { a with left := true, ord := 0 })) ∧
  ∀ (s : State) (a : BitVec 6) (i : Nat) (row : BitVec 13), Ready s 1 [a] [] → ndTarget s a = .ok (i, row) →
    bankBusy s i = false →
    let b := ndBank s i
    let n := s.pkg.stroke
    b.busy.toNat ≤ n.toNat →
    (b.row = none → b.preAt.toNat + 12 ≤ n.toNat →
      exec (.act a) s = .next (ended s 1 (setNd s i { b with row := some row, actAt := n }))) ∧
    (b.row = none ∨ b.actAt.toNat + 32 ≤ n.toNat →
      exec (.pre a) s = .next (ended s 1 (setNd s i { b with row := none, preAt := n })) ∧
      ∃ k ≤ 256, exec (.ref a) s = .next (ended s 1 (countCEs (setNd s i { b with
        row := none, preAt := if b.row = none then b.preAt else n, refrow := b.refrow + 1, refAt := n, busy := n + 110 }) 1 k))) ∧
    (b.row ≠ none → exec (.act a) s = .next (trapped s 0x15 (ndVal 3 i row 0)))


/-! ### Tokens, counters, chains, watermarks -/

/-- TKWAIT, TKSEND and TKCNT (R41, R195): a token is taken or added, one at a time, a queue holding at most 15. One that names
no engine, or TKCNT with a queue that does not exist, takes SYNC precisely with its word in TVAL (R379). -/
def Obligations.TokenInstructions : Prop :=
  ∀ (s : State) (e d a b : BitVec 6),
    let c := issuer s
    let k := fun (f : Ctx → Ctx) => Host.Outcome.next (ended s 1 (s.modCx s.core.cur f))
    (endFault s 1 = none → 1 ≤ e.toNat → e.toNat ≤ 6 →
      (c.tokens e.toNat 0 ≠ 0 → exec (.tkwait e) s = k (·.setTokens e.toNat 0 (c.tokens e.toNat 0 - 1))) ∧
      (c.tokens e.toNat 0 = 0 → exec (.tkwait e) s = .next (waiting s e.toNat)) ∧
      (c.tokens 0 e.toNat < 15 → (∀ x ∈ c.acc, x.done = true) →
        exec (.tksend e) s = k (·.setTokens 0 e.toNat (c.tokens 0 e.toNat + 1))) ∧
      (c.tokens 0 e.toNat = 15 → exec (.tksend e) s = .next (waiting s 7))) ∧
    (Ready s 1 [d] [] → a.toNat ≤ 6 → b.toNat ≤ 6 → a ≠ b →
      exec (.tkcnt d a b) s = .next (ended s 1 (s.setReg d (BitVec.ofNat 64 (c.tokens a.toNat b.toNat))))) ∧
    (∀ i j n : Nat, i < 7 → j < 7 → n < 16 → (c.setTokens i j n).tokens i j = n ∧
      ∀ p q, p < 7 → q < 7 → (p, q) ≠ (i, j) → (c.setTokens i j n).tokens p q = c.tokens p q) ∧
    (let word := fun (d a b : BitVec 6) (f : BitVec 8) => (0x28#6 ++ d ++ a ++ b ++ f).setWidth 64
     (e = 0 ∨ 7 ≤ e.toNat → exec (.tkwait e) s = .next (raised s 1 0x07 (word 0 0 e 0)) ∧
       exec (.tksend e) s = .next (raised s 1 0x07 (word 0 0 e 1))) ∧
     (7 ≤ a.toNat ∨ 7 ≤ b.toNat ∨ a = b → hazard s [d] [] = false → exec (.tkcnt d a b) s = .next (raised s 1 0x07 (word d a b 2))))

/-- Sequence counters (R198): SCPOST enters an atomic add that waits for every earlier access; SCTEST a read at home that
writes p[d]; SCWAIT ends once the counter has reached s[b], and waits before. -/
def Obligations.SequenceCounters : Prop :=
  ∀ (s : State) (a b : BitVec 6) (p : BitVec 5) (t : Tr),
    let va : VAddr := (s.reg a).setWidth 56
    (Ready s 1 [a, b] [] → accCheck s 3 3 va = .ok t → chainHit (issuer s) va.toNat 8 = false → ndHold s t.pa.toNat = false →
      accFull s = false → exec (.scpost a b) s = .next (ended s 1 (pushAcc s va t
        { newAcc s (.atomic .add (s.reg b) 0) va t 3 false with post := true }))) ∧
    (Ready s 1 [a, b] [p] → accCheck s 1 3 va = .ok t → ndHold s t.pa.toNat = false → accFull s = false →
      exec (.sctest p a b) s = .next (ended s 1 (pushAcc s va t
        { newAcc s .read va t 3 false with test := some (p, s.reg b) }))) ∧
    (Ready s 1 [a, b] [] → CanRead s va t 3 → (s.reg b).toNat ≤ (readMem s t.pa.toNat 8).toNat →
      exec (.scwait a b) s = .next (ended s 1 (readFill s va t))) ∧
    (hazard s [a, b] [] = false → CanRead s va t 3 → (readMem s t.pa.toNat 8).toNat < (s.reg b).toNat →
      exec (.scwait a b) s = .next (waiting (readFill s va t) 8))

/-- CKICK adds kicks up to 65535 (R197); CLINK appends a held link for the s[b] entries from s[a], which consumes that many
numbers (R200). WMWAIT and WMDIS on channel c (R202, R204): WMWAIT ends when the channel is disarmed or its watermark has reached
s[a]; WMDIS disarms it once its range is full. The header fields of the held link that R200 does not give, and that CTX.EFL.TSM is left
as it was, are the model's choice (entry 109). -/
def Obligations.ChainAndWatermarkInstructions : Prop :=
  (∀ (s : State) (a b : BitVec 6) (t : Tr),
    let n := (s.reg b).toNat
    let c := issuer s
    (Ready s 1 [a] [] → exec (.ckick a) s = .next (ended s 1 (s.modCx s.core.cur fun c =>
      { c with kick := BitVec.ofNat 16 (min (c.kick.toNat + (s.reg a).toNat) 65535) }))) ∧
    (Ready s 1 [a, b] [] → (s.reg a).toNat % 64 = 0 → 1 ≤ n → n ≤ 65535 → CanAppend s .cpe t →
      exec (.clink a b) s = .next (ended s 1 (appended s .cpe t
        (entryOf (BitVec.ofNat 64 (0xFE + 3 * 2 ^ 8 + (if c.world then 2 ^ 11 else 0) + 0xFFFF * 2 ^ 12)) ((s.eq s.core.cur .cpe).qlast + 1)
          (toBytes (s.reg a) 8 ++ toBytes (s.reg b) 8)) n
        (recorded s .cpe { Pend.plain with link := some ((s.reg a).setWidth 56, n) }))))) ∧
  ∀ (s : State) (a ch : BitVec 6), ch.toNat ≤ 7 →
    let w := (issuer s).wm.toList.getD ch.toNat 0
    let wm := w.toNat % 2 ^ 56
    let lim := ((issuer s).wmlim.toList.getD ch.toNat 0).toNat
    (Ready s 1 [a] [] → (w.getLsbD 63 = false ∨ (s.reg a).toNat ≤ wm) → exec (.wmwait a ch) s = .next (ended s 1 s)) ∧
    (hazard s [a] [] = false → w.getLsbD 63 = true → wm < (s.reg a).toNat → exec (.wmwait a ch) s = .next (waiting s 9)) ∧
    (endFault s 1 = none → (w.getLsbD 63 = false ∨ lim ≤ wm) →
      exec (.wmdis ch) s = .next (ended s 1 (s.modCx s.core.cur fun c =>
        { c with wm := c.wm.mapIdx fun j v => if j = ch.toNat then setFld v 63 0#1 else v }))) ∧
    (w.getLsbD 63 = true → wm < lim → exec (.wmdis ch) s = .next (waiting s 9))

/-! ### Watch entries -/

/-- WSET with a descriptor at s[a] that names a legal range (R208, R300): an entry that is FREE becomes ARMED for it and s[d]
receives its handle; with the table full s[d] receives all ones and nothing is installed. WDIS and WSTAT on a handle that
names a table and an index of it (R208, R309, R310): WDIS acts on that entry alone, WSTAT reads its state word, 0 for a FREE
entry. A malformed handle takes LIMIT. -/
def Obligations.WatchInstructions : Prop :=
  (∀ (s : State) (d a : BitVec 6) (t : Tr) (pa n : Nat),
    let va : VAddr := (s.reg a).setWidth 56
    let u := readFill s va t
    let bs := bytesAt s t.pa.toNat 64
    Ready s 1 [d, a] [] → CanRead s va t 6 → watchRange u s.core.cur bs = .ok pa → watchTable pa = some n →
      (freeEntry u n = none → exec (.wset d a) s = .next (ended s 1 (u.setReg d (BitVec.allOnes 64)))) ∧
      (∀ i, freeEntry u n = some i → ∃ w : Watch, w.tbl = n ∧ w.idx = i ∧ w.state = 1 ∧ w.pa = BitVec.ofNat 52 pa ∧
        w.lsize = dfield bs 8 1 ∧ w.ldesc = BitVec.ofNat 64 (dfield bs 24 8) ∧ w.live = 0 ∧ w.fires = 0 ∧
        (∀ v ∈ u.pkg.watch, ¬ (v.tbl = n ∧ v.idx = i)) ∧
        exec (.wset d a) s = .next (ended s 1 ((u.modPkg fun p => { p with watch := p.watch ++ [w] }).setReg d
          (BitVec.ofNat 64 (n * 2 ^ 16 + i)))))) ∧
  ∀ (s : State) (d a : BitVec 6),
    let h := s.reg a
    let hit := fun (w : Watch) => w.tbl = h.toNat / 2 ^ 16 % 2 ^ 8 ∧ w.idx = h.toNat % 2 ^ 16
    let ok := h.toNat < 2 ^ 24 ∧ h.toNat % 2 ^ 16 < watchSize (h.toNat / 2 ^ 16 % 2 ^ 8)
    (Ready s 1 [a] [] → ok → ∃ l : List Watch, exec (.wdis a) s = .next (ended s 1 (s.modPkg fun p => { p with watch := l })) ∧
      (∀ w, ¬ hit w → (w ∈ l ↔ w ∈ s.pkg.watch)) ∧
      (∀ w, hit w → (w ∈ l ↔ ∃ v ∈ s.pkg.watch, hit v ∧
        (v.state = 2 ∧ w = { v with wdis := true } ∨ v.state ≠ 2 ∧ v.live ≠ 0 ∧ w = { v with state := 3 })))) ∧
    (Ready s 1 [d, a] [] → ok → ∃ v : Word, exec (.wstat d a) s = .next (ended s 1 (s.setReg d v)) ∧
      ((∀ w ∈ s.pkg.watch, ¬ hit w) → v = 0) ∧
      (∀ w, s.pkg.watch.find? (fun w => decide (hit w)) = some w →
        v.toNat = w.state.toNat + (if w.live = 0 then 0 else 8) +
          (if w.state = 2 then min w.cnt.toNat 65535 else 0) * 2 ^ 16 + w.fires.toNat * 2 ^ 32)) ∧
    (¬ ok → (hazard s [a] [] = false → exec (.wdis a) s = .next (raised s 1 0x17 (h.setWidth 48 ++ 0x00FF#16))) ∧
      (hazard s [d, a] [] = false → exec (.wstat d a) s = .next (raised s 1 0x17 (h.setWidth 48 ++ 0x00FF#16))))

/-! ### Comb slots and accumulator banks -/

/-- CLAIM takes the lowest-numbered slot that is FREE and that no entry still names, CLAIMP the lowest even pair of such slots
(R211, R212, R380); with none it waits for flag 10. -/
def Obligations.ClaimsTakeTheLowestFreeSlots : Prop :=
  ∀ (s : State) (d : BitVec 6),
    let free := fun (i : Nat) => (s.slot (BitVec.ofNat 6 i)).state = 0 ∧ (heldSlots s).getLsbD i = false
    let mine := fun (u : State) (i : Nat) (p : Bool) =>
      u.slot (BitVec.ofNat 6 i) = { s.slot (BitVec.ofNat 6 i) with state := 1, own := s.core.cur, pair := p }
    (∀ i < 64, free i → (∀ j < i, ¬ free j) → Ready s 1 [d] [] →
      ∃ u : State, exec (.claim d) s = .next (ended s 1 (u.setReg d (BitVec.ofNat 64 i))) ∧ mine u i false ∧
        (∀ j < 64, j ≠ i → u.slot (BitVec.ofNat 6 j) = s.slot (BitVec.ofNat 6 j)) ∧ u.mem = s.mem ∧ u.pkg = s.pkg ∧
        { u.core with slots := s.core.slots } = s.core) ∧
    (∀ i < 32, free (2 * i) → free (2 * i + 1) → (∀ j < i, ¬ (free (2 * j) ∧ free (2 * j + 1))) → Ready s 1 [d] [] →
      ∃ u : State, exec (.claimp d) s = .next (ended s 1 (u.setReg d (BitVec.ofNat 64 (2 * i)))) ∧ mine u (2 * i) true ∧
        mine u (2 * i + 1) true ∧ (∀ j < 64, j ≠ 2 * i → j ≠ 2 * i + 1 → u.slot (BitVec.ofNat 6 j) = s.slot (BitVec.ofNat 6 j)) ∧
        u.mem = s.mem ∧ u.pkg = s.pkg ∧ { u.core with slots := s.core.slots } = s.core) ∧
    ((∀ i < 64, ¬ free i) → hazard s [d] [] = false → exec (.claim d) s = .next (waiting s 10)) ∧
    ((∀ i < 32, ¬ (free (2 * i) ∧ free (2 * i + 1))) → hazard s [d] [] = false → exec (.claimp d) s = .next (waiting s 10))

/-- RELS on a slot of the context (R211, R214): a CLAIMED or READY slot becomes FREE with its attributes cleared, a FILLING or
IN-USE one notes the release; a pair is released whole. SLOTST reads the state word of any slot (R213). That the owner check of RELS comes before its pair check
is the model's choice (entry 34). -/
def Obligations.SlotReleaseAndState : Prop :=
  ∀ (s : State) (d a : BitVec 6) (i : BitVec 6), (s.reg a).toNat = i.toNat →
    let v := s.slot i
    let gone := fun (w : Slot) => w.state = 0 ∧ w.own = 0 ∧ w.relp = false ∧ w.pair = false ∧ w.tag = 0 ∧ w.live = 0
    let released := fun (v w : Slot) =>
      ((v.state = 1 ∨ v.state = 3) → gone w) ∧ ((v.state = 2 ∨ v.state = 4) → w = { v with relp := true })
    (Ready s 1 [a] [] → v.state ≠ 0 → v.own = s.core.cur → (v.pair = false ∨ i.getLsbD 0 = false) →
      ∃ u : State, exec (.rels a) s = .next (ended s 1 u) ∧ released v (u.slot i) ∧
        (v.pair = true → released (s.slot (i + 1)) (u.slot (i + 1))) ∧
        (∀ j, j ≠ i → (v.pair = false ∨ j ≠ i + 1) → u.slot j = s.slot j) ∧ u.mem = s.mem ∧ u.pkg = s.pkg ∧
        { u.core with slots := s.core.slots } = s.core) ∧
    (hazard s [a] [] = false → (v.state = 0 ∨ v.own ≠ s.core.cur) → ∃ w, exec (.rels a) s =
      .next (raised s 1 0x06 w) ∧ w.toNat % 2 ^ 16 = 0x03 + i.toNat * 2 ^ 8) ∧
    (hazard s [a] [] = false → v.state ≠ 0 → v.own = s.core.cur → v.pair = true → i.getLsbD 0 = true →
      exec (.rels a) s = .next (raised s 1 0x06 (BitVec.ofNat 64 (0x02 + i.toNat * 2 ^ 8)))) ∧
    (Ready s 1 [d, a] [] → ∃ w : Word, exec (.slotst d a) s = .next (ended s 1 (s.setReg d w)) ∧
      w.toNat = v.state.toNat + v.own.val * 2 ^ 5 + (if v.relp then 2 ^ 7 else 0) + (if v.pair then 2 ^ 8 else 0) +
        v.tag.toNat * 2 ^ 16 + v.live.toNat * 2 ^ 32)

/-- ABANK takes the lowest-numbered bank that is FREE and that no entry still names (R215, R216, R380): every element +0, tag 0,
tensor scale 1.0, both bands owned by the context. With none it waits for flag 11. -/
def Obligations.AbankTakesTheLowestFreeBank : Prop :=
  ∀ (s : State) (d : BitVec 6),
    let free := fun (i : Nat) => (s.bank (BitVec.ofNat 5 i)).state = 0 ∧ (heldBanks s).getLsbD i = false
    (∀ i < 32, free i → (∀ j < i, ¬ free j) → Ready s 1 [d] [] →
      ∃ u : State, exec (.abank d) s = .next (ended s 1 (u.setReg d (BitVec.ofNat 64 i))) ∧
        (let b := u.bank (BitVec.ofNat 5 i)
         b.state = 1 ∧ b.alc = s.core.cur ∧ b.own.toList = [s.core.cur, s.core.cur] ∧ b.rel.toList = [false, false] ∧
         b.tag = 0 ∧ b.ts = 0x3F800000 ∧ ∀ r, b.rows.toList.getD r 0 = 0) ∧
        (∀ j < 32, j ≠ i → u.bank (BitVec.ofNat 5 j) = s.bank (BitVec.ofNat 5 j)) ∧ u.mem = s.mem ∧ u.pkg = s.pkg ∧
        { u.core with banks := s.core.banks } = s.core) ∧
    ((∀ i < 32, ¬ free i) → hazard s [d] [] = false → exec (.abank d) s = .next (waiting s 11))

/-- ABAND, ARELB, AFREE and ABST on accumulator banks (R216, R217), and LEND and RETURN of vector banks 4 to 7 (R57, R228):
the new owner of a band, the release of bands, the bank's fields; a vector bank moves to the MXE slot and back, once none of its
registers awaits a result. The checks are MISUSE (R381). Which registers a VRUN makes pending while its table is still being loaded, for
which LEND waits, is the model's reading (entry 96). -/
def Obligations.BankOwnershipAndLending : Prop :=
  (∀ (s : State) (d a b : BitVec 6),
     let i : BitVec 5 := (s.reg a).setWidth 5
     let k := s.bank i
     let n : Fin 2 := if (s.reg a).getLsbD 5 then 1 else 0
     (Ready s 1 [a] [] → (s.reg a).toNat < 32 → k.state ≠ 0 → k.alc = s.core.cur →
       (k.state = 2 → exec (.afree a) s = .next (ended s 1 s)) ∧
       (k.state ≠ 2 → exec (.afree a) s = .next (ended s 1 (settleBank (s.setBank i { k with
         state := 2, upto := (s.eq s.core.cur .mxe).qlast
         rel := Vector.ofFn fun j => k.rel.get j || decide (k.own.get j = k.alc) }) i)))) ∧
     (Ready s 1 [a, b] [] → (s.reg a).toNat < 64 → (s.reg b).toNat < 4 → k.owns s.core.cur n = true →
       (issuer s).reading = false → ∃ y : CtxId, y.val = (s.reg b).toNat ∧
         exec (.aband a b) s = .next (ended s 1 (s.setBank i { k with own := k.own.setIfInBounds n.val y }))) ∧
     (Ready s 1 [a] [] → (s.reg a).toNat < 64 → k.owns s.core.cur n = true → (issuer s).reading = false →
       exec (.arelb a) s = .next (ended s 1 (settleBank (s.setBank i { k with rel := k.rel.setIfInBounds n.val true }) i))) ∧
     (Ready s 1 [d, a] [] → (s.reg a).toNat < 64 → ∃ w : Word, exec (.abst d a) s = .next (ended s 1 (s.setReg d w)) ∧
       w.toNat = k.tag.toNat % 2 ^ 5 + k.state.toNat * 2 ^ 5 + k.alc.val * 2 ^ 7 + (if k.emit then 2 ^ 9 else 0) +
         (if k.rel.get 0 then 2 ^ 10 else 0) + (k.own.get 0).val * 2 ^ 11 + (if k.rel.get 1 then 2 ^ 13 else 0) +
         (k.own.get 1).val * 2 ^ 14 + k.ts.toNat * 2 ^ 16)) ∧
  (∀ (s : State) (b : BitVec 6), 4 ≤ b.toNat → b.toNat ≤ 7 →
     let go := fun (v : Bool) => s.modCx s.core.cur fun c => { c with v := { c.v with lent := c.v.lent.setIfInBounds (b.toNat - 4) v } }
     ((∀ r, 4 * b.toNat ≤ r → r < 4 * b.toNat + 4 → (issuer s).vpend.getLsbD r = false) →
       ((issuer s).vunknown = false → endFault s 1 = none →
         exec (.lend b) s = .next (ended s 1 (go true)) ∧ exec (.retBank b) s = .next (ended s 1 (go false))) ∧
       ((issuer s).vunknown = true → exec (.lend b) s = .next (waiting s 15) ∧ exec (.retBank b) s = .next (waiting s 15))) ∧
     (∀ r, 4 * b.toNat ≤ r → r < 4 * b.toNat + 4 → (issuer s).vpend.getLsbD r = true →
       (∀ q, 4 * b.toNat ≤ q → q < r → (issuer s).vpend.getLsbD q = false) →
       let w : Word := BitVec.ofNat 64 (0x10 + b.toNat * 2 ^ 8 + r * 2 ^ 16)
       exec (.lend b) s = .next (raised s 1 0x06 w) ∧ exec (.retBank b) s = .next (raised s 1 0x06 w)))


/-- TAGGET, TSCGET, TAGSET and TSCSET on a vector register and on a bank (R81, R82): the tag or the tensor scale, TSCSET also
setting TSP; a read of a FREE bank gives 0 and sets ACC.UNALLOC, a write of one does nothing. A bank of another context is
MISUSE 0x0C, and then a tag value outside the formats fails the tag check, reason 7 (R368, R378, R381), with the operand
number 3: R370 numbers the operands 0 to 3 and TAGSET's bad tag comes from sb, so 3 is the model's choice (entry 35). -/
def Obligations.TagAndScaleInstructions : Prop :=
  ∀ (s : State) (d b t : BitVec 6), tagWaits (issuer s) t = false →
    let i : BitVec 5 := t.setWidth 5
    let k := s.bank i
    let r := (issuer s).vreg i
    let x := s.core.cur
    let tag : BitVec 16 := (s.reg b).setWidth 16
    let ts : BitVec 32 := (s.reg b).setWidth 32
    let good := tag.toNat < 2 ^ 12 ∧ tag.toNat % 2 ^ 5 ≤ 14
    (Ready s 1 [d] [] → t.getLsbD 5 = false →
      exec (.tagget d t) s = .next (ended s 1 (s.setReg d (r.tag.setWidth 64))) ∧
      exec (.tscget d t) s = .next (ended s 1 (s.setReg d (r.ts.setWidth 64)))) ∧
    (Ready s 1 [d] [] → t.getLsbD 5 = true → k.state ≠ 0 → mayReadTag k x = true →
      exec (.tagget d t) s = .next (ended s 1 (s.setReg d (k.tag.setWidth 64))) ∧
      exec (.tscget d t) s = .next (ended s 1 (s.setReg d (k.ts.setWidth 64)))) ∧
    (Ready s 1 [d] [] → t.getLsbD 5 = true → k.state = 0 →
      let u := (s.modCx x fun c => { c with accf := c.accf ||| 1 }).setReg d 0
      exec (.tagget d t) s = .next (ended s 1 u) ∧ exec (.tscget d t) s = .next (ended s 1 u)) ∧
    (Ready s 1 [b] [] → t.getLsbD 5 = false →
      (good → exec (.tagset t b) s = .next (ended s 1 (s.modCx x (·.setVreg i { r with tag := tag })))) ∧
      exec (.tscset t b) s = .next (ended s 1 (s.modCx x (·.setVreg i { r with ts := ts, tag := r.tag ||| 0x40 })))) ∧
    (Ready s 1 [b] [] → t.getLsbD 5 = true → k.state ≠ 0 → mayWriteTag k x = true →
      (good → exec (.tagset t b) s = .next (ended s 1 (s.setBank i { k with tag := tag }))) ∧
      exec (.tscset t b) s = .next (ended s 1 (s.setBank i { k with ts := ts, tag := k.tag ||| 0x40 }))) ∧
    (Ready s 1 [b] [] → t.getLsbD 5 = true → k.state = 0 →
      (good → exec (.tagset t b) s = .next (ended s 1 s)) ∧ exec (.tscset t b) s = .next (ended s 1 s)) ∧
    (hazard s [b] [] = false → t.getLsbD 5 = true → k.state ≠ 0 → mayWriteTag k x = false →
      let f := Host.Outcome.next (raised s 1 0x06 (0#48 ++ (0#3 ++ i) ++ 0x0C#8))
      exec (.tagset t b) s = f ∧ exec (.tscset t b) s = f) ∧
    (hazard s [b] [] = false → (t.getLsbD 5 = false ∨ k.state = 0 ∨ mayWriteTag k x = true) → ¬ good →
      exec (.tagset t b) s = .next (raised s 1 0x05 (0#32 ++ 7#8 ++ 3#8 ++ tag)))

/-- CBLD appends an MXE entry of code 0x10 for codebook s[a] from address s[b] (R230); a table number above 7 is MISUSE 0x23.
The flags of its header, which are those of CTX.EFL for MXE, and that the append clears TSM, are the model's reading (entry 36). -/
def Obligations.CbldAppendsItsEntry : Prop :=
  ∀ (s : State) (a b : BitVec 6) (t : Tr),
    let q := s.eq s.core.cur .mxe
    (Ready s 1 [a, b] [] → (s.reg a).toNat < 8 → CanAppend s .mxe t →
      exec (.cbld a b) s = .next (ended s 1 ((appended s .mxe t
        (entryOf (mkHeader (issuer s) .mxe 0x10 0xFFFF 0 false 0) (q.qlast + 1) (toBytes (s.reg a) 8 ++ toBytes (s.reg b) 8)) 1
        (recorded s .mxe .plain)).modCx s.core.cur fun c => { c with efl := setFld c.efl 0 0#1 }))) ∧
    (hazard s [a, b] [] = false → ringFull s .mxe = false → 8 ≤ (s.reg a).toNat →
      exec (.cbld a b) s = .next (raised s 1 0x06 (0#16 ++ (s.reg a).setWidth 32 ++ 0x0023#16)))

/-- What the comb, bank and tag instructions leave unchanged when they retire: memory, the package, every register but the
destination, the other contexts, and of the issuing context every special register and queue. -/
def Obligations.CombAndBankFrame : Prop :=
  ∀ (s t : State) (d a b : BitVec 6), Ready s 1 [d, a, b] [] →
    ∀ i ∈ [Instr.claim d, .claimp d, .rels a, .slotst d a, .abank d, .afree a, .aband a b, .arelb a, .abst d a, .lend a,
        .retBank a, .tagget d a, .tagset a b, .tscget d a, .tscset a b],
      exec i s = .next t → (t.cx s.core.cur).issue = (issuer s).issue + 1 →
        (∀ p, byteAt t p = byteAt s p) ∧ t.pkg = s.pkg ∧ (∀ y, y ≠ s.core.cur → t.cx y = s.cx y) ∧
        (∀ k, k ≠ d → (t.cx s.core.cur).reg k = s.reg k) ∧ (∀ k, (t.cx s.core.cur).pred k = s.pred k) ∧
        (let k := s.core
         { t.core with ctx := k.ctx, slots := k.slots, banks := k.banks, last := k.last, tried := k.tried, exp := k.exp } = k) ∧
        (let c := issuer s
         { t.cx s.core.cur with s := c.s, p := c.p, v := c.v, accf := c.accf, pc := c.pc, loops := c.loops, issue := c.issue,
                                wait := c.wait, landing := c.landing, prevMode := c.prevMode } = c)

/-! ### Control registers -/

/-- CRR (R171, R172, R178, R205, R222, R356, R364): s[d] takes the register whose number is s[a]; a number above 4095, or that
no register has, is ILLEGAL (R374). ESTAT, MXC10 and, while a scan of the core runs, CORE.SCANST are built from the state that they
report; that PATDONE keeps 20 bits of the count is the model's choice (entry 120). -/
def Obligations.ControlRegisterReads : Prop :=
  ∀ (s : State) (d a : BitVec 6), hazard s [d, a] [] = false →
    let c := issuer s
    let n := (s.reg a).toNat
    let gives := fun (v : Word) => exec (.crr d a) s = .next (ended s 1 (s.setReg d v))
    let q := fun (e : Eng) => c.eq e
    (endFault s 1 = none →
      (∀ e ∈ [(0x000, c.efl), (0x001, c.troot), (0x002, c.ndman.setWidth 64), (0x003, c.fmtst.setWidth 64),
          (0x006, (c.loops.get 0).start.setWidth 64), (0x007, (c.loops.get 1).start.setWidth 64),
          (0x008, (c.loops.get 0).fin.setWidth 64), (0x009, (c.loops.get 1).fin.setWidth 64),
          (0x040, c.tctl), (0x041, c.tvec), (0x042, c.thcode), (0x043, c.thdata), (0x044, c.trec),
          (0x045, c.tpc.setWidth 64), (0x046, c.tcause), (0x047, c.tval), (0x04C, c.tstat), (0x090, c.kick.setWidth 64),
          (0x091, c.tkpend), (0x0CB, c.accf.setWidth 64), (0x100, s.core.srseed), (0x101, s.core.bistst),
          (0x103, s.core.scansig), (0x104, s.core.cycle)], n = e.1 → gives e.2) ∧
      (∀ e ∈ engines, (n = 0x010 + engNum e → gives (q e).qbase) ∧ (n = 0x018 + engNum e → gives (q e).qhead) ∧
        (n = 0x020 + engNum e → gives ((q e).qtail.setWidth 64)) ∧ (n = 0x028 + engNum e → gives (q e).qseq) ∧
        (n = 0x030 + engNum e → gives (q e).qlast)) ∧
      (∀ i : Fin 4, n = 0x048 + i.val → gives (c.tscr.get i)) ∧
      (∀ i : Fin 8, (n = 0x080 + i.val → gives (c.wm.get i)) ∧ (n = 0x088 + i.val → gives ((c.wmlim.get i).setWidth 64)) ∧
        (n = 0x098 + i.val → gives ((c.wmbase.get i).setWidth 64))) ∧
      (∀ i : Fin 10, n = 0x0C0 + i.val → gives (c.mxc.get i)) ∧
      (0x0CC ≤ n → n ≤ 0x0D7 → gives 0) ∧
      (∀ i : Fin 2, n = 0x004 + i.val → ∃ v : Word, gives v ∧
        v.toNat = (c.loops.get i).count.toNat + (if (c.loops.get i).act then 2 ^ 32 else 0)) ∧
      (n = 0x00A → ∃ v : Word, gives v ∧ v.toNat = s.core.cur.val + (lcore s).toNat * 2 ^ 3 +
        (if c.world then 2 ^ 15 else 0) + c.lid.toNat * 2 ^ 16) ∧
      (∀ e ∈ engines, n = 0x050 + engNum e → ∃ v : Word, gives v ∧ v.getLsbD 0 = (q e).quiet ∧ v.getLsbD 2 = (q e).stop ∧
        v.getLsbD 1 = (q e).run.any (fun r => r.fault.isNone) ∧ v.getLsbD 3 = (q e).run.any (fun r => r.fault.isSome) ∧
        fldN v 4 12 = 0 ∧ fldN v 16 48 = (match (q e).run with | some r => r.seq | none => (q e).qseq).toNat % 2 ^ 48) ∧
      (n = 0x0CA → ∃ v : Word, gives v ∧ v.toNat < 2 ^ 8 ∧ ∀ k : Fin 8, v.getLsbD k.val = (c.shadow.get k).isSome) ∧
      (n = 0x102 →
        let runs := fun (k : Scan) => k.phys = s.core.phys ∧ k.state = 2
        ((∀ k ∈ s.pkg.scans, ¬ runs k) → gives s.core.scanst) ∧
        (∀ k, s.pkg.scans = [k] → runs k → ∃ v : Word, gives v ∧
          fldN v 32 20 = min k.npat.toNat ((now s - k.start).toNat / 100) % 2 ^ 20 ∧
          ∀ i, i < 32 ∨ 52 ≤ i → v.getLsbD i = s.core.scanst.getLsbD i))) ∧
    (¬ CrListed n → exec (.crr d a) s = .next (raised s 1 0x01 ((0x38#6 ++ d ++ a ++ 0#14).setWidth 64)))

/-- CRW (R7, R98, R143, R163, R171, R176, R205, R222, R356): the fields that a write of each register sets, as the context or the
core is after it; a register of RO fields, and a number that no register has, is ILLEGAL (R374). A write of NDMAN takes the
near-DRAM banks of the bits it sets and gives back those it clears, each precharged; a bank that another context holds is NDRAM with
subcode 5 (R393). -/
def Obligations.ControlRegisterWrites : Prop :=
  ∀ (s : State) (a b : BitVec 6), hazard s [a, b] [] = false →
    let x := s.core.cur
    let n := (s.reg a).toNat
    let v := s.reg b
    let at4 : VAddr := (v &&& 0xFFFFFFFFFFFFFC).setWidth 56
    let sets := fun (f : Ctx → Ctx) => exec (.crw a b) s = .next (ended s 1 (s.modCx x f))
    let setsCore := fun (f : Core → Core) => exec (.crw a b) s = .next (ended s 1 { s with core := f s.core })
    let loop := fun (l : Fin 2) (h : HwLoop) (c : Ctx) => { c with loops := c.loops.set l.val h }
    (endFault s 1 = none →
      (n = 0x000 → sets fun c => { c with efl := v &&& 0x3F3F3F3F }) ∧
      (n = 0x001 → sets fun c => { c with troot := v &&& 0xFFFFFFFFFFFF0001 }) ∧
      (n = 0x003 → sets fun c => { c with fmtst := c.fmtst &&& ~~~(v.setWidth 3) }) ∧
      (n = 0x040 → sets fun c => { c with tctl := v &&& 7 }) ∧
      (n = 0x042 → sets fun c => { c with thcode := v &&& 0xFFFFFFFFFFC07F }) ∧
      (n = 0x043 → sets fun c => { c with thdata := v &&& 0xFFFFFFFFFFC07F }) ∧
      (n = 0x044 → sets fun c => { c with trec := v &&& 0xFFFFFFFFFFFE00 }) ∧
      (n = 0x045 → sets fun c => { c with tpc := at4 }) ∧
      (∀ i : Fin 4, n = 0x048 + i.val → sets fun c => { c with tscr := c.tscr.set i.val v }) ∧
      (n = 0x04C → sets fun c => { c with tstat := c.tstat &&& ~~~(v &&& 0x14) }) ∧
      (∀ i : Fin 8, n = 0x080 + i.val →
        sets fun c => if v.getLsbD 63 then { c with wm := c.wm.mapIdx fun j w => if j = i.val then setFld w 63 0#1 else w } else c) ∧
      (n = 0x090 → sets fun c => { c with kick := v.setWidth 16 }) ∧
      (∀ i : Fin 10, n = 0x0C0 + i.val → sets fun c => { c with mxc := c.mxc.set i.val (v &&&
        [0x7FFFFFFFFFF, 0x7FFFFFFFFFF, 0x7FFFFFFFFFF, 0x7FFFFFFFFFF, 0x7FFFFFFFFFF, 0x7FFFFFFFFFF, 0x1F3F3F, 0x7F1F, 0x73F3F3F, 0x1F07].getD i.val 0) }) ∧
      (n = 0x0CB → sets fun c => { c with accf := c.accf &&& ~~~(v.setWidth 2) }) ∧
      (0x0CC ≤ n → n ≤ 0x0D7 → sets id) ∧
      (n = 0x100 → setsCore fun k => if (issuer s).world then { k with srseed := v &&& 0xFFFFFFFF } else k) ∧
      (n = 0x101 → setsCore fun k => { k with bistst := v &&& 0xFFFFFFFF00000007 })) ∧
    (∀ l : Fin 2, ∀ e ∈ [(0x004, loop l { (issuer s).loops.get l with act := v.getLsbD 32, count := v.setWidth 32 } (issuer s)),
        (0x006, loop l { (issuer s).loops.get l with start := at4 } (issuer s)),
        (0x008, loop l { (issuer s).loops.get l with fin := at4 } (issuer s))],
      n = e.1 + l.val → endStep e.2 (curPc s) (slotAdd (curPc s) 1) = (e.2, slotAdd (curPc s) 1, false) →
        exec (.crw a b) s = .next ((s.setCx x e.2).issued (slotAdd (curPc s) 1))) ∧
    (n = 0x002 →
      let set := fun (i : Nat) => v.getLsbD i && !(issuer s).ndman.getLsbD i
      let cleared := fun (i : Nat) => !v.getLsbD i && (issuer s).ndman.getLsbD i
      ((∀ i : Fin 4, v.getLsbD i.val = true → ∀ y, (ndBank s i.val).holder = some y → y = x) → endFault s 1 = none →
        ndmanWaits s x (v.setWidth 4) = false →
        ∃ t, exec (.crw a b) s = .next (ended s 1 t) ∧ t.cx x = { issuer s with ndman := v.setWidth 4 } ∧
          (∀ y, y ≠ x → t.cx y = s.cx y) ∧ { t with core := s.core } = s ∧
          { t.core with ctx := s.core.ctx, nd := s.core.nd } = s.core ∧
          ∀ i : Fin 4, ndBank t i.val =
            if set i.val then { (ndBank s i.val).precharged (now s) with holder := some x, refAt := now s }
            else if cleared i.val then { (ndBank s i.val).precharged (now s) with holder := none } else ndBank s i.val) ∧
      (∀ i : Fin 4, v.getLsbD i.val = true → (∃ y, y ≠ x ∧ (ndBank s i.val).holder = some y) →
        (∀ j, j < i → v.getLsbD j.val = true → ∀ y, (ndBank s j.val).holder = some y → y = x) →
        exec (.crw a b) s = .next (raised s 1 0x15 (BitVec.ofNat 64 (5 + i.val * 2 ^ 8))))) ∧
    (CrReadOnly n ∨ ¬ CrListed n →
      exec (.crw a b) s = .next (raised s 1 0x01 ((0x38#6 ++ 0#6 ++ a ++ b ++ 1#8).setWidth 64)))

/-- The writes of CRW that do more than set fields: QBASE (R35, R37) and TVEC (R357). QBASE writes the LINK of slot 255 and
empties the queue; TVEC pins the handler regions and sets INST, or says in TSTAT which check failed.
The bytes of the LINK that R35 does not give are the model's choice (entry 24). -/
def Obligations.QueueBaseAndTrapVectorWrites : Prop :=
  ∀ (s : State) (a b : BitVec 6), Ready s 1 [a, b] [] →
    let x := s.core.cur
    let n := (s.reg a).toNat
    let v := s.reg b
    let base := v &&& 0xFFFFFFFFFFC000
    (∀ (e : Eng) (t : Tr), e ∈ engines → n = 0x010 + engNum e → qbaseCheck s x v = .ok t → (s.eq x e).quiet = true →
      let t255 : Tr := { t with pa := t.pa + 0x3FC0 }
      let va : VAddr := base.setWidth 56 + 0x3FC0
      accWaits (issuer s) (newAcc s (.write 0) (v.setWidth 56) t255 3 false) 64 = false →
      sectionFor (tlbFill s x va t255) x t255.pa.toNat = (tlbFill s x va t255, true) → dwAll s t255.pa.toNat 64 false = [] →
      (issuer s).passed = none →
      let hdr : Word := BitVec.ofNat 64 (0xFF + 2 ^ 8 * engNum e + (if (issuer s).world then 2 ^ 11 else 0) + 2 ^ 12 * 0xFFFF)
      exec (.crw a b) s = .next (ended s 1 ((rawStore (tlbFill s x va t255) t255.pa.toNat
          (toBytes hdr 8 ++ toBytes (0 : Word) 8 ++ toBytes base 8 ++ List.replicate 40 0)).setEq x e
        { s.eq x e with qbase := base, qhead := base, qtail := 0, window := [], forced := true }))) ∧
    (n = 0x041 →
      let c := { issuer s with tvec := v &&& 0xFFFFFFFFFFFF80 }
      (∀ ps, install s c = .ok ps →
        ∃ u, exec (.crw a b) s = .next (ended s 1 (s.setCx x { c with pins := ps, tstat := u })) ∧
          u.getLsbD 1 = true ∧ fldN u 8 3 = 0 ∧ ∀ i, i ≠ 1 → (i < 8 ∨ 10 < i) → u.getLsbD i = c.tstat.getLsbD i) ∧
      (∀ k, install s c = .error k → k < 8 →
        ∃ u, exec (.crw a b) s = .next (ended s 1 (s.setCx x { c with pins := [], tstat := u })) ∧
          u.getLsbD 1 = false ∧ fldN u 8 3 = k ∧ ∀ i, i ≠ 1 → (i < 8 ∨ 10 < i) → u.getLsbD i = c.tstat.getLsbD i))

/-! ### Traps -/

/-- TRAP n (R359), a precise fault and TRAP_ENTRY (R353, R358), where a handler is installed and does not run: TPC, TCAUSE and
TVAL are written, INH is set, the exposed slot is released, SEQ is stopped no more, and the PC goes to word 0 of the TVEC line. The
fault's trap is first recorded, with the PC at the faulting instruction. That a TRAP writes 0 to TVAL is the model's choice
(entry 31). -/
def Obligations.TrapEntry : Prop :=
  ∀ (s : State) (x : CtxId), (s.cx x).inst = true → (s.cx x).inh = false → (s.cx x).dying = false → (s.cx x).halted = false →
    let enters := fun (u t : State) (r : TrapReq) =>
      let c := u.cx x
      let k := t.cx x
      k.tpc = c.pc ∧ k.tpc0 = c.pc ∧ k.cause0 = r.cause ∧ k.tval = r.val ∧ k.trap = none ∧ k.wait = none ∧
      k.tcause.toNat = r.cause.toNat + r.eng.toNat * 2 ^ 8 + (if r.prec then 2 ^ 11 else 0) +
        (if 0x30 ≤ r.cause.toNat ∧ r.cause.toNat ≤ 0x32 then 2 ^ 12 else 0) + r.seq.toNat % 2 ^ 48 * 2 ^ 16 ∧
      k.pc.toNat = c.tvec.toNat / 2 ^ 7 * 2 ^ 7 % 2 ^ 56 + 8 ∧
      k.tstat.getLsbD 0 = true ∧ k.tstat.getLsbD 3 = false ∧ (∀ i < 64, i ≠ 0 → i ≠ 3 → i ≠ 5 → k.tstat.getLsbD i = c.tstat.getLsbD i) ∧
      { k with pc := c.pc, tpc := c.tpc, tval := c.tval, tcause := c.tcause, tstat := c.tstat, trap := c.trap, wait := c.wait,
               tpc0 := c.tpc0, cause0 := c.cause0,
               vwait := c.vwait, ackrd := c.ackrd, first := c.first, prevMode := c.prevMode, landing := c.landing, q := c.q } = c ∧
      (∀ e ∈ engines, k.eq e = c.eq e) ∧ k.eq .seq = { c.eq .seq with stop := false } ∧ k.first = false ∧ k.landing = false ∧
      (∀ y, y ≠ x → t.cx y = u.cx y) ∧ t.core.exp ≠ some x ∧ t.mem = u.mem ∧ t.pkg = u.pkg
    (∀ n : BitVec 6, s.core.cur = x → (s.cx x).trap = none → (s.cx x).acc = [] → endFault s 1 = none →
      ∃ t, exec (.trap n) s = .next t ∧ enters (ended s 1 s) t ⟨0x80 + n.setWidth 8, 0, true, 0, 0⟩) ∧
    (∀ (r : TrapReq), (s.cx x).trap = some r → (s.cx x).acc = [] → (s.cx x).saving = none →
      (s.cx x).tstat.getLsbD 5 = false → (isEvent r.cause = true ∨ (s.cx x).line = true) → ((s.cx x).line = true → allStopped s x = true) →
      ∃ t, exec (.trapEntry x) s = .next t ∧ enters s t r) ∧
    (∀ (cause : BitVec 8) (v : Word), s.core.cur = x → (s.cx x).trap = none → isEvent cause = false → allStopped s x = false →
      let t := trapped s cause v
      (t.cx x).trap = some ⟨cause, 0, true, 0, v⟩ ∧ (t.cx x).line = true ∧ (t.cx x).pc = (s.cx x).pc ∧ t.mem = s.mem ∧ t.pkg = s.pkg ∧
      (∀ y r p, (t.cx y).reg r = (s.cx y).reg r ∧ (t.cx y).pred p = (s.cx y).pred p))

/-- TRET (R360, R377): in a handler, with the accesses performed, the PC becomes TPC, and INH and TCTL.SKIP are cleared; the
line falls once no other context of the partition handles a fault; a TRAP that the fault overtook is then recorded (entry 90). Outside a handler, or to a line header, it is MISUSE 0x20. -/
def Obligations.TrapReturn : Prop :=
  ∀ (s : State), hazard s [] [] = false →
    let x := s.core.cur
    let c := issuer s
    (c.inh = true → 2 ≤ c.tpc.toNat / 4 % 32 → (∀ a ∈ c.acc, a.done = true) →
      (∀ e ∈ engines, ∀ r, s.run x e = some r → r.fault = none) → (∀ i t, c.task = some i → taskOf s i = some t → t.reissue = []) →
      ∃ t, exec .tret s = .next t ∧
        (let k := t.cx x
         k.pc = c.tpc ∧ k.inh = false ∧ k.tctl = c.tctl &&& ~~~4 ∧ k.tpc = c.tpc ∧ k.tcause = c.tcause ∧ k.tval = c.tval ∧
         k.s = c.s ∧ k.p = c.p ∧ k.tscr = c.tscr ∧ k.inst = c.inst ∧ k.trap = c.later ∧ k.later = none) ∧
        t.mem = s.mem ∧ t.pkg = s.pkg ∧
        ((∀ y, y ≠ x → (s.cx y).inh = false ∧ (s.cx y).trap = none) → (∀ r, c.later = some r → isEvent r.cause = true) →
          (t.cx x).line = false)) ∧
    (c.inh = false ∨ c.tpc.toNat / 4 % 32 < 2 → exec .tret s = .next (trapped s 0x06 0x20))

/-! ### Invalidation, diagnostics, scans -/

/-- ICINV, ICINVA, TLBI, TLBIA and TLBIALL (R89, R173), once the earlier stores of the context are performed: the cached line
that holds the address, or all; in both TLBs the translations of an address for an ASID, of an ASID, or all. ICINV of an address
that does not translate takes its access fault, the model's choice (entry 11). -/
def Obligations.InvalidationInstructions : Prop :=
  ∀ (s : State) (a b : BitVec 6), (∀ k ∈ (issuer s).acc, k.isLoad = true ∨ k.done = true) →
    let done := fun (f : Core → Core) => Host.Outcome.next (ended s 1 { s with core := f s.core })
    let asid := (s.reg b).toNat % 2 ^ 12
    let holds := fun (t : TlbEnt) => (s.reg a).toNat % 2 ^ 56 / 2 ^ t.lsize = t.va.toNat / 2 ^ t.lsize
    (hazard s [a] [] = false → ∀ f, xlate s s.core.cur 4 ((s.reg a).setWidth 56) = .error f →
      exec (.icinv a) s = .next (raised s 1 f.cause f.val)) ∧
    (Ready s 1 [a] [] → ∀ t, xlate s s.core.cur 4 ((s.reg a).setWidth 56) = .ok t → exec (.icinv a) s =
      done fun k => { k with icache := k.icache.filter fun e => decide (e.1.toNat ≠ t.pa.toNat / 128 * 128) }) ∧
    (endFault s 1 = none → exec .icinva s = done fun k => { k with icache := [] }) ∧
    let keep := fun (p : TlbEnt → Bool) (k : Core) => { k with tlb := k.tlb.filter p, stlb := k.stlb.filter p }
    (Ready s 1 [a, b] [] → exec (.tlbi a b) s =
      done (keep fun t => decide (¬ (holds t ∧ (t.global = true ∨ t.asid.toNat = asid))))) ∧
    (Ready s 1 [b] [] → exec (.tlbia b) s = done (keep fun t => decide (t.global = true ∨ t.asid.toNat ≠ asid))) ∧
    (endFault s 1 = none → exec .tlbiall s = done fun k => { k with tlb := [], stlb := [] })

/-- DRD, DWR, SCANGO, SCANAB and SCANST (R174 to R178): in the secure world each has its effect, SCANAB that of ABORT on the scan of
the core, or none where no scan runs or its RUN has ended; in the non-secure world each is PRIV with its word in TVAL (R370, R375). A diagnostic address names a row of another context that holds no task. -/
def Obligations.SecureInstructions : Prop :=
  ∀ (s : State) (d a b : BitVec 6),
    let word := fun (d a b : BitVec 6) (f : BitVec 8) => (0x3A#6 ++ d ++ a ++ b ++ f).setWidth 64
    let u := (s.reg a).toNat
    let v := s.reg b
    let gives := fun (w : Word) => exec (.drd d a) s = .next (ended s 1 (s.setReg d w))
    let writes := fun (t : State) => exec (.dwr a b) s = .next (ended s 1 t)
    let c9 : BitVec 9 := (s.reg a).setWidth 9
    ((issuer s).world = false →
      (hazard s [d, a] [] = false → exec (.drd d a) s = .next (raised s 1 0x04 (word d a 0 0)) ∧
        exec (.scanst d a) s = .next (raised s 1 0x04 (word d a 0 6))) ∧
      (hazard s [a, b] [] = false → exec (.dwr a b) s = .next (raised s 1 0x04 (word 0 a b 1)) ∧
        exec (.scango a b) s = .next (raised s 1 0x04 (word 0 a b 4))) ∧
      (hazard s [a] [] = false → exec (.scanab a) s = .next (raised s 1 0x04 (word 0 a 0 5)))) ∧
    ((issuer s).world = true → Ready s 1 [d, a, b] [] →
      (∀ x : CtxId, x ≠ s.core.cur → (s.cx x).task = none →
        (∀ n : Fin 64, u = 0x1000000 + 64 * x.val + n.val → gives ((s.cx x).s.get n) ∧
          writes (s.modCx x fun c => { c with s := c.s.set n.val v })) ∧
        (u = 0x2000000 + x.val → (∃ w : Word, gives w ∧ ∀ i, w.getLsbD i = (s.cx x).p.toList.getD i false) ∧
          writes (s.modCx x fun c => { c with p := Vector.ofFn fun i => v.getLsbD i.val })) ∧
        (∀ (n : Fin 32) (k : Fin 32), u = 0x3000000 + 1024 * x.val + 32 * n.val + k.val →
          gives (((s.cx x).v.regs.get n).data.extractLsb' (64 * k.val) 64))) ∧
      (∀ i : Fin 16, u = 0x4000000 + i.val → gives (s.core.repair.get i)) ∧
      (∀ p : BitVec 9, lmap s c9.toNat = some p →
        ((∀ k ∈ s.pkg.scans, k.phys ≠ p) → exec (.scanst d a) s = .next (ended s 1 (s.setReg d
          (if p = s.core.phys then s.core.scanst else ctl s (0x3000010 + 0x100 * p.toNat))))) ∧
        ((∀ k ∈ s.pkg.scans, k.core ≠ c9) → exec (.scanab a) s = .next (ended s 1 s)) ∧
        (∀ k, scanOf s c9 = some k → (k.phys ≠ s.core.phys ∨ (k.state = 1 ∧ (issuer s).task ≠ none)) →
          let z := scanPost (scanStop s k) k
          (scanOver s k = true → exec (.scanab a) s = .next (ended s 1 s)) ∧
          (scanOver s k = false → exec (.scanab a) s = .next (ended s 1 z)) ∧ (∀ j, j ∈ z.pkg.scans ↔ j ∈ s.pkg.scans ∧ j.core ≠ c9) ∧
          (k.phys ≠ s.core.phys → z.core = s.core ∧ (ctl z (0x3000010 + 0x100 * k.phys.toNat)).toNat % 8 = 5)) ∧
        (∀ (ws : List (VAddr × Tr)), p ≠ s.core.phys → (∀ k ∈ s.pkg.scans, k.core ≠ c9) →
          scanDesc s (v.setWidth 56) = .ok ws → (∀ w ∈ ws, CanRead s w.1 w.2 3 ∧ wmStall (issuer s) w.1.toNat 8 = false) →
          let bs := ws.flatMap fun w => bytesAt s w.2.pa.toNat 8
          let n := ofBytes ((bs.drop 8).take 4)
          1 ≤ n → n ≤ 2 ^ 20 → ofBytes ((bs.drop 12).take 1) < 16 → ofBytes ((bs.drop 13).take 3) = 0 →
            ∃ z, exec (.scango a b) s = .next (ended s 1 z) ∧ ∃ k ∈ z.pkg.scans, k.core = c9 ∧ k.phys = p ∧ k.state = 1 ∧
              k.seed.toNat = ofBytes (bs.take 8) ∧ k.npat.toNat = n ∧ k.expsig.toNat = ofBytes ((bs.drop 16).take 8))))

/-! ### Tasks -/

/-- HALT, YIELD, ESTIM, HBEAT and ACKMAP (R45, R46, R49, R50, R170, R330). HALT waits until its queues are empty and its accesses
landed, then its task is gone and the context is free; YIELD goes on to the loop-record phase that is next, with ITER written. ACKMAP reads
CMAP.VER and then retires with it: the context is ACKED, or DUE again from the stroke value at which VER has risen since.
That a YIELD in PRO with PERS = 1 enters KERNEL though TRIP is 0 is the model's reading (entry 69). -/
def Obligations.TaskInstructions : Prop :=
  ∀ (s : State) (k : Task), ctxTask s s.core.cur = some k →
    let x := s.core.cur
    let c := issuer s
    ((c.acc ≠ [] ∨ ∃ e ∈ engines, (c.eq e).quiet = false) → exec .halt s = .next (resting s 15)) ∧
    (c.acc = [] → (∀ e ∈ engines, (c.eq e).quiet = true) → k.heir = none → ∃ t, exec .halt s = .next t ∧
      (t.cx x).task = none ∧ (∀ j ∈ t.pkg.tasks, j.id ≠ k.id) ∧ (∀ j ∈ s.pkg.tasks, j.id ≠ k.id → j ∈ t.pkg.tasks) ∧
      ((∃ j ∈ s.pkg.tasks, j.id ≠ k.id ∧ j.lid = k.lid ∧ j.core = some (k.core.getD (lcore s))) →
        (∀ i, (s.slot i).state ≠ 0 → (s.slot i).own = x → (t.slot i).state = 0) ∧
        (∀ i, (s.slot i).own ≠ x → t.slot i = s.slot i) ∧ t.mem = s.mem ∧
        ∀ y, y ≠ x → (s.cx y).line = false → (s.cx y).isHeld = false → t.cx y = s.cx y)) ∧
    (∀ d : List Byte, loopRecord s k = .ok d → saveDue s x = none →
      (c.phase = .pro → (recTrip d ≠ 0 ∨ recPers d = true) → exec .yield s =
        .next (arrived (s.modCx x fun c => { c with phase := .ker, first := true }) (recKer d + 8))) ∧
      (c.phase = .pro → recTrip d = 0 → recPers d = false → exec .yield s =
        .next (arrived (s.modCx x fun c => { c with phase := .epi, first := true }) (recEpi d + 8))) ∧
      (c.phase = .epi → endFault s 1 = none →
        exec .yield s = .next (ended s 1 (s.modCx x fun c => { c with phase := .epi, first := false }))) ∧
      (∀ u : State, c.phase = .ker →
        let n := (recIter d + 1) % 2 ^ 64
        areaWrite s k 32 (toBytes (BitVec.ofNat 64 n) 8) = (u, none) → saveDue u x = none →
          ((recPers d = true ∨ n < recTrip d) → exec .yield s =
            .next (arrived (u.modCx x fun c => { c with phase := .ker, first := c.phase != .ker }) (recKer d + 8))) ∧
          (recPers d = false → recTrip d ≤ n → exec .yield s =
            .next (arrived (u.modCx x fun c => { c with phase := .epi, first := c.phase != .epi }) (recEpi d + 8))))) ∧
    (∀ (a : BitVec 6) (t : Tr), Ready s 1 [a] [] → accCheck s 2 2 (k.area + 40) = .ok t →
      chainHit c (k.area + 40).toNat 4 = false → wmForbids c (k.area + 40).toNat 4 = false → ndHold s t.pa.toNat = false →
      dwAll s t.pa.toNat 4 false = [] → accFull s = false →
      exec (.estim a) s = .next (ended s 1 (pushAcc s (k.area + 40) t
        (newAcc s (.write (BitVec.ofNat 64 (min (s.reg a).toNat (2 ^ 32 - 1)))) (k.area + 40) t 2 false)))) ∧
    (endFault s 1 = none → exec .hbeat s = .next (ended s 1 (s.modCx x fun c =>
      { c with hbeat := s.pkg.stroke, beat := some s.pkg.stroke }))) ∧
    ∀ d : BitVec 6,
      (c.ackrd = none → hazard s [d] [] = false → canLeave c = true → exec (.ackmap d) s =
        .next (waiting (s.modCx x fun c => { c.allLeft with ackrd := some (ctl s oVer, none) }) 15)) ∧
      (∀ v r, c.ackrd = some (v, r) → endFault s 1 = none → exec (.ackmap d) s =
        .next (ended s 1 ((s.modCx x fun c => { c with ackrd := none, ackver := v, ack := match r with
          | none => .acked
          | some n => .due (n + BitVec.ofNat 64 (1000 * ((ctl s 0x100008).toNat % 2 ^ 32))) }).setReg d v)))

/-- CBAR (R121): with its accesses performed, the member that comes last completes the rendezvous of its launch in its cluster,
and retires; one that comes before another waits, having reached it. -/
def Obligations.ClusterRendezvous : Prop :=
  ∀ (s : State) (k : Task), ctxTask s s.core.cur = some k → endFault s 1 = none →
    let x := s.core.cur
    let c := issuer s
    let cl := clusterOf s (lcore s)
    let g := cbarDone s k.lid cl
    c.cbar = g → k.cbar ≤ g + 1 → k ∈ members s k.lid cl →
    ((∃ a ∈ c.acc, a.done = false) → exec .cbar s = .next (waiting s 15)) ∧
    ((∀ a ∈ c.acc, a.done = true) → (∀ m ∈ members s k.lid cl, m.id ≠ k.id → g < m.cbar) →
      ∃ u, exec .cbar s = .next (ended s 1 (u.modCx x fun c => { c with cbar := g + 1 })) ∧
        u.core = s.core ∧ u.mem = s.mem ∧ cbarDone u k.lid cl = g + 1) ∧
    ((∀ a ∈ c.acc, a.done = true) → (∃ m ∈ members s k.lid cl, m.id ≠ k.id ∧ m.cbar ≤ g) →
      ∃ u, exec .cbar s = .next (waiting u 15) ∧ u.core = s.core ∧ u.mem = s.mem ∧ cbarDone u k.lid cl = g ∧
        ∀ m ∈ u.pkg.tasks, m.id = k.id → g + 1 ≤ m.cbar)

/-! ### Engine commands -/

/-- The engine commands (R38, R141, R180, R181): each appends one entry on its engine, with the header of R38, the number of R37,
and s[a], s[b] and s[c]; CTX.EFL.TSM of the engine is cleared and the token register becomes pending (R196). VSTOP
records its stop request (R239), VWAIT waits for its own entry (R240), MGO commits its nest to the lowest free shadow
set (R223). A pop or push that names no engine, or the entry's own, is SYNC precisely (R379). -/
def Obligations.EngineCommandsAppendTheirEntry : Prop :=
  ∀ (s : State) (y : BitVec 16) (a b c t : BitVec 6) (k : BitVec 8) (r : Tr),
    let x := s.core.cur
    let m := issuer s
    let va := s.reg a
    let vb := s.reg b
    let vc := s.reg c
    let bound := if k.toNat < 16 then k.toNat else (16 + k.toNat % 16) * 2 ^ (k.toNat / 16 - 1)
    let bitOf := fun (i : Nat) => if m.efl.getLsbD i then 1 else 0
    let hdr := fun (e : Eng) (cmd : Nat) (nr : Bool) => BitVec.ofNat 64 (cmd + engNum e * 2 ^ 8 + (if m.world then 2 ^ 11 else 0) +
      y.toNat * 2 ^ 12 + bitOf (engNum e - 1) * 2 ^ 28 + max (if nr then 1 else 0) (bitOf (engNum e + 23)) * 2 ^ 29 +
      bitOf (engNum e + 15) * 2 ^ 30 + bitOf (engNum e + 7) * 2 ^ 31 + bound * 2 ^ 32 + t.toNat * 2 ^ 48)
    let put := fun (e : Eng) (cmd : Nat) (nr : Bool) (body : List Byte) (p : Pend) =>
      commanded (appended s e r (entryOf (hdr e cmd nr) ((s.eq x e).qlast + 1) body) 1 (recorded s e p)) e t
    let ops := toBytes va 8 ++ toBytes vb 8 ++ toBytes vc 8
    let syncOk := fun (e : Eng) => ∀ i < 4, y.toNat / 16 ^ i % 16 = 15 ∨ (y.toNat / 16 ^ i % 16 ≤ 6 ∧ y.toNat / 16 ^ i % 16 ≠ engNum e)
    let named := [(Instr.cpy y a b c t k, Eng.cpe, 0, false, Pend.plain), (.cpy2d y a b c t k, .cpe, 1, false, .plain),
      (.cps y a b c t k, .cpe, 2, false, namesSlot s va vb vc), (.adrain y a b c t k, .cpe, 3, false, namesBand s va vb vc),
      (.fill y a b c t k, .cpe, 4, false, .plain), (.cmc y a b c t k, .cpe, 5, false, .plain),
      (.cpost y a b c t k, .cpe, 6, true, .plain), (.cwait y a b c t k, .cpe, 7, false, .plain),
      (.gexp y a b c t k, .gxe, 0, false, namesSlot s va vb vc), (.gexpv y a b c t k, .gxe, 1, false, .plain),
      (.gath y a b c t k, .gxe, 2, false, .plain), (.gscat y a b c t k, .gxe, 3, false, .plain),
      (.lsend y a b c t k, .clp, 0, true, .plain), (.colar y a b c t k, .clp, 1, true, .plain),
      (.colrs y a b c t k, .clp, 2, true, .plain), (.colag y a b c t k, .clp, 3, true, .plain),
      (.aread y a b c t k, .mxe, 1, false, namesRead s va vb vc), (.vrun y a b c t k, .vxe, 0, va.getLsbD 2, namesRun s va vb vc),
      (.vrunDrain y a b c t k, .vxe, 0, va.getLsbD 2, namesRun s va vb vc), (.vbase y a b c t k, .vxe, 2, false, .plain),
      (.vbaseDq y a b c t k, .vxe, 2, false, .plain), (.vtld y a b c t k, .vxe, 4, false, namesTable s va vb vc),
      (.oshot y a b c t k, .opp, 0, true, .plain), (.omask y a b c t k, .opp, 1, false, .plain),
      (.ocal y a b c t k, .opp, 2, false, .plain)]
    k.toNat < 0xD0 →
    (∀ e ∈ named, syncOk e.2.1 → Ready s 2 [a, b, c, t] [] → CanAppend s e.2.1 r →
      exec e.1 s = .next (ended s 2 (put e.2.1 e.2.2.1 e.2.2.2.1 ops e.2.2.2.2))) ∧
    (∀ e ∈ named, ¬ syncOk e.2.1 → hazard s [a, b, c, t] [] = false → ringFull s e.2.1 = false → ∀ w0 w1, encode e.1 = [w0, w1] →
      exec e.1 s = .next (raised s 2 0x07 (w1 ++ w0))) ∧
    (¬ syncOk .vxe → hazard s [a, b, c, t] [] = false → ringFull s .vxe = false → ∀ w0 w1,
      (encode (.vstop y a b c t k) = [w0, w1] → exec (.vstop y a b c t k) s = .next (raised s 2 0x07 (w1 ++ w0))) ∧
      (encode (.vwait y a b c t k) = [w0, w1] → m.vwait = none →
        exec (.vwait y a b c t k) s = .next (raised s 2 0x07 (w1 ++ w0)))) ∧
    (¬ syncOk .mxe → (∃ i : Fin 8, m.shadow.get i = none) → hazard s [a, t] [] = false → ringFull s .mxe = false →
      ∀ w0 w1, encode (.mgo y a t k) = [w0, w1] → exec (.mgo y a t k) s = .next (raised s 2 0x07 (w1 ++ w0))) ∧
    (syncOk .vxe → Ready s 2 [a, b, c, t] [] → CanAppend s .vxe r →
      exec (.vstop y a b c t k) s = .next (ended s 2 ((put .vxe 1 false ops .plain).modCx x fun c =>
        { c with v := { c.v with stops := c.v.stops ++ [(Fin.ofNat 4 va.toNat, (s.eq x .vxe).qlast + 1)] } })) ∧
      (m.vwait = none → exec (.vwait y a b c t k) s = .next (waiting ((put .vxe 3 false ops .plain).modCx x fun c =>
        { c with vwait := some ((s.eq x .vxe).qlast + 1) }) 15))) ∧
    (∀ n, m.vwait = some n → endFault s 2 = none → n.toNat ≤ (s.eq x .vxe).qseq.toNat →
      exec (.vwait y a b c t k) s = .next (ended s 2 (s.modCx x fun c => { c with vwait := none }))) ∧
    (∀ n, m.vwait = some n → (s.eq x .vxe).qseq.toNat < n.toNat → exec (.vwait y a b c t k) s = .next (waiting s 15)) ∧
    (∀ i : Fin 8, m.shadow.get i = none → (∀ j : Fin 8, j < i → m.shadow.get j ≠ none) → syncOk .mxe → Ready s 2 [a, t] [] →
      CanAppend s .mxe r →
      let n := if a = 0 then m.mxc else m.mxc.set 6 va
      exec (.mgo y a t k) s = .next (ended s 2 ((put .mxe 0 false (toBytes va 8 ++ List.replicate 16 0 ++ [BitVec.ofNat 8 i.val])
        (namesNest n)).modCx x fun c => { c with shadow := c.shadow.set i.val (some (n, (s.eq x .mxe).qlast + 1)) }))) ∧
    ((∀ i : Fin 8, m.shadow.get i ≠ none) → exec (.mgo y a t k) s = .next (waiting s 12))

/-! ### Micro-orders -/

/-- The real class (R243, R245, R246): each active element of vd is the exact result of the operation, rounded once into FMT;
VEXP2 and VLOG2 are correctly rounded (entry 14); a comparison writes a mask, and an unordered pair compares false. -/
def Obligations.RealMicroOrders : Prop :=
  ∀ (s : State) (q : Run) (y : Fin 4) (st : Nat) (d a b : BitVec 5) (md m : BitVec 3) (f : BitVec 4) (r : BitVec 2) (t : BitVec 1),
    InRun s q y st [d, a, b] → f ≠ 10 →
    let c := runner s
    let n := f.toNat
    let w := fmtWidth n
    let on := active (c.mask m) w
    let x := realAt n (c.vreg a)
    let z := realAt n (c.vreg b)
    let o := realAt n (c.vreg d)
    let sat := t == 1
    let gives := fun (i : Instr) (rm : BitVec 2) (rs : List (BitVec 5)) (p : Nat → Nat → Nat → Nat × BitVec 3) =>
      ∃ u fl, exec i s = .next (stepped s y st u fl) ∧ Wrote c u d on w rm (resultTag c n rs) fl p
    let sets := fun (i : Instr) (p : Nat → Bool) => ∃ u, exec i s = .next (stepped s y st u 0) ∧ WroteMask c u md m p
    (Unscaled (c.vreg a) n → Unscaled (c.vreg b) n →
      (∀ e ∈ [(Instr.vadd d a b m f r t, Machine.Num.add), (.vsub d a b m f r t, Machine.Num.sub), (.vmul d a b m f r t, Machine.Num.mul),
          (.vdiv d a b m f r t, Machine.Num.div)], gives e.1 r [a, b] fun j g _ => roundReal 0 n r sat g (e.2 (x j) (z j))) ∧
      gives (.vmin d a b m f t) 0 [a, b] (fun j _ _ => roundReal 0 n 0 sat 0 (Machine.Num.pick false (x j) (z j))) ∧
      gives (.vmax d a b m f t) 0 [a, b] (fun j _ _ => roundReal 0 n 0 sat 0 (Machine.Num.pick true (x j) (z j))) ∧
      (Unscaled (c.vreg d) n →
        gives (.vfma d a b m f r t) r [a, b, d] (fun j g _ => roundReal 0 n r sat g (((x j).mul (z j)).add (o j))) ∧
        gives (.vfnma d a b m f r t) r [a, b, d] (fun j g _ => roundReal 0 n r sat g ((o j).sub ((x j).mul (z j))))) ∧
      (let l := fun (i : Nat) => if w = 64 then i / 2 else i
       sets (.vcmpeq md a b m f) (fun i => (x (l i)).cmp (z (l i)) == some .eq) ∧
       sets (.vcmplt md a b m f) (fun i => (x (l i)).cmp (z (l i)) == some .lt) ∧
       sets (.vcmple md a b m f) (fun i => (x (l i)).cmp (z (l i)) == some .lt || (x (l i)).cmp (z (l i)) == some .eq))) ∧
    (Unscaled (c.vreg a) n →
      (∀ e ∈ [(Instr.vabs d a m f, Machine.Num.abs), (.vneg d a m f, Machine.Num.neg), (.vfloor d a m f, Machine.Num.floor),
          (.vrelu d a m f, fun v => if v.sign then .zero else v)], gives e.1 0 [a] fun j _ _ => roundReal 0 n 0 false 0 (e.2 (x j))) ∧
      (∀ e ∈ [(Instr.vsqrt d a m f r t, Machine.Num.sqrt), (.vrsq d a m f r t, Machine.Num.rsqrt), (.vrcp d a m f r t, (Machine.Num.ofInt 1).div)],
        gives e.1 r [a] fun j g _ => roundReal 0 n r sat g (e.2 (x j))) ∧
      gives (.vrint d a m f r) r [a] (fun j g _ => roundReal 0 n 0 false 0 ((x j).integral r g)) ∧
      gives (.vexp2 d a m f r t) r [a] (fun j g _ => roundExp2 n r sat g (elemBits (c.vreg a) w j).toNat (x j)) ∧
      gives (.vlog2 d a m f r t) r [a] (fun j g _ => roundLog2 n r sat g (elemBits (c.vreg a) w j).toNat (x j)))

/-- The integer class (R247): each active element of vd is the exact integer result modulo 2^w, or with SAT clamped to w bits
with SATF set; the comparisons write a mask. -/
def Obligations.IntegerMicroOrders : Prop :=
  ∀ (s : State) (q : Run) (y : Fin 4) (st : Nat) (d a b : BitVec 5) (md m : BitVec 3) (f : BitVec 4) (t : BitVec 1),
    InRun s q y st [d, a, b] → f = 8 ∨ f = 11 →
    let c := runner s
    let n := f.toNat
    let w := fmtWidth n
    let on := active (c.mask m) w
    let x := fun (j : Nat) => (elemBits (c.vreg a) w j).toInt
    let z := fun (j : Nat) => (elemBits (c.vreg b) w j).toInt
    let by8 := fun (v : VReg) (j : Nat) => (elemBits v 8 j).toInt
    let wrap := fun (w : Nat) (i : Int) => ((BitVec.ofInt w i).toNat, (0 : BitVec 3))
    let res := fun (w : Nat) (i : Int) => if t = 1 then
      let v := max (-2 ^ (w - 1)) (min (2 ^ (w - 1) - 1) i)
      ((BitVec.ofInt w v).toNat, if v = i then 0 else 1) else wrap w i
    let k := fun (j : Nat) => (z j % (w : Int)).toNat
    let gives := fun (i : Instr) (p : Nat → Nat × BitVec 3) =>
      ∃ u fl, exec i s = .next (stepped s y st u fl) ∧ Wrote c u d on w 0 (resultTag c n [a, b]) fl fun j _ _ => p j
    Unscaled (c.vreg a) n → Unscaled (c.vreg b) n →
      gives (.viadd d a b m f t) (fun j => res w (x j + z j)) ∧ gives (.visub d a b m f t) (fun j => res w (x j - z j)) ∧
      gives (.vimul d a b m f t) (fun j => res w (x j * z j)) ∧
      gives (.vimin d a b m f) (fun j => wrap w (min (x j) (z j))) ∧ gives (.vimax d a b m f) (fun j => wrap w (max (x j) (z j))) ∧
      gives (.viand d a b m f) (fun j => ((elemBits (c.vreg a) w j &&& elemBits (c.vreg b) w j).toNat, 0)) ∧
      gives (.vior d a b m f) (fun j => ((elemBits (c.vreg a) w j ||| elemBits (c.vreg b) w j).toNat, 0)) ∧
      gives (.vixor d a b m f) (fun j => ((elemBits (c.vreg a) w j ^^^ elemBits (c.vreg b) w j).toNat, 0)) ∧
      gives (.visll d a b m f) (fun j => ((elemBits (c.vreg a) w j <<< k j).toNat, 0)) ∧
      gives (.visrl d a b m f) (fun j => ((elemBits (c.vreg a) w j >>> k j).toNat, 0)) ∧
      gives (.visra d a b m f) (fun j => (((elemBits (c.vreg a) w j).sshiftRight (k j)).toNat, 0)) ∧
      (f = 11 →
        (∃ u, exec (.vicmpeq md a b m f) s = .next (stepped s y st u 0) ∧ WroteMask c u md m fun l => decide (x l = z l)) ∧
        (∃ u, exec (.vicmplt md a b m f) s = .next (stepped s y st u 0) ∧ WroteMask c u md m fun l => decide (x l < z l))) ∧
      (f = 8 → Unscaled (c.vreg d) 11 → ∃ u fl, exec (.vidot d a b m 11 t) s = .next (stepped s y st u fl) ∧
        Wrote c u d (fun l => (c.mask m).getLsbD l) 32 0 (resultTag c 11 [a, b, d]) fl fun l _ _ =>
          res 32 ((elemBits (c.vreg d) 32 l).toInt + by8 (c.vreg a) (4 * l) * by8 (c.vreg b) (4 * l) +
            by8 (c.vreg a) (4 * l + 1) * by8 (c.vreg b) (4 * l + 1) + by8 (c.vreg a) (4 * l + 2) * by8 (c.vreg b) (4 * l + 2) +
            by8 (c.vreg a) (4 * l + 3) * by8 (c.vreg b) (4 * l + 3)))

/-- The complex class and the conversions (R248 to R251, R257): each part of an active element is rounded once, real part first;
VTWID gives the twiddle factors; VCVT and VQNT take the part of the source that PART names; VQNT gives each block that it writes the
least scale under which its largest active magnitude fits the format (R193, R250), and each active element of it rounded under that
scale; VCVTCB the nearest codebook entry; VCPK, VCRE and VCIM join and split parts. The model's choices: correct rounding of VTWID
(entry 14), NaN and infinity in block scales and codebooks (entry 45), scaled operands of VCPK, VCRE and VCIM (entry 46), the elements
of a VCVT that set I4RES (entry 107), and which elements draw under SR, those of VCRE and VCIM above the complex count among them
(entry 108). -/
def Obligations.ComplexAndConversionMicroOrders : Prop :=
  ∀ (s : State) (q : Run) (y : Fin 4) (st : Nat) (d a b l : BitVec 5) (m cbn : BitVec 3) (f p4 : BitVec 4) (r k2 : BitVec 2) (t : BitVec 1),
    InRun s q y st [d, a, b] →
    let c := runner s
    let n := f.toNat
    let w := fmtWidth n
    let on := active (c.mask m) w
    let va := c.vreg a
    let sf := va.tag.toNat % 2 ^ 5
    let part := p4.toNat
    let x := cplxAt n va
    let z := cplxAt n (c.vreg b)
    let o := cplxAt n (c.vreg d)
    let sat := t == 1
    let gives := fun (i : Instr) (on : Nat → Bool) (rm : BitVec 2) (rs : List (BitVec 5)) (p : Nat → Nat → Nat → Nat × BitVec 3) =>
      ∃ u fl, exec i s = .next (stepped s y st u fl) ∧ Wrote c u d on w rm (resultTag c n rs) fl p
    (f = 13 ∨ f = 14 → Unscaled va n →
      (Unscaled (c.vreg b) n →
        (∀ e ∈ [(Instr.vcadd d a b m f r t, CNum.add), (.vcsub d a b m f r t, CNum.sub), (.vcmul d a b m f r t, CNum.mul),
            (.vcmulj d a b m f r t, CNum.mulj)], gives e.1 on r [a, b] fun j g h => roundCplx n r sat g h (e.2 (x j) (z j))) ∧
        (Unscaled (c.vreg d) n → gives (.vcfma d a b m f r t) on r [a, b, d]
          fun j g h => roundCplx n r sat g h (((x j).mul (z j)).add (o j)))) ∧
      gives (.vconj d a m f) on 0 [a] (fun j _ _ => roundCplx n 0 false 0 0 ((x j).1, (x j).2.neg)) ∧
      gives (.vcabs2 d a m f r t) on r [a] (fun j g h =>
        roundCplx n r sat g h (((x j).1.mul (x j).1).add ((x j).2.mul (x j).2), .zero)) ∧
      gives (.vcrot d a k2 m f) on 0 [a] (fun j _ _ => roundCplx n 0 false 0 0 (CNum.rot k2.toNat (x j)))) ∧
    (f = 13 ∨ f = 14 → sf = 11 → va.tag.getLsbD 11 = false → gives (.vtwid d a l m f t) on 0 [a] fun j _ _ =>
      let v := twiddle ((partOf n).getD 1) l.toNat (elemBits va 32 j).toNat sat
      (v.1 + v.2 * 2 ^ fmtWidth ((partOf n).getD 1), 0)) ∧
    (va.tag.getLsbD 11 = false → 1 ≤ sf → sf ≤ 14 → sf ≠ 10 → ((partOf sf).isSome = (partOf n).isSome) →
      partOk (fmtCount sf) (fmtCount n) part = true →
      let src := fun j => partSource (fmtCount sf) (fmtCount n) part j
      gives (.vcvt d a p4 m f r t) (fun j => on j && (src j).isSome) r [a] fun j g h =>
        let v := valueAt 0 va true ((src j).getD 0)
        let e := if (partOf n).isSome then roundCplx n r sat g h v else roundReal 0 n r sat g v.1
        (e.1, e.2 ||| i4res va ((src j).getD 0))) ∧
    (5 ≤ n → n ≤ 9 → va.tag.getLsbD 11 = false → 1 ≤ sf → sf ≤ 4 → partOk (fmtCount sf) (fmtCount n) part = true →
      let src := fun j => partSource (fmtCount sf) (fmtCount n) part j
      ∃ u fl, exec (.vqnt d a p4 m f r) s = .next (stepped s y st u fl) ∧ OnlyVreg c u d (r = 1) ∧
        (u.vreg d).ts = va.ts ∧ (u.vreg d).tag.toNat = n + 2 ^ 5 + (if va.tag.getLsbD 6 then 2 ^ 6 else 0) + (if va.tag.getLsbD 7 then 2 ^ 7 else 0) ∧
        let val := fun j => (valueAt 0 va false ((src j).getD 0)).1
        let block := fun k => ((List.range 32).filter fun i => on (32 * k + i)).map fun i => val (32 * k + i)
        let scale := fun (v : VReg) (k : Nat) => fldN v.bs (8 * k) 8
        (∀ k < 16, ¬ (32 * k < fmtCount n ∧ (src (32 * k)).isSome) → scale (u.vreg d) k = scale (c.vreg d) k) ∧
        (∀ k < 16, 32 * k < fmtCount n → (src (32 * k)).isSome →
          let amax := (block k).foldl maxMag .zero
          let b := scale (u.vreg d) k
          (∀ e, amax = .fin false 0 e → b = 127) ∧
          (∀ h e, amax = .fin false h e → h ≠ 0 → b ≤ 254 ∧ (b < 254 → ((fmtMax n).scale ((b : Int) - 127)).lt amax = false) ∧
            (0 < b → ((fmtMax n).scale ((b : Int) - 128)).lt amax = true)) ∧
          ((∀ g h e, amax ≠ .fin g h e) → b = 255)) ∧
        (∃ g : Nat → Nat, (r ≠ 1 → ∀ j, g j = 0) ∧ ∀ j < 2048 / w, (on j && (src j).isSome) = true →
          let b := scale (u.vreg d) (j / 32)
          elemBits (u.vreg d) w j = BitVec.ofNat w (roundReal 0 n r true (g j) (if b = 255 then .nan else (val j).scale (127 - (b : Int)))).1) ∧
        ∀ j < 2048 / w, (on j && (src j).isSome) = false → elemBits (u.vreg d) w j = elemBits (c.vreg d) w j) ∧
    (∀ tb, Unscaled va 2 → books s q cbn.toNat = some tb →
      ∃ u fl, exec (.vcvtcb d a k2 cbn m r t) s = .next (stepped s y st u fl) ∧ OnlyVreg c u d False ∧
        (u.vreg d).ts = 0x3F800000 ∧ (u.vreg d).tag.toNat = 10 + (if va.tag.getLsbD 7 then 2 ^ 7 else 0) + cbn.toNat * 2 ^ 8 ∧
        ∀ j < 512, elemBits (u.vreg d) 4 j = if active (c.mask m) 4 j && j / 128 == k2.toNat then
          BitVec.ofNat 4 (nearest tb (realAt 2 va (j % 128))).1 else elemBits (c.vreg d) 4 j) ∧
    (f = 12 ∨ f = 13 ∨ f = 14 → (∀ v ∈ [va, c.vreg b], v.tag.toNat % 2 ^ 5 = (partOf n).getD 1 ∧ v.tag.getLsbD 11 = false) →
      gives (.vcpk d a b m f) on 0 [a, b] fun j _ _ =>
        roundCplx n 0 false 0 0 ((valueAt 0 va true j).1, (valueAt 0 (c.vreg b) true j).1)) ∧
    (∀ cf, (f, cf) ∈ [((8 : BitVec 4), 12), (2, 13), (1, 14)] → sf = cf → va.tag.getLsbD 11 = false →
      gives (.vcre d a m f r t) on r [a] (fun j g _ => if j < fmtCount cf then roundReal 0 n r sat g (valueAt 0 va true j).1 else (0, 0)) ∧
      gives (.vcim d a m f r t) on r [a] (fun j g _ => if j < fmtCount cf then roundReal 0 n r sat g (valueAt 0 va true j).2 else (0, 0)))

/-- Moves, fills, permutes, masks and reductions (R77, R244, R252 to R254): the lanes, tags and scales that each gives. A reduction
puts its result into element 0 and +0 into the others: the pairwise tree over the active elements, a sum rounded under RNE or wrapped
at each addition and clamped with SAT, a product of VRDOT rounded once; +0 where no element is active. The model's choices: the masks of
moves and permutes (entry 43), ANA of VPERM (entry 44), the tags of VSPL, VZERO and VIDX (entry 47). -/
def Obligations.MoveAndMaskMicroOrders : Prop :=
  ∀ (s : State) (q : Run) (y : Fin 4) (st : Nat) (d a b : BitVec 5) (md ma mb m : BitVec 3) (f : BitVec 4) (k : BitVec 6) (n7 : BitVec 7)
    (r : BitVec 2) (t : BitVec 1),
    InRun s q y st [d, a, b] →
    let c := runner s
    let n := f.toNat
    let w := fmtWidth n
    let va := c.vreg a
    let vb := c.vreg b
    let at1 := fun (l : Nat) => (c.mask m).getLsbD l
    let lanes := fun (i : Instr) (v : VReg) (tag : BitVec 16) (new old : Nat → BitVec 32) => ∃ u, exec i s = .next (stepped s y st u 0) ∧
      OnlyVreg c u d False ∧ (u.vreg d).tag = tag ∧ (u.vreg d).ts = v.ts ∧
      ∀ l < 64, elemBits (u.vreg d) 32 l = if at1 l then new l else old l
    let kept := fun (l : Nat) => elemBits (c.vreg d) 32 l
    let fills := fun (i : Instr) (n w : Nat) (p : Nat → Nat) => ∃ u, exec i s = .next (stepped s y st u 0) ∧
      Wrote c u d (active (c.mask m) w) w 0 (BitVec.ofNat 16 n) 0 fun j _ _ => (p j, 0)
    let sets := fun (i : Instr) (p : Nat → Bool) => ∃ u, exec i s = .next (stepped s y st u 0) ∧ WroteMask c u md m p
    let red := fun (i : Instr) (n : Nat) (rs : List (BitVec 5)) => ∃ u fl, exec i s = .next (stepped s y st u fl) ∧
      OnlyVreg c u d False ∧ (u.vreg d).tag = resultTag c n rs ∧ (u.vreg d).ts = 0x3F800000 ∧ ∀ j < 2048 / fmtWidth n, j ≠ 0 → elemBits (u.vreg d) (fmtWidth n) j = 0
    exec .vnop s = .next (stepped s y st c 0) ∧
    (∃ u, exec (.vmov d a m) s = .next (stepped s y st u 0) ∧ OnlyVreg c u d False ∧ (u.vreg d).tag = va.tag ∧ (u.vreg d).ts = va.ts ∧
      (u.vreg d).bs = va.bs ∧ ∀ l < 64, elemBits (u.vreg d) 32 l =
        if at1 (if fmtWidth (va.tag.toNat % 2 ^ 5) = 64 then 2 * (l / 2) else l) then elemBits va 32 l else kept l) ∧
    (va.tag = vb.tag → lanes (.vsel d a b m) va va.tag (elemBits va 32) (elemBits vb 32)) ∧
    fills (.vspl d m f) n w (fun _ => c.v.pr.toNat) ∧ fills (.vzero d m f) n w (fun _ => 0) ∧ fills (.vidx d m r t) 11 32 (fun j => j) ∧
    (va.tag.getLsbD 5 = false →
      lanes (.vrot d a m k) va va.tag (fun l => elemBits va 32 ((l + k.toNat) % 64)) kept ∧
      lanes (.vbcst d a m k) va va.tag (fun _ => elemBits va 32 k.toNat) kept ∧
      (va.tag = vb.tag →
        lanes (.vzipl d a b m) va va.tag (fun l => elemBits (if l % 2 = 1 then vb else va) 32 (l / 2)) kept ∧
        lanes (.vziph d a b m) va va.tag (fun l => elemBits (if l % 2 = 1 then vb else va) 32 (32 + l / 2)) kept ∧
        lanes (.vuzpe d a b m) va va.tag (fun l => elemBits (if 32 ≤ l then vb else va) 32 (2 * (l % 32))) kept ∧
        lanes (.vuzpo d a b m) va va.tag (fun l => elemBits (if 32 ≤ l then vb else va) 32 (2 * (l % 32) + 1)) kept) ∧
      (Unscaled vb 11 → lanes (.vperm d a b m) va (va.tag ||| (vb.tag &&& 0x80))
        (fun l => elemBits va 32 ((elemBits vb 32 l).toNat % 64)) kept)) ∧
    sets (.mand md ma mb m) (fun l => (c.mask ma).getLsbD l && (c.mask mb).getLsbD l) ∧
    sets (.mor md ma mb m) (fun l => (c.mask ma).getLsbD l || (c.mask mb).getLsbD l) ∧
    sets (.mxor md ma mb m) (fun l => (c.mask ma).getLsbD l != (c.mask mb).getLsbD l) ∧
    sets (.mandn md ma mb m) (fun l => (c.mask ma).getLsbD l && !(c.mask mb).getLsbD l) ∧
    sets (.mnot md ma m) (fun l => !(c.mask ma).getLsbD l) ∧
    sets (.mfirst md m n7) (fun l => decide (l < n7.toNat)) ∧
    sets (.mfromv md a m) (fun l => elemBits va 32 l != 0) ∧
    (∃ u, exec (.vmpop d ma m) s = .next (stepped s y st u 0) ∧ OnlyVreg c u d False ∧ (u.vreg d).tag = 11 ∧
      (u.vreg d).data = BitVec.ofNat 2048 ((List.range 64).filter fun l => (c.mask ma).getLsbD l).length) ∧
    (∀ sf, (sf = n ∧ (n = 1 ∨ n = 4 ∨ n = 11)) ∨ (n = 1 ∧ (sf = 2 ∨ sf = 3)) → Unscaled va sf →
      let on := active (c.mask m) (fmtWidth sf)
      let depth := if fmtWidth sf = 64 then 5 else if fmtWidth sf = 32 then 6 else 7
      let none1 := ∀ j < 2 ^ depth, on j = false
      let first := fun (i : Instr) (p : Nat) => ∃ u fl, exec i s = .next (stepped s y st u fl) ∧
        elemBits (u.vreg d) (fmtWidth n) 0 = BitVec.ofNat (fmtWidth n) p
      let pat := fun (v : Machine.Num) => (roundReal 0 n 0 (t == 1) 0 v).1
      let rnd := fun (v : Machine.Num) => decodeReal 0 n (pat v)
      let x := realAt sf va
      let z := realAt sf vb
      let cut := fun (i : Int) => if t = 1 then max (-2 ^ 31) (min (2 ^ 31 - 1) i) else (BitVec.ofInt 32 i).toInt
      let xi := fun j => (elemBits va 32 j).toInt
      let zi := fun j => (elemBits vb 32 j).toInt
      let only := fun {α : Type} (v : Nat → α) (j : Nat) => if on j then some (v j) else none
      let real := fun (f : Machine.Num → Machine.Num → Machine.Num) (v : Nat → Option Machine.Num) => pat ((pairwise f v depth 0).getD .zero)
      let int := fun (f : Int → Int → Int) (v : Nat → Option Int) => (BitVec.ofInt 32 (cut ((pairwise f v depth 0).getD 0))).toNat
      (∀ i ∈ [Instr.vrsum d a m f t, .vrmax d a m f t, .vrmin d a m f t, .vramax d a m f t], red i n [a] ∧ (none1 → first i 0)) ∧
      (¬ none1 → n ≠ 11 →
        first (.vrsum d a m f t) (real (fun v w => rnd (v.add w)) fun j => some (if on j then x j else .zero)) ∧
        first (.vrmax d a m f t) (real (Machine.Num.pick true) (only x)) ∧
        first (.vrmin d a m f t) (real (Machine.Num.pick false) (only x)) ∧
        first (.vramax d a m f t) (real (Machine.Num.pick true) (only fun j => (x j).abs))) ∧
      (¬ none1 → n = 11 →
        first (.vrsum d a m f t) (int (fun v w => cut (v + w)) fun j => some (if on j then xi j else 0)) ∧
        first (.vrmax d a m f t) (int max (only xi)) ∧ first (.vrmin d a m f t) (int min (only xi)) ∧
        first (.vramax d a m f t) (int max (only fun j => ((xi j).natAbs : Int)))) ∧
      (Unscaled vb sf → red (.vrdot d a b m f t) n [a, b] ∧ (none1 → first (.vrdot d a b m f t) 0) ∧
        (¬ none1 → n ≠ 11 → first (.vrdot d a b m f t)
          (real (fun v w => rnd (v.add w)) fun j => some (if on j then rnd ((x j).mul (z j)) else .zero))) ∧
        (¬ none1 → n = 11 → first (.vrdot d a b m f t)
          (int (fun v w => cut (v + w)) fun j => some (if on j then cut (xi j * zi j) else 0))))) ∧
    (f = 11 → Unscaled va 11 → c.mask m ≠ 0 →
      let xs := (List.range 64).filterMap fun l => if at1 l then some (elemBits va 32 l).toInt else none
      (∃ v ∈ xs, (∀ x ∈ xs, x ≤ v) ∧ ∃ u, exec (.vrmax d a m f t) s = .next (stepped s y st u 0) ∧ elemBits (u.vreg d) 32 0 = BitVec.ofInt 32 v) ∧
      (∃ v ∈ xs, (∀ x ∈ xs, v ≤ x) ∧ ∃ u, exec (.vrmin d a m f t) s = .next (stepped s y st u 0) ∧ elemBits (u.vreg d) 32 0 = BitVec.ofInt 32 v) ∧
      (t = 0 → ∃ u fl, exec (.vrsum d a m f t) s = .next (stepped s y st u fl) ∧ elemBits (u.vreg d) 32 0 = BitVec.ofInt 32 xs.sum))

/-- The memory, ring and loop micro-orders (R242, R255, R258), where the accesses that each makes succeed: VLD and VLDG write the
active lanes of vd, VST and VSCT store them, VLDBS and VSTBS move the block scales; INC advances the base register; VDEFER appends an
entry for each active lane and moves TAIL; VLOOP arms a level or skips its body, VEND ends the run. The run then stands at its next step. -/
def Obligations.MemoryAndLoopMicroOrders : Prop :=
  ∀ (s : State) (q : Run) (y : Fin 4) (st : Nat) (d a b p : BitVec 5) (i l : BitVec 1) (k nv : BitVec 2) (o : BitVec 12) (m : BitVec 3)
    (f : BitVec 8) (n : BitVec 10),
    InRun s q y st [d, a, b] →
    let x := s.core.vx
    let c := runner s
    let v := c.vreg d
    let on := fun (l : Nat) => (c.mask m).getLsbD l
    let ls := (List.range 64).filter on
    let base := c.vbase y k
    let off := fun (u : Int) => BitVec.ofInt 56 (o.toInt * u)
    let addr := fun (u : Int) => if i = 1 then base.addr else base.addr + off u
    let goes := fun (j : Instr) (z : State) => exec j s = .next (microNext z x y.val st 0 .next)
    let moved := fun (z : State) (u : Int) => if i = 1 then z.modCx x fun c => c.setVbase y k fun b => { b with addr := b.addr + off u } else z
    let lanes := fun (g : BitVec 16) (z t : Ctx) (p : Nat → BitVec 32) => OnlyVreg z t d False ∧ (t.vreg d).tag = g ∧
      (t.vreg d).ts = (z.vreg d).ts ∧ ∀ l < 64, elemBits (t.vreg d) 32 l = if on l then p l else elemBits (z.vreg d) 32 l
    let words := fun (r : List ((Nat × Nat) × List Byte)) (l : Nat) => BitVec.ofNat 32 ((r.find? fun e =>
      decide (e.1.1 ≤ l ∧ l < e.1.1 + e.1.2)).elim 0 fun e => ofBytes ((e.2.drop (4 * (l - e.1.1))).take 4))
    let bytes := fun (r : VReg) (first n : Nat) => (List.range n).flatMap fun j => toBytes (elemBits r 32 (first + j)) 4
    let at4 := fun (l : Nat) => base.addr + BitVec.ofNat 56 (4 * (elemBits (c.vreg b) 32 l).toNat)
    let vi := c.vreg b
    let index := vi.tag.toNat % 2 ^ 5 = 11 ∧ vi.tag.getLsbD 11 = false ∧ ∀ l ∈ ls, (at4 l).toNat % 4 = 0
    ((addr 256).toNat % 64 = 0 →
      (∀ z bs, readRanges s x ((laneRuns (c.mask m)).map fun e => (addr 256 + BitVec.ofNat 56 (4 * e.1), 4 * e.2)) = .ok (z, bs) →
        ∃ t, lanes base.tag (z.cx x) t (fun l => words ((laneRuns (c.mask m)).zip bs) l) ∧ goes (.vld d i k o m) (moved (z.setCx x t) 256)) ∧
      (∀ z, writeRanges s x true q.seq ((laneRuns (c.mask m)).map fun e => (addr 256 + BitVec.ofNat 56 (4 * e.1), bytes v e.1 e.2)) = (z, none) →
        goes (.vst d i k o m) (moved z 256))) ∧
    (index →
      (∀ z bs, readRanges s x (ls.map fun l => (at4 l, 4)) = .ok (z, bs) →
        ∃ t, lanes (base.tag ||| (vi.tag &&& 0x80)) (z.cx x) t (fun l => words ((ls.map fun l => (l, 1)).zip bs) l) ∧ goes (.vldg d k b m) (z.setCx x t)) ∧
      (∀ z, writeRanges s x false q.seq (ls.map fun l => (at4 l, toBytes (elemBits v 32 l) 4)) = (z, none) → goes (.vsct d k b m) z)) ∧
    ((addr 16).toNat % 16 = 0 →
      (∀ z bs, readRanges s x [(addr 16, 16)] = .ok (z, [bs]) →
        goes (.vldbs d i k o) (moved (z.modCx x fun c => c.setVreg d { c.vreg d with bs := BitVec.ofNat 128 (ofBytes bs) }) 16)) ∧
      (∀ z, writeRanges s x false q.seq [(addr 16, toBytes v.bs 16)] = (z, none) → goes (.vstbs d i k o m) (moved z 16))) ∧
    (∀ h t u z, a.toNat + nv.toNat < 32 → (∀ r, a.toNat ≤ r.toNat → r.toNat ≤ a.toNat + nv.toNat → lentReg (runLent c q) r = false) →
      vi.tag.toNat % 2 ^ 5 = 11 → vi.tag.getLsbD 11 = false → ringHeader s x = .ok (u, h, t) → t - h + ls.length ≤ 4096 →
      let ring := c.v.dqbase.setWidth 56
      let entry := fun (l : Nat) => toBytes (elemBits vi 32 l) 4 ++ [p.setWidth 8, BitVec.ofNat 8 (nv.toNat + 1), 0, 0] ++
        ((List.range 4).flatMap fun j => if j ≤ nv.toNat then toBytes (elemBits (c.vreg (a + BitVec.ofNat 5 j)) 32 l) 4 else [0, 0, 0, 0]) ++ List.replicate 8 0
      runWrites u x q.seq (ls.zipIdx.flatMap fun e => [(ring + BitVec.ofNat 56 (64 + 32 * ((t + e.2) % 4096)), entry e.1),
        (ring + 8, toBytes (BitVec.ofNat 64 (t + e.2 + 1)) 8)]) = (z, none) →
      goes (.vdefer p a b m nv) (z.modCx x fun c =>
        { c with v := { c.v with dqhead := BitVec.ofNat 64 h, dqtail := BitVec.ofNat 64 (t + ls.length) } })) ∧
    (st < f.toNat → f.toNat < (c.v.tables.get y).len →
      let count : BitVec 32 := if n = 0 then c.v.rc else n.setWidth 32
      (count = 0 → exec (.vloop l f n) s = .next (microNext s x y.val st 0 (.goto (f.toNat + 1)))) ∧
      (count ≠ 0 → (l = 0 → (c.v.loops.get 1).act = true → f.toNat ≤ (c.v.loops.get 1).fin) →
        (l = 1 → (c.v.loops.get 0).act = true → (c.v.loops.get 0).fin ≤ f.toNat) →
        goes (.vloop l f n) (s.setCx x { c with v := { c.v with loops := c.v.loops.setIfInBounds l.toNat ⟨true, count, st, f.toNat⟩ } }))) ∧
    (c.mask m = 0 → goes (.vend m) s) ∧ (c.mask m ≠ 0 → exec (.vend m) s = .next (microNext s x y.val st 0 .finish)) ∧
    (∀ t : Ctx, (t.v.loops.get 0).act = false → (t.v.loops.get 1).act = false → t.eq .vxe = c.eq .vxe →
      let z := stepped s y st t 0
      let len := (t.table y.val).len
      z.cx x = { t with q := (z.cx x).q } ∧ ∃ r, z.run x .vxe = some r ∧ r.seq = q.seq ∧ r.fmtst = q.fmtst ∧
        (∃ drain path t0 tk bt, r.x = .table y (if st + 1 < len then st + 1 else batchOver) drain path t0 tk bt ∧
          r.done = if st + 1 < len then q.done else !drain))

/-! ### Events of the engines -/

/-- An engine starts a head entry (R35, R39, R201, R416, R417), completes a performed one (R40) and stops at the halt line
(R354, R355). The header is checked first: an entry that fails there holds no pops (R369). At its start an entry takes its pops, the
head moves past it, it takes its place in the window, which a forced point or TSM empties first, and its checks follow (`beginRun`);
a held link takes a kick and its chain begins. At its end, once its writes are acknowledged, its number is in QSEQ and in its token
register, and its push is made.
A turn of an engine (`runAuto` of its work) does one unit: FILL, CPY, CPY2D, GATH, GSCAT and CPOST write memory (R183, R184, R186,
R189), CPS and GEXP a comb slot (R185, R188), AREAD vector registers and ADRAIN vault memory (R219, R220), a K-octet step of MGO
its bank (R78, R224), with the epilogue of its last step (R228), and a collective sends, combines and writes its chunks (R192). No other
byte of memory changes. These clauses speak of units that do not cross a 64-byte line and of memory without poison, while no hit of a
watchpoint waits for its record; of a step of MGO, with CTL.SUSACT 0 (R415). -/
def Obligations.EntriesStartCompleteAndStop : Prop :=
  ∀ (s : State) (x : CtxId) (e : Eng), e ≠ .seq →
    let q := s.eq x e
    let n := engNum e
    let z := seeHead s x e
    let same := fun (u : State) => (∀ r, (u.cx x).reg r = (z.cx x).reg r) ∧ (∀ y, y ≠ x → u.cx y = z.cx y) ∧ u.pkg = z.pkg
    (∀ (va : VAddr) (d : List Byte) (ls : List VAddr), s.core.flaw = none → z.eq x e = q → q.chain = none →
      headOf z x e = .entry va d ls → headFlag (engReady e) z x e = none → hasTurn (engReady e) z x e = true →
      (¬ (e = .cpe ∧ entryCode d = 0xFE) →
        let h := dfield d 0 8
        (h.testBit 31 = false → headerFault (z.cx x) e false (headSeq q va d) d = none →
          ∃ u r, exec (.entryStart x e) s = .next (beginRun (engBegin e) u x e) ∧
            ((q.forced = true ∨ 16 ≤ q.window.length) →
              exec (.forcedPointStart x e) s = .next (beginRun (engBegin e) u x e)) ∧
            u.run x e = some r ∧ r.addr = va ∧ r.hdr.toNat = h ∧ r.seq = headSeq q va d ∧ r.begun = false ∧ r.done = false ∧
            r.fault = none ∧ (u.eq x e).qhead = (va + 64).setWidth 64 ∧ (u.eq x e).forced = false ∧
            (u.eq x e).window.map (·.seq) = (if h.testBit 28 ∨ q.forced = true ∨ 16 ≤ q.window.length then []
              else q.window.map (·.seq)) ++ [r.seq] ∧
            (∀ p < 7, p ≠ n → (u.cx x).tokens p n + (popsOf r.sync).count p = (z.cx x).tokens p n) ∧ same u ∧ u.mem = z.mem) ∧
        (∀ f, headerFault (z.cx x) e false (headSeq q va d) d = some f → h.testBit 29 = false → (z.cx x).inst = true →
          (z.cx x).inh = false → (z.cx x).trap = none → (z.cx x).saving = none → (z.cx x).dying = false → z.pkg.hits = [] →
          allStopped z x = false → ∃ t r, exec (.entryStart x e) s = .next t ∧ t.run x e = some r ∧ r.addr = va ∧
            r.fault = some (f.cause, f.val) ∧ r.headBad = true ∧ progressOf z e r = BitVec.allOnes 32 ∧ (t.cx x).tq = (z.cx x).tq ∧
            (t.cx x).line = true ∧ (t.cx x).trap = some ⟨f.cause, BitVec.ofNat 3 n, false, r.seq, f.val⟩ ∧ t.mem = z.mem)) ∧
      (e = .cpe → entryCode d = 0xFE → linkFault d = none → z = s →
        ∃ t c, exec (.heldLinkRun x) s = .next t ∧ (t.cx x).kick = (s.cx x).kick - 1 ∧ (t.eq x .cpe).chain = some c ∧
          c.link = va ∧ c.left = dfield d 24 8 ∧ c.addr = BitVec.ofNat 56 (dfield d 16 8) ∧ c.seq = headSeq q va d ∧
          c.ret = va + 64 ∧ t.mem = s.mem ∧ same t)) ∧
    (∀ r, s.run x e = some r → r.done = true → r.fault = none → r.posts = [] → s.pkg.hits = [] → q.stop = false → (s.cx x).line = false → s.core.gate = .on →
      ∃ t, exec (.entryCompletion x e) s = .next t ∧ (t.eq x e).run = none ∧ (t.eq x e).qseq = r.seq ∧
        (let p := r.sync.toNat / 2 ^ 12
         p < 7 → (t.cx x).tokens n p = min 15 ((s.cx x).tokens n p + 1)) ∧
        (let k := r.hdr.toNat / 2 ^ 48 % 2 ^ 8
         0 < k → k < 64 → (t.cx x).reg (BitVec.ofNat 6 k) = r.seq ∧ (t.cx x).tkpend.getLsbD k = false) ∧
        ∀ y, y ≠ x → t.cx y = s.cx y) ∧
    (q.stop = false → (s.cx x).line = true → (s.cx x).dying = false → (∀ r, s.run x e = some r → isWaiting e r = false) →
      ∀ w, xlate s x 2 ((s.cx x).trec.setWidth 56 + BitVec.ofNat 56 (64 * n)) = .ok w →
        OwnSection s x w.pa.toNat → InMemory w.pa.toNat → dwAll s w.pa.toNat 64 false = [] →
        ∃ t, exec (.engineStop x e) s = .next t ∧ (t.eq x e).stop = true ∧ (t.eq x e).run = q.run ∧
          t.mem = memWrite s.mem w.pa.toNat (stopRecord s x e) ∧ ∀ y, y ≠ x → t.cx y = s.cx y) ∧
    (∀ (r : Run) (z : State), WorksIn s x e r z → s.pkg.poison = [] → s.pkg.hits = [] →
      let t := runAuto s (.work x e)
      let code := r.hdr.toNat % 2 ^ 8
      let a : VAddr := r.a.setWidth 56
      let b : VAddr := r.b.setWidth 56
      let off := fun (v : VAddr) (n : Nat) => v + BitVec.ofNat 56 n
      let fa := fun lo n => r.a.toNat / 2 ^ lo % 2 ^ n
      let fc := fun lo n => r.c.toNat / 2 ^ lo % 2 ^ n
      let advanced := fun (total : Nat) => ∃ k, t.run x e = some k ∧ k.prog = r.prog + 1 ∧ (k.done = true ↔ total ≤ r.prog + 1)
      let written := fun (y : State) (va : VAddr) (bs : List Byte) (total : Nat) =>
        ∀ v, UnitWrite y x va bs.length v → t.mem = memWrite s.mem v.pa.toNat bs ∧ advanced total
      let copied := fun (y : State) (src dst : VAddr) (n total : Nat) =>
        ∀ u, UnitAt y x 5 src n u → written (tlbFill y x src u) dst (memRead s.mem u.pa.toNat n) total
      -- FILL, CPY, CPY2D
      (e = .cpe → (code = 4 ∨ code = 0) → 64 * r.prog < fc 0 32 →
        let o := 64 * r.prog
        let n := min 64 (fc 0 32 - o)
        if code = 4 then
          written z (off a o) ((List.range n).map fun i => r.b.extractLsb' (8 * (i % 8)) 8) ((fc 0 32 + 63) / 64)
        else copied z (off a o) (off b o) n ((fc 0 32 + 63) / 64)) ∧
      (e = .cpe → code = 1 →
        let per := (fc 0 16 + 63) / 64
        r.prog < per * fc 16 16 →
          let i := r.prog / per
          let o := 64 * (r.prog % per)
          copied z (off a (64 * fc 32 16 * i + o)) (off b (64 * fc 48 16 * i + o)) (min 64 (fc 0 16 - o)) (per * fc 16 16)) ∧
      -- CPOST
      (e = .cpe → code = 6 → ∀ v, UnitAt z x 3 a 8 v →
        t.mem = memWrite s.mem v.pa.toNat (toBytes (BitVec.ofNat 64 (ofBytes (memRead s.mem v.pa.toNat 8)) + r.b) 8) ∧
          ∃ k, t.run x e = some k ∧ k.done = true) ∧
      -- GATH, GSCAT
      (∀ d, e = .gxe → (code = 2 ∨ code = 3) → r.x = .desc d →
        let n := dfield d 24 4
        let w := 2 ^ dfield d 28 1
        let ix : VAddr := BitVec.ofNat 56 (dfield d 8 8 + 4 * r.prog)
        let item : VAddr := BitVec.ofNat 56 (dfield d 16 8 + w * r.prog)
        r.prog < n → ∀ u, UnitAt z x 5 ix 4 u →
          let tab : VAddr := BitVec.ofNat 56 (dfield d 0 8 + w * ofBytes (memRead s.mem u.pa.toNat 4))
          let y := tlbFill z x ix u
          if code = 2 then copied y tab item w n else copied y item tab w n) ∧
      -- CPS, GEXP
      (e = .cpe → code = 2 →
        let i : BitVec 6 := r.b.setWidth 6
        let o := 64 * r.prog
        let total := (8192 + if r.c.getLsbD 5 then sideBytes (fc 0 5) else 0) / 64
        o < 8192 → ∀ u, UnitAt z x 5 (off a o) 64 u → advanced total ∧ t.mem = s.mem ∧ (t.slot i).side = (s.slot i).side ∧
          ∀ p < 8192, (t.slot i).data.extractLsb' (8 * p) 8 =
            if o ≤ p ∧ p < o + 64 then byteAt s (u.pa.toNat + (p - o)) else (s.slot i).data.extractLsb' (8 * p) 8) ∧
      (∀ g k pay ts, e = .gxe → code = 0 → r.x = .tile g → tileStep r g (fun _ _ => none) = .got ⟨some (k, pay), ts⟩ →
        let i : BitVec 6 := r.b.setWidth 6
        (s.slot i).state = 2 → oddMisuse s i = none → pairMisuse s i k.fmt k.bsp = none →
          let n := k.octetBytes
          t.mem = s.mem ∧ (∃ q, t.run x e = some q ∧ q.done = true) ∧
          ∀ o < octets k.fmt, ∀ p < n, (k.live.getLsbD o = true ∨ k.sparse = false) →
            (t.slot i).data.extractLsb' (8 * (n * o + p)) 8 =
              if k.live.getLsbD o then pay.getD (n * (List.range o).countP (k.live.getLsbD ·) + p) 0 else 0) ∧
      -- AREAD, ADRAIN
      (∀ (row : Nat) (m : Bank), m = s.bank (r.a.setWidth 5) → row = fa 5 6 + r.prog → row < 64 →
        (e = .mxe → code = 1 →
          let d : BitVec 5 := r.b.setWidth 5 + BitVec.ofNat 5 r.prog
          t.mem = s.mem ∧ advanced (fa 11 5 + 1) ∧ (∀ k, k ≠ d → (t.cx x).vreg k = (s.cx x).vreg k) ∧
          (t.cx x).vreg d = (if m.state = 0 then ⟨0, 0, 0x3F800000, 0⟩ else ⟨m.rows.toList.getD row 0, setFld m.tag 5 0#1, m.ts, 0⟩)) ∧
        (e = .cpe → code = 3 → drainSize (fc 0 5) ≠ 0 →
          let rm : BitVec 2 := fld r.c 5 2
          let y := fun j => if m.state = 0 then Machine.Num.zero else
            let v := f32 (elemAt 32 (m.rows.toList.getD row 0) j)
            if r.c.getLsbD 8 then v.mul (f32 m.ts.toNat) else v
          let g := fun j => if rm = 1 then (xorshift ((s.cx x).v.gen.toList.getD j 0)).toNat else 0
          let out := (List.range (fa 16 6 + 1)).flatMap fun j =>
            toBytes (BitVec.ofNat 32 (roundReal 0 (fc 0 5) rm (r.c.getLsbD 7) (g j) (y j)).1) (drainSize (fc 0 5))
          ∀ v c, UnitWrite z x (off b (fc 32 16 * r.prog)) out.length v → rowOf v.pa.toNat = .vault c →
            t.mem = memWrite s.mem v.pa.toNat out ∧ advanced (fa 11 5 + 1))) ∧
      -- a K-octet step of MGO, and what follows the last
      (∀ (c : NestCfg) (u : Nat) (old : Option Bank) (ev : Option NumEvent), e = .mxe → code = 0 → r.x = .nest c u old ev →
        (u = 0 → stepFault z x c r.prog = none) → susAct s = 0 →
        let p := stepOps s c r.prog
        let lives := p.live s
        let fk := c.first (c.indices r.prog)
        let lk := c.last (c.indices r.prog)
        let i := stepTarget c r.prog
        let was := fun row col => if fk ∧ u = 0 then 0 else ((s.bank i).acc.getD row []).getD col 0
        let now := fun row col => ((t.bank i).acc.getD row []).getD col 0
        t.mem = s.mem ∧ (∀ k, k ≠ i → t.bank k = s.bank k) ∧
        (∀ o, lives[u]? = some o → (∃ k, t.run x e = some k ∧ k.prog = r.prog ∧ k.done = r.done) ∧ ∀ row < 64, ∀ col < 64,
          let ps := octProducts (octRow s p.sa p.fa p.ca o true false row).vals (octRow s p.sb p.fb p.cb o false p.spb col).vals
            (octKept s p.sb p.fb o col p.spb)
          let sum := rne 1 (tree8 ps)
          now row col = if fk ∧ u = 0 then sum else rne 1 ((f32 (was row col)).add (f32 sum))) ∧
        (u = lives.length → c.lr = false → advanced c.steps ∧ ((t.bank i).emit = true ↔ lk = true ∨ (¬ (fk ∧ u = 0) ∧ (s.bank i).emit = true)) ∧
          ∀ row < 64, ∀ col < 64,
            let bias := (valueAt 0 ((s.cx x).vreg (BitVec.ofNat 5 c.ereg)) false col).1
            let v := if lk ∧ (c.eop = 1 ∨ c.eop = 2) then rne 1 ((f32 (was row col)).add bias) else was row col
            now row col = if lk ∧ (c.eop = 2 ∨ c.eop = 3) ∧ f32 v ≠ .nan ∧ (f32 v).sign = true then 0 else v)) ∧
      -- collectives
      (∀ d step acc wire ord, e = .clp → (code = 1 ∨ code = 2) → r.x = .coll d step acc wire ord → colDown s d = none →
        let n := colDev d
        let chunk := fun k => acc.getD ((colRank d + 2 * n - k) % n) []
        let j := step / 2
        let m := (colPart d false ((colRank d + 2 * n - (j + 2)) % n)).2
        (step < 2 * (n - 1) → step % 2 = 0 → t.mem = s.mem ∧
          t.pkg.out = s.pkg.out ++ [.flits (Fin.ofNat 12 (colNext d)) ord.1 (wireOf z x d (accVals (colR d) (chunk (j + 1)))).2]) ∧
        (∀ bs, step < 2 * (n - 1) → step % 2 = 1 → rxHead s r d = some bs → bs.length = wireBytes (colW d) m → t.mem = s.mem ∧
          ∃ k, t.run x e = some k ∧ k.x = .coll d (step + 1) (acc.set ((colRank d + 2 * n - (j + 2)) % n)
            (accOf (colR d) (colCombine d (unwire d m bs) (accVals (colR d) (chunk (j + 2)))))) wire ord) ∧
        (code = 2 → step = 2 * (n - 1) →
          let out := (accVals (colR d) (acc.getD (colRank d) [])).flatMap fun v => toBytes (BitVec.ofNat 32 (rne (colS d) v)) (colSize (colS d))
          ∀ v, UnitWrite z x (BitVec.ofNat 56 (dfield d 8 8)) out.length v →
            t.mem = memWrite s.mem v.pa.toNat out ∧ ∃ k, t.run x e = some k ∧ k.done = true)))

/-- The faults that no instruction raises, each with its cause and TVAL (R390), on a context that has a handler, does not run it,
and records no fault yet: a cycle bound (R403), a deadlock of tokens whose heads have stood unchanged for 1024
cycles, and no sooner (R404), a hang (R405), a refresh that is late (R394), a
timing error that persists (R413), an uncorrectable error in a vector register that a micro-order reads (R411). The line rises and
the trap is recorded; the PC stays. A timing error that does not persist, a retried request (R424), and an error that the patrol scrub
corrects are only counted (R412); an uncorrectable one poisons its word, or the words of a dirty L2 line (R408). When a deadlock is
looked for (entry 71), and that REFRESH names the row refreshed next (entry 72), are the model's choices. -/
def Obligations.MachineFaultsAreRaised : Prop :=
  ∀ (s : State) (x : CtxId), (s.cx x).inst = true → (s.cx x).inh = false → (s.cx x).trap = none → (s.cx x).saving = none →
    (s.cx x).dying = false → s.pkg.hits = [] → allStopped s x = false →
    let raised := fun (t : State) (cause : BitVec 8) (eng : Nat) (seq v : Word) =>
      (t.cx x).trap = some ⟨cause, BitVec.ofNat 3 eng, false, seq, v⟩ ∧ (t.cx x).line = true ∧ (t.cx x).pc = (s.cx x).pc ∧
      (t.cx x).s = (s.cx x).s ∧ t.mem = s.mem
    let stood := fun (since : Word) => (s.cx x).dead = some (deadHeads s x, since) ∧ 1024 ≤ (s.core.cycle - since).toNat
    let marked := fun (t : State) (e : Eng) (cause : BitVec 8) (v : Word) => (t.run x e).map (·.fault) = some (some (cause, v))
    (∀ (e : Eng) (r : Run), s.run x e = some r → r.fault = none → r.hdr.getLsbD 29 = false →
      (let b := r.hdr.toNat / 2 ^ 32 % 2 ^ 16
       b ≠ 0 → 64 * b ≤ (s.core.cycle - r.cycle).toNat → (s.eq x e).stop = false →
        ∃ t v, exec (.boundExpiry x e) s = .next t ∧ raised t 0x20 (engNum e) r.seq v ∧ marked t e 0x20 v ∧
          v.toNat / 2 ^ 8 = r.seq.toNat % 2 ^ 48 * 2 ^ 8 + engNum e ∧ (isWaiting e r = false → v.toNat % 2 ^ 8 = 0xFF)) ∧
      (e ≠ .seq → ∃ t, exec (.timingRepeat x e true) s = .next t ∧
        raised t 0x32 (engNum e) r.seq (BitVec.ofNat 64 (engNum e)) ∧ marked t e 0x32 (BitVec.ofNat 64 (engNum e)))) ∧
    (∃ t, exec (.timingRepeat x .seq true) s = .next t ∧ raised t 0x32 0 0 0) ∧
    (∀ (q : Run) (y : Fin 4) (st : Nat) (d a : BitVec 5) (m : BitVec 3),
      s.core.vx = x → s.run x .vxe = some q → (∃ drain path t0 taken batch, q.x = .table y st drain path t0 taken batch) → [d, a].find? (lentReg (runLent (s.cx x) q)) = none →
      s.core.flaw = some (.vdata x a) → ∃ t, exec (.vmov d a m) s = .next t ∧ raised t 0x30 0 0 (BitVec.ofNat 64 (4 * 2 ^ 56)) ∧
        ∀ r, (t.cx x).vreg r = (s.cx x).vreg r) ∧
    (∀ e, exec (.timingRepeat x e false) s = .next ((countCE s 8).modCore fun k => { k with repeats := k.repeats + 1 })) ∧
    (∀ l since, (s.cx x).line = false → deadlock (pointers s x) = 0 :: l → stood since → ∃ t v, exec (.deadlockDetection x) s = .next t ∧
      raised t 0x21 0 0 v ∧ ∀ i < 64, v.getLsbD i = (0 :: l).contains i) ∧
    (∀ e l va d ls since, (s.cx x).line = false → e ∈ engines → deadlock (pointers s x) = engNum e :: l → stood since →
      headOf s x e = .entry va d ls → (entryHdr d).getLsbD 29 = false →
      ∃ t v, exec (.deadlockDetection x) s = .next t ∧ raised t 0x21 (engNum e) (headSeq (s.eq x e) va d) v ∧ marked t e 0x21 v ∧
        (t.cx x).tq = (s.cx x).tq ∧ ∀ i < 64, v.getLsbD i = (engNum e :: l).contains i) ∧
    (∀ heads since, (s.cx x).dead = some (heads, since) → (s.core.cycle - since).toNat < 1024 →
      exec (.deadlockDetection x) s = .next s) ∧
    (∀ k d v, ctxTask s x = some k → loopRecord s k = .ok d → recPers d = true → (s.cx x).line = false → (s.cx x).halted = false →
      (s.cx x).beat = some v →
      let us := (ctl s 0xF00008).toNat % 2 ^ 32
      0 < us → 1000 * us ≤ (s.pkg.stroke - (s.cx x).hbeat).toNat → ∃ t, exec (.hangWatchdogExpiry x) s = .next t ∧
        raised t 0x22 0 0 v) ∧
    (∀ b : Fin 4, let k := s.core.nd.get b
      let late := (s.pkg.stroke - k.refAt).toNat
      k.holder = some x → 3900 ≤ late → ∃ t, exec (.refreshIntervalExpiry b) s = .next t ∧
        raised t 0x23 0 0 (ndVal 0 b.val k.refrow ((late - 3900) * clockMhz s / 1000)) ∧
        (t.core.nd.get b).row = none ∧ (t.core.nd.get b).refrow = k.refrow + 1 ∧ (t.core.nd.get b).refAt = s.pkg.stroke) ∧
    (∀ q, let sent : Bool := match q with
        | .access n => (s.cx x).acc.any (fun a => a.id == n)
        | .fetch | .store => (s.cx x).task.isSome
        | .unit e => (s.run x e).any fun r => r.begun && !r.done
      exec (.requestRetry x q) s = .next (if sent then countCE s 7 else s)) ∧
    (∀ a : BitVec 52,
      let poisons := fun (err : EccErr) (lo n : Nat) => ∃ t, exec (.patrolScrub a err) s = .next t ∧
        (∀ u, u ∈ t.pkg.poison ↔ u ∈ s.pkg.poison ∨ (lo ≤ u ∧ u < lo + n)) ∧ t.mem = s.mem ∧ t.core = s.core
      let word := a.toNat / 8
      let line := a.toNat / 128 * 16
      (∀ g, region s a.toNat = .hbm g → exec (.patrolScrub a .corrected) s = .next (countCE s 2) ∧
        exec (.patrolScrub a .l2Corrected) s = .next (countCE s 3) ∧ poisons .uncorrectable word 1 ∧
        poisons (.l2Data true) line 16 ∧ poisons (.l2Data false) line 0 ∧
        ∀ w, poisons (.l2Tag w true) line 16 ∧ poisons (.l2Tag w false) line 0) ∧
      (∀ k, region s a.toNat = .vault k → exec (.patrolScrub a .corrected) s = .next (countCE s 0) ∧ poisons .uncorrectable word 1) ∧
      (∀ k, region s a.toNat = .ndram k → ownNd s a.toNat = none →
        exec (.patrolScrub a .corrected) s = .next (countCE s 1) ∧ poisons .uncorrectable word 1))

/-! ### Events of the map, of power and of the boot -/

/-- Changes of the construction map (R329, R330, R423, R427), of links (R327, R412), of the clock (R25, R26), power gating
(R296, R297), timing windows (R414), the boot (R313, R437), block worlds (R318) and scans (R177, R178). A change clears its bit and
VER rises by 1, its last write, while no other change is in progress: one that arrives meanwhile waits, but a step of the clock does
not (the model's choice: entry 118); a task that had acknowledged
the map is DUE by the deadline of R330, with MAPP. A retired elevator is the primary of no destination whose row has a live alternate.
The post of an ended scan follows its registers and, at FAIL, the rise of VER. A core of the boot is decided once both its DONE words
are nonzero, or not live when 1 s has passed since its launch A(c) was accepted (entry 113). Which neighbour stands in for an
elevator (entry 104), and the readings of entries 77, 78, 80 and 81, are the model's choices. -/
def Obligations.MapPowerAndBootEvents : Prop :=
  ∀ s : State,
    (∀ (i : Instr) (o b : Nat),
      ((∃ g : Fin 8, (i = .mapChange (.hbm g) ∨ i = .hbmStackFailure g) ∧ o = oHbm g.val ∧ b = 0) ∨
        (∃ (k : BitVec 7) (n : Fin 16), i = .mapChange (.bank k n) ∧ o = oCol k.toNat ∧ b = 2 + n.val) ∨
        (∃ k : BitVec 7, i = .elevatorRetirement k ∧ k ∉ s.pkg.retired ∧ o = oCol k.toNat ∧ b = 18) ∨
        (∃ l : Fin 12, (i = .mapChange (.link l) ∨ i = .linkDown l ∨ ∃ n, 16 ≤ n ∧ i = .flitReceive l n ∧ linkUp s l.val = true) ∧
          (∀ x, colRunning s x = none) ∧ o = 0x100AC0 + 8 * l.val ∧ b = 0)) →
      s.pkg.changes = [] → (ctl s o).getLsbD b = true →
      ∃ t, exec i s = .next t ∧ (ctl t o).getLsbD b = false ∧ (∀ j, j ≠ b → (ctl t o).getLsbD j = (ctl s o).getLsbD j) ∧
        ctl t oVer = ctl s oVer + 1 ∧ t.mem = s.mem ∧
        ∀ x, (s.cx x).task ≠ none → (s.cx x).ack = .acked → (s.cx x).ackver ≠ ctl t oVer → (s.cx x).saving = none →
          (t.cx x).tstat.getLsbD 2 = true ∧
            (t.cx x).ack = .due (s.pkg.stroke + BitVec.ofNat 64 (1000 * ((ctl s 0x100008).toNat % 2 ^ 32)))) ∧
    (∀ (c : BitVec 9) (p : BitVec 9), lmap s c.toNat = some p → logicalOf s p = some c → physBusy s p = false →
      (∀ n ∈ sectionsOf p.toNat, secTag s n = none) → s.pkg.changes = [] →
      ∃ t, exec (.mapChange (.core c)) s = .next t ∧ coreLive t c = false ∧ lmap t c.toNat = none ∧ ctl t oVer = ctl s oVer + 1 ∧
        ∀ d, d ≠ c → lmap t d.toNat = lmap s d.toNat) ∧
    (∀ (c p : BitVec 9) (d : MapChange) (l : List MapChange) (i : Instr), s.pkg.changes = .core c :: l → lmap s c.toNat = some p →
      physBusy s p = true → (s.pkg.changes.contains d = false) →
      (i = .mapChange d ∨ ∃ k, i = .elevatorRetirement k ∧ d = .elevator k) → ∃ t, exec i s = .next t ∧
        t.pkg.changes = .core c :: l ++ [d] ∧ ctl t oVer = ctl s oVer ∧ lmap t c.toNat = some p ∧ t.mem = s.mem ∧
        t.pkg.routes = s.pkg.routes) ∧
    (∀ k : BitVec 7, k ∉ s.pkg.retired → s.pkg.changes = [] → ∃ t, exec (.elevatorRetirement k) s = .next t ∧ t.pkg.retired = s.pkg.retired ++ [k] ∧
      t.pkg.routes.size = s.pkg.routes.size ∧ ∀ (i : Nat) (r : Route), s.pkg.routes[i]? = some r → ∃ r', t.pkg.routes[i]? = some r' ∧
        r'.alternate = r.alternate ∧ (r.primary ∉ t.pkg.retired → r' = r) ∧
        (r.primary ∈ t.pkg.retired → r.alternate ∉ t.pkg.retired → r'.primary = r.alternate)) ∧
    (∀ (x : CtxId) (d : Word), (s.cx x).ack = .due d → d.toNat ≤ s.pkg.stroke.toNat →
      exec (.ackDeadlineExpiry x) s = .next (s.modCx x fun c => { c with ack := .late })) ∧
    (∀ l : Fin 12, ((ctl s (0x100AC0 + 8 * l.val)).getLsbD 0 = true →
        4 ≤ s.pkg.boot → ∃ t, exec (.linkTrained l) s = .next t ∧ linkUp t l.val = true ∧ t.core = s.core ∧ t.mem = s.mem) ∧
      (linkUp s l.val = true → exec (.flitReceive l 0) s = .next s ∧ exec (.flitReceive l 1) s = .next (countCE s 7))) ∧
    (let g := (ctl s 0x200410).toNat % 2 ^ 24
     s.core.gate = .on → coreIdle s = true → 0 < g → g ≤ s.core.idle →
      exec .gatingStart s = .next { s with core := { s.core with gate := .gating, mailbox := false, gateAt := s.core.cycle } }) ∧
    (s.core.gate = .gating → 64 ≤ (s.core.cycle - s.core.gateAt).toNat → exec .gatingCommit s = .next { s with core :=
      { s.core with gate := if s.core.mailbox then .waking else .gated, gcnt := s.core.gcnt + 1 } }) ∧
    (s.core.gate = .gating → (s.core.cycle - s.core.gateAt).toNat < 64 → exec .gatingCommit s = .next s) ∧
    (isMine s (lcore s) = true → s.core.gate = .gated →
      exec .wakeMessage s = .next { s with core := { s.core with gate := .waking, mailbox := true } }) ∧
    (isMine s (lcore s) = true → s.core.gate = .gating → 64 ≤ (s.core.cycle - s.core.gateAt).toNat →
      exec .wakeMessage s = .next { s with core := { s.core with mailbox := true } }) ∧
    (isMine s (lcore s) = true → s.core.gate = .gating → (s.core.cycle - s.core.gateAt).toNat < 64 →
      exec .wakeMessage s = .next { s with core := { s.core with gate := .on, idle := 0, mailbox := false } }) ∧
    (s.core.gate = .waking →
      exec .wakingDone s = .next { s with core := { s.core with gate := .on, idle := 0, mailbox := false } }) ∧
    (let lim := (ctl s 0xF00010).toNat % 2 ^ 16
     ((lim = 0 ∨ s.core.repeats ≤ lim) → exec .timingWindow s = .next { s with core := { s.core with repeats := 0, overs := 0 } }) ∧
     (0 < lim → lim < s.core.repeats → s.core.overs < 2 →
       exec .timingWindow s = .next { s with core := { s.core with repeats := 0, overs := s.core.overs + 1 } }) ∧
     (∀ c, 0 < lim → lim < s.core.repeats → 2 ≤ s.core.overs → logicalOf s s.core.phys = some c → exec .timingWindow s =
       .next (changeMap { s with core := { s.core with repeats := 0, overs := s.core.overs + 1 } } (.core c)))) ∧
    (∀ mw : Nat,
      (2700000 < mw → mw ≤ 3000000 → exec (.powerWindow mw) s = .next { s with pkg := { s.pkg with quiet := 0 } }) ∧
      (3000000 < mw → (∀ j : Fin 8, ∀ m, clkEntry s j = some m → clockMhz s ≤ m) →
        ∃ t, exec (.powerWindow mw) s = .next t ∧ t.pkg.hold = true ∧ ctl t oVer = ctl s oVer) ∧
      (∀ (i : Fin 8) (m : Nat), 3000000 < mw → clkEntry s i = some m → m < clockMhz s →
        (∀ j k, clkEntry s j = some k → k < clockMhz s → k ≤ m) →
        ∃ t, exec (.powerWindow mw) s = .next t ∧ clockMhz t = m ∧ ctl t oVer = ctl s oVer + 1) ∧
      (mw ≤ 2700000 → s.pkg.hold = true → ∃ t, exec (.powerWindow mw) s = .next t ∧ t.pkg.hold = false ∧ ctl t oVer = ctl s oVer) ∧
      (mw ≤ 2700000 → s.pkg.hold = false → s.pkg.quiet < 2 →
        exec (.powerWindow mw) s = .next { s with pkg := { s.pkg with quiet := s.pkg.quiet + 1 } })) ∧
    ((s.pkg.boot = 1 → imageOk (Config.bootImage 0) 1 = true → exec .powerOn s = .next { s with pkg := { s.pkg with boot := 2 } }) ∧
     (s.pkg.boot = 1 → imageOk (Config.bootImage 0) 1 = false → exec .powerOn s = .next s) ∧
     (s.pkg.boot = 3 → ∃ t, exec .powerOn s = .next t ∧ t.pkg.boot = 4 ∧ ctl t oVer = 0) ∧
     (s.pkg.boot = 4 → (∀ c, ∃ e ∈ s.pkg.decided, e.1 = c) → ∃ t, exec .powerOn s = .next t ∧ t.pkg.boot = 5 ∧ ctl t oVer = 1)) ∧
    (∀ (c : BitVec 9) (a b : BitVec 52), s.pkg.boot = 4 → (∀ e ∈ s.pkg.decided, e.1 ≠ c) →
      let late := (s.pkg.bootA.find? (·.1 == c)).any fun e => decide (1000000000 ≤ (s.pkg.stroke - e.2).toNat)
      let wa := wordAt s a.toNat
      let wb := wordAt s b.toNat
      let decides := fun (v : Bool) => exec (.bootCoreDecision c a b) s =
        .next { s with pkg := { s.pkg with decided := s.pkg.decided ++ [(c, v)] } }
      (late = true → decides false) ∧
      (late = false → (wa = 0 ∨ wb = 0) → exec (.bootCoreDecision c a b) s = .next s) ∧
      (late = false → wa ≠ 0 → wb ≠ 0 → ∀ p, lmap s c.toNat = some p → decides
        (let bist := ctlRead s (0x3000008 + 0x100 * p.toNat)
         decide (wa.getLsbD 63 = false ∧ wb.getLsbD 63 = false ∧ bist.getLsbD 0 = true ∧ bist.getLsbD 2 = false)))) ∧
    (∀ b : WorldBlock, (match b with
        | .core p => physBusy s p = false
        | .hub n => ∀ p ∈ s.pkg.packets, p.cons ≠ n.val
        | .spe n => (s.spe n).packet = none) →
      ∃ t, exec (.blockWorldTakeEffect b) s = .next t ∧ blockChanging t b = false ∧ t.core = s.core ∧ t.mem = s.mem ∧
        blockWorld t b = (ctl s (worldBit b).1).getLsbD (worldBit b).2) ∧
    (∀ (c : BitVec 9) (k : Scan), scanOf s c = some k →
      (k.state = 1 → drained s c = true → ∃ t, exec (.scanDrainEnd c) s = .next t ∧ t.mem = s.mem ∧
        (∃ j ∈ t.pkg.scans, j.core = c ∧ j.state = 2 ∧ j.start = s.pkg.stroke ∧ j.phys = k.phys) ∧
        (k.phys = s.core.phys → t.core.scanst = 2) ∧ (k.phys ≠ s.core.phys → ctl t (0x3000010 + 0x100 * k.phys.toNat) = 2)) ∧
      (∀ sig : Word, k.state = 2 → 100 * k.npat.toNat ≤ (s.pkg.stroke - k.start).toNat → k.phys ≠ s.core.phys → sig = k.expsig →
        ∃ t, exec (.scanRunEnd c sig) s = .next t ∧ (∀ j ∈ t.pkg.scans, j.core ≠ c) ∧ t.pkg.scanEnds = s.pkg.scanEnds ++ [k] ∧
          ctl t (0x3000018 + 0x100 * k.phys.toNat) = sig ∧ (ctl t (0x3000010 + 0x100 * k.phys.toNat)).toNat % 8 = 3))

/-! ### Register writes as events -/

/-- Writes of control registers by an agent that is secure (R7, R8, R320, R323), with what each does beside: ownership and its epoch
(R321), the host's offer (R322), interrupts (R325), extension and attestation (R315, R316; entry 22 for the address), queue control
blocks (R206, R450), block worlds, which wait for their block (R318), stops (R333), counters (R338), patches (R425). The home then
checks the watchpoints (`dwOther`). A write of BOOT.ATTREQ sets BUSY, and is ignored while it stands; a later step writes the report
and sets DONE. An agent whose world may not reach the address is refused (R319, R391): the host's write is discarded. An agent that
the boot has not released writes nothing (R313). -/
def Obligations.ControlRegisterWriteEvents : Prop :=
  ∀ (s : State) (who : Agent) (v : Word),
    let wrote := fun (i : Instr) (o : Nat) (P : State → Prop) =>
      ∃ t, exec i s = .next (dwOther t (ctlBase + o) 8 false) ∧ P t
    (released s who = true → agentSecure s who = true →
      (∀ k : Fin 128, wrote (.registerWrite who (BitVec.ofNat 28 (0x200000 + 8 * k.val)) v) (0x200000 + 8 * k.val) fun t =>
        ctl t (0x200000 + 8 * k.val) = (ctl s (0x200000 + 8 * k.val) &&& ~~~0xFF) ||| (v &&& 0xFF) ∧ t.core = s.core ∧ t.mem = s.mem) ∧
      (v.toNat < 8 → wrote (.extcmdWrite who v) 0x500240 fun t => t = extendMeas s v.toNat (ctlBytes s 0x500200 8)) ∧
      (8 ≤ v.toNat → wrote (.extcmdWrite who v) 0x500240 fun t => t = s) ∧
      wrote (.attreqWrite who v) 0x5002C0 (fun t => t = if (ctl s 0x5002C8).getLsbD 1 then s else setCtl (setCtl s 0x5002C0 v) 0x5002C8 2) ∧
      (let x := v.toNat % 8
       (x ≤ 4 → wrote (.ownWrite who v) 0x100 fun t => owner t = x ∧ ctl t 0x108 = 0 ∧ t.core = s.core ∧ t.mem = s.mem ∧
          (ctl t 0x100).toNat / 2 ^ 8 = ((ctl s 0x100).toNat / 2 ^ 8 + if x = owner s then 0 else 1) % 2 ^ 8) ∧
       (4 < x → wrote (.ownWrite who v) 0x100 fun t => t = s)) ∧
      wrote (.hofferWrite who v) 0x108 (fun t => t = setCtl s 0x108 (v &&& 7)) ∧
      (v.toNat < 64 → wrote (.hostirqWrite who v) 0x300 fun t =>
        t = { s with pkg := { s.pkg with out := s.pkg.out ++ [.msix (v.setWidth 6)] } }) ∧
      (∀ (n : Fin 18) (i : Fin 16), wrote (.qcbWrite who n i v) (oQcb n.val i.val) fun t =>
        (∀ j < 64, (ctl t (oQcb n.val i.val)).getLsbD j =
          if j = 63 ∨ j = 62 ∨ (6 ≤ j ∧ j < 52) then v.getLsbD j else (ctl s (oQcb n.val i.val)).getLsbD j) ∧
        t.pkg.qbad = s.pkg.qbad.filter fun e => decide (e ≠ (n.val, i.val))) ∧
      (∀ w : Fin 8, wrote (.blkwWrite who (BitVec.ofNat 28 (0x200 + 8 * w.val)) v) (0x200 + 8 * w.val) fun t =>
        ctl t (0x200 + 8 * w.val) = v ∧ ∀ i : Fin 64,
          let b := WorldBlock.core (BitVec.ofNat 9 (64 * w.val + i.val))
          blockWorld t b = blockWorld s b ∧ blockChanging t b = (v.getLsbD i.val != blockWorld s b)) ∧
      (∀ lid, stopState s = 0 → wrote (.stopreqGo who lid) 0x800000 fun t => stopState t = 1 ∧ t.pkg.stopLid = some lid ∧
        fldN (ctl t 0x800000) 0 16 = lid.toNat ∧ t.mem = s.mem ∧
        ∀ x, ((x ∈ ctxsOf s lid → (t.cx x).halted = true) ∧ (x ∉ ctxsOf s lid → t.cx x = s.cx x))) ∧
      wrote (.stopreqResume who) 0x800000 (fun t => stopState t = 0 ∧ t.pkg.stopLid = none ∧ t.mem = s.mem ∧
        ∀ x, (t.cx x).halted = false ∧ (t.cx x).pc = (s.cx x).pc ∧ (∀ a ∈ (t.cx x).acc, a.held = false)) ∧
      wrote (.hctlClr who) 0x800020 (fun t => (∀ o, 0xC00000 ≤ o → o < 0xE00000 → ctl t o = ctlReset o) ∧
        (ctl t 0x800020).getLsbD 0 = (ctl s 0x800020).getLsbD 0 ∧ t.core = s.core ∧ t.mem = s.mem) ∧
      (let a := (ctl s 0xF00200).toNat % 2 ^ 52 / 4 * 4
       (ctl s 0xF00228).getLsbD 1 = false → (ctl s 0xF00220).getLsbD 1 = false → (ctl s 0xF00220).getLsbD 2 = false →
        8 ≤ a % 128 → (wordAt s (a / 128 * 128)).toNat / 2 ^ 62 = 0 →
        wrote (.patchGo who) 0xF00220 fun t => t.mem = memWrite s.mem a (toBytes (ctl s 0xF00208) 4) ∧
          (ctl t 0xF00228).getLsbD 1 = true ∧ t.core.icache = s.core.icache.filter fun e => e.1.toNat != a / 128 * 128)) ∧
    (∀ l, s.agenda = .auto .attest :: l → (ctl s 0x5002C8).getLsbD 1 = true → s.pkg.stopLid = none →
      InMemory ((ctl s 0x5002C0).toNat % 2 ^ 52 / 32 * 32) → ∃ u, step s = .next u ∧
      u.mem = memWrite s.mem ((ctl s 0x5002C0).toNat % 2 ^ 52 / 32 * 32) (attReport (tick s)) ∧ ctl u 0x5002C8 = 1 ∧
      ∀ x, u.cx x = (tick s).cx x) ∧
    (∀ k : Fin 128,
      (released s who = true → agentSecure s who = false → worldOf s (ctlBase + 0x200000 + 8 * k.val) = true →
        exec (.registerWrite who (BitVec.ofNat 28 (0x200000 + 8 * k.val)) v) s = .next (if who = .host then s
          else sendOut s (.aborted who (BitVec.ofNat 52 (ctlBase + 0x200000 + 8 * k.val))))) ∧
      (released s who = false → exec (.registerWrite who (BitVec.ofNat 28 (0x200000 + 8 * k.val)) v) s = .next s)) ∧
    (∀ p, s.pkg.patch = some p → p.pcnt = 0 → ∃ t, exec .patchDone s = .next t ∧ t.pkg.patch = none ∧ t.mem = s.mem ∧
      (ctl t 0xF00228).getLsbD 0 = true ∧ (ctl t 0xF00228).getLsbD 1 = false ∧
      (ctl t 0xF00228).toNat / 2 ^ 32 = ((ctl s 0xF00228).toNat / 2 ^ 32 + 1) % 2 ^ 32)

/-- Triggers (R340) and the context registers whose write does more than set fields: QBASE empties the drained queue and makes the
next start a forced point (R35; the other bytes of the LINK that it writes are the model's choice, entry 24), TVEC installs the handler or says which check failed (R357), NDMAN takes banks (R98), a watermark is
disarmed (R205). -/
def Obligations.TriggersAndContextRegisterEvents : Prop :=
  ∀ s : State,
    (∀ (sc : Fin 16) (ev : BitVec 3) (v : BitVec 16), ev ≠ 0 →
      let fires := fun (i : Fin 4) (a : Nat) =>
        let t := (ctl s (0x800040 + 8 * i.val)).toNat
        ev.toNat ≤ 4 ∧ t % 8 = ev.toNat ∧ (ev = 4 ∨ t / 2 ^ 32 % 2 ^ 16 = v.toNat) ∧ (t.testBit 15 = true ∨ t / 2 ^ 16 % 2 ^ 4 = sc.val) ∧ t / 2 ^ 4 % 4 = a
      let tr := ctl s 0x800060
      ((∃ i, fires i 2) → exec (.triggerEvent sc ev v) s =
        .next (setCtl (setCtl s 0x800060 ((tr &&& ~~~0x100000000) ||| 0x400000000)) 0x800020 (ctl s 0x800020 &&& ~~~1))) ∧
      ((∀ i, ¬ fires i 2) → (∃ i, fires i 1) →
        exec (.triggerEvent sc ev v) s = .next (setCtl s 0x800060 (tr &&& ~~~0x100000000))) ∧
      ((∀ i, ¬ fires i 2) → (∀ i, ¬ fires i 1) → (∃ i, fires i 0) → tr.getLsbD 34 = false →
        exec (.triggerEvent sc ev v) s = .next (setCtl s 0x800060 (tr ||| 0x100000000))) ∧
      ((∀ i a, ¬ fires i a) → exec (.triggerEvent sc ev v) s = .next s)) ∧
    (∀ (x : CtxId) (e : Eng) (v : Word) (t : Tr), e ∈ engines → qbaseCheck s x v = .ok t → (s.eq x e).quiet = true →
      let base := v &&& 0xFFFFFFFFFFC000
      let t255 : Tr := { t with pa := t.pa + 0x3FC0 }
      let va : VAddr := base.setWidth 56 + 0x3FC0
      sectionFor (tlbFill s x va t255) x t255.pa.toNat = (tlbFill s x va t255, true) → dwAll s t255.pa.toNat 64 false = [] →
        (s.cx x).passed = none →
      let hdr : Word := BitVec.ofNat 64 (0xFF + 2 ^ 8 * engNum e + (if (s.cx x).world then 2 ^ 11 else 0) + 2 ^ 12 * 0xFFFF)
      exec (.qbaseWrite x e v) s = .next ((rawStore (tlbFill s x va t255) t255.pa.toNat
          (toBytes hdr 8 ++ toBytes (0 : Word) 8 ++ toBytes base 8 ++ List.replicate 40 0)).setEq x e
        { s.eq x e with qbase := base, qhead := base, qtail := 0, window := [], forced := true })) ∧
    (∀ (x : CtxId) (v : Word),
      let c := { s.cx x with tvec := v &&& 0xFFFFFFFFFFFF80 }
      (∀ ps, install s c = .ok ps → ∃ u, exec (.tvecWrite x v) s = .next (s.setCx x { c with pins := ps, tstat := u }) ∧
        u.getLsbD 1 = true ∧ fldN u 8 3 = 0) ∧
      (∀ k, install s c = .error k → k < 8 → ∃ u, exec (.tvecWrite x v) s = .next (s.setCx x { c with pins := [], tstat := u }) ∧
        u.getLsbD 1 = false ∧ fldN u 8 3 = k)) ∧
    (∀ (x : CtxId) (v : Word), (∀ i : Fin 4, (s.core.nd.get i).holder = none ∨ (s.core.nd.get i).holder = some x) →
      (∀ i : Fin 4, (s.core.nd.get i).row = none ∧ (s.core.nd.get i).busy.toNat ≤ s.pkg.stroke.toNat ∧ bankIdle s i.val = true) →
      ∃ t, exec (.ndmanWrite x v) s = .next t ∧ t.mem = s.mem ∧ t.pkg = s.pkg ∧
        t.cx x = { s.cx x with ndman := v.setWidth 4 } ∧ (∀ y, y ≠ x → t.cx y = s.cx y) ∧
        ∀ i : Fin 4, (v.getLsbD i.val = true → (s.cx x).ndman.getLsbD i.val = false →
            (t.core.nd.get i).holder = some x ∧ (t.core.nd.get i).refAt = s.pkg.stroke) ∧
          (v.getLsbD i.val = false → (s.cx x).ndman.getLsbD i.val = true → (t.core.nd.get i).holder = none) ∧
          (v.getLsbD i.val = (s.cx x).ndman.getLsbD i.val → t.core.nd.get i = s.core.nd.get i)) ∧
    (∀ (x : CtxId) (c : Fin 8), ∃ u, exec (.wmDisarmWrite x c) s = .next (s.setCx x { s.cx x with wm := u }) ∧
      (u.get c).getLsbD 63 = false ∧ (∀ i < 63, (u.get c).getLsbD i = ((s.cx x).wm.get c).getLsbD i) ∧
      ∀ k, k ≠ c → u.get k = (s.cx x).wm.get k)

/-! ### Accesses from outside, held writes, collectives, watches -/

/-- An access of the host, of a peer or of a root-port device is performed at its home, or refused (R106, R107, R123, R125, R326,
R327, R391): a read answers what the home holds, a write is made, an atomic does both. A refused one has no effect at the home: its
party is told, but a host write is discarded. That a misaligned access is refused so is the model's choice (entry 66). -/
def Obligations.OutsideAccesses : Prop :=
  ∀ (s : State) (r : OutReq) (ro : Bool),
    let refused := fun (who : Agent) (pa : BitVec 52) => match who, r.op with | .host, .write _ => s | _, _ => sendOut s (.aborted who pa)
    let answers := fun (who : Agent) (i : Instr) (pa : BitVec 52) =>
      let a := pa.toNat
      let n := 2 ^ r.lsize.val
      (a % n ≠ 0 ∨ region s a = .none ∨ (agentSecure s who = false ∧ worldOf s a = true) ∨ ndRefused s a ≠ none →
        exec i s = .next (refused who pa)) ∧
      (a % n = 0 → region s a ≠ .none → (agentSecure s who = true ∨ worldOf s a = false) → ndRefused s a = none →
        (poisonAt s a n = none → r.op = .read → exec i s = .next (sendOut s (.readData who pa (readHome s a n)))) ∧
        (∀ v, r.op = .write v → dwAll s a n false = [] → InMemory a → exec i s = .next (rawStore s a (toBytes v n))) ∧
        (∀ op v c, poisonAt s a n = none → r.op = .atomic op v c → dwAll s a n true = [] → InMemory a →
          exec i s = .next (sendOut (rawStore s a (toBytes (atomNew op n (readMem s a n) v c) n)) (.readData who pa (readMem s a n)))))
    (6 ≤ s.pkg.boot → inBars r.pa.toNat = true → endpointOp r = true → answers .host (.endpointRequest ro r) r.pa) ∧
    ((s.pkg.boot < 6 ∨ inBars r.pa.toNat = false ∨ endpointOp r = false) →
      exec (.endpointRequest ro r) s = .next (refused .host r.pa)) ∧
    (∀ l : Fin 12, (4 ≤ s.pkg.boot → linkUp s l.val = true → answers (.peer l) (.peerRequest l r) r.pa) ∧
      (s.pkg.boot < 4 ∨ linkUp s l.val = false → exec (.peerRequest l r) s = .next s)) ∧
    (∀ (i : Fin 4) (va : VAddr), let kind := match r.op with | .read => 1 | .write _ => 2 | .atomic _ _ _ => 3
      (s.pkg.boot < 4 → exec (.rootPortDeviceRequest i va r.lsize r.op) s = .next s) ∧
      (∀ t, 4 ≤ s.pkg.boot → xlateRoot s (ctl s (0x700000 + 8 * i.val)) false kind va = .ok t →
        answers (.rootPort i) (.rootPortDeviceRequest i va r.lsize r.op) t.pa) ∧
      (∀ f, 4 ≤ s.pkg.boot → xlateRoot s (ctl s (0x700000 + 8 * i.val)) false kind va = .error f →
        exec (.rootPortDeviceRequest i va r.lsize r.op) s = .next (sendOut s (.aborted (.rootPort i) (va.setWidth 52)))))

/-- Held contract writes (R131), chunks and aborts of collectives (R192, R400; what remains of DST is open: entry 18; an entry that
cannot be repeated is fatal to its context, whose launch is aborted, R361; the form of the exchange of two ends, and that an abort
flit waits on its link for the next collective, are the model's choices: entry 64), and the watch tables (R305 to R307, R407): a window that has reached its deadline fires its message, or makes its entry RUNAWAY past its budget; the scheduler reads
the launch descriptor of a message once, and makes a launch of it while fewer than 64 are accepted. -/
def Obligations.ContractsCollectivesAndWatches : Prop :=
  ∀ s : State,
    (∀ (k : Nat) (c : Contract), s.pkg.contracts[k]? = some c →
      (s.pkg.stroke.toNat < c.t.toNat → exec (.contractWriteRelease k) s = .next s) ∧
      (c.t.toNat ≤ s.pkg.stroke.toNat → 
        (∀ a ∈ [c.pa.toNat, c.pa.toNat + c.bytes.length - 1], ∀ n, sectionOf a = some n → secTag s n = some c.lid) → s.pkg.hits = [] → (∀ b ∈ c.bad, b = false) →
        dwAll s c.pa.toNat c.bytes.length false = [] →
        exec (.contractWriteRelease k) s =
          .next (rawStore { s with pkg := { s.pkg with contracts := s.pkg.contracts.eraseIdx k } } c.pa.toNat c.bytes))) ∧
    (∀ (x : CtxId) (chunk : List Byte),
      (colRunning s x = none → exec (.collChunkReceive x chunk) s = .next s) ∧
      (∀ r d, colRunning s x = some (r, d) → r.waits = false → exec (.collChunkReceive x chunk) s =
        .next { s with pkg := { s.pkg with rx := s.pkg.rx ++ [(Fin.ofNat 12 (colPrev d), (colOrd r).2, chunk)] } })) ∧
    (∀ (x : CtxId) (l : Fin 12), (colRunning s x = none ∨ ∃ r d, colRunning s x = some (r, d) ∧ l.val ≠ colNext d ∧ l.val ≠ colPrev d) →
      (∀ r, s.run x .clp = some r → r.fault = none) → exec (.collAbortFlit x l) s = .next { s with pkg := { s.pkg with
        colAborts := if s.pkg.colAborts.contains l then s.pkg.colAborts else s.pkg.colAborts ++ [l] } }) ∧
    (∀ (x : CtxId) (r : Run) (d : List Byte) (l : Fin 12), colRunning s x = some (r, d) → (l.val = colNext d ∨ l.val = colPrev d) →
      let u := colSpoil s x r d
      u.run x .clp = some r →
      (∀ j, r.hdr.getLsbD 29 = true → (u.cx x).task ≠ none → launchOf u (u.cx x).lid = some j →
        ∃ t k, exec (.collAbortFlit x l) s = .next t ∧ (t.cx x).dying = true ∧ (t.cx x).line = true ∧ (t.cx x).trap = none ∧
          launchOf t j.lid = some k ∧ k.aborted = true) ∧
      ((u.cx x).inst = true → (u.cx x).inh = false → (u.cx x).trap = none → (u.cx x).saving = none → (u.cx x).dying = false → allStopped u x = false →
        r.hdr.getLsbD 29 = false → ∃ t v, exec (.collAbortFlit x l) s = .next t ∧
        (t.cx x).trap = some ⟨0x1A, 6, false, r.seq, v⟩ ∧ (t.cx x).line = true ∧ v.toNat % 2 ^ 8 = 5 ∧
        v.toNat / 2 ^ 8 % 2 ^ 8 = l.val ∧ v.toNat / 2 ^ 16 = r.a.toNat % 2 ^ 48 ∧ t.mem = u.mem) ∧
      ((u.cx x).inst = true → (u.cx x).inh = false → (u.cx x).trap = none → (u.cx x).saving = none → (u.cx x).dying = false → allStopped u x = false →
        r.hdr.getLsbD 29 = false → ∀ (next : Bool) (n : Nat) (p : List Byte),
        (if next then l.val = colNext d ∧ n = (colOrd r).1 else l.val = colPrev d ∧ n = (colOrd r).2) →
        let t := colPairs s x l next n p
        let bad := (d.drop 24).take 9 ≠ (p.drop 24).take 9
        if bad ∨ dfield p 33 1 ≠ (colRank d + if next then 1 else colDev d - 1) % colDev d then
          ∃ v, (t.cx x).trap = some ⟨0x1A, 6, false, r.seq, v⟩ ∧ (t.cx x).line = true ∧ v.toNat % 2 ^ 8 = (if bad then 2 else 4) ∧
            v.toNat / 2 ^ 8 % 2 ^ 8 = l.val ∧ v.toNat / 2 ^ 16 = r.a.toNat % 2 ^ 48 ∧ t.mem = u.mem
        else t = s)) ∧
    (∀ (i j : Nat) (w : Watch), watchAt s i j = some w →
      (w.state ≠ 2 ∨ s.pkg.stroke.toNat < w.due.toNat → exec (.watchFire i j) s = .next s) ∧
      (w.state = 2 → w.due.toNat ≤ s.pkg.stroke.toNat → w.budget = 0 → ∃ t m, exec (.watchFire i j) s = .next t ∧
        t.pkg.waggles = s.pkg.waggles ++ [m] ∧ m.tbl = w.tbl ∧ m.idx = w.idx ∧ m.cnt = w.cnt ∧ m.bm = w.bm ∧ m.fires = w.fires + 1 ∧
        t.core = s.core ∧ t.mem = s.mem ∧ ∀ u ∈ t.pkg.watch, u.tbl = w.tbl → u.idx = w.idx →
          u.state = (if w.wdis then 3 else 1) ∧ u.fires = w.fires + 1 ∧ u.live = w.live + 1) ∧
      (w.state = 2 → w.due.toNat ≤ s.pkg.stroke.toNat → w.period = 0 → w.budget ≠ 0 → w.budget.toNat ≤ w.used →
        (ctl s oFlog).toNat % 2 ^ 52 / 2 ^ 12 = 0 → ∃ t, exec (.watchFire i j) s = .next t ∧ t.pkg.waggles = s.pkg.waggles ∧ ctl t (oFlog + 8) = ctl s (oFlog + 8) + 1 ∧
          ∃ u ∈ t.pkg.watch, u.tbl = w.tbl ∧ u.idx = w.idx ∧ u.state = 4) ∧
      (let p := 1000 * w.period.toNat
       0 < p → (w.state ≠ 2 ∨ s.pkg.stroke.toNat < w.due.toNat) → p ≤ (s.pkg.stroke - w.start).toNat → ∃ t, exec (.budgetPeriodEnd i j) s = .next t ∧ t.core = s.core ∧
        ∃ u ∈ t.pkg.watch, u.tbl = w.tbl ∧ u.idx = w.idx ∧ u.used = 0 ∧
          u.start = w.start + BitVec.ofNat 64 ((s.pkg.stroke - w.start).toNat / p * p))) ∧
    (∀ (m : Waggle) (l : List Waggle), s.pkg.waggles = m :: l →
      let z : State := { s with pkg := { s.pkg with waggles := l } }
      (m.cnt ≠ 0 → watchAt s m.tbl m.idx = none → exec .waggleMessage s = .next z) ∧
      (∀ w, m.cnt ≠ 0 → watchAt s m.tbl m.idx = some w → groupDead s w.group w.world = false →
        (∀ d, m.desc = [] → wagRead z w = .ok d → exec .waggleMessage s =
          .next { s with pkg := { s.pkg with waggles := { m with desc := d } :: l } }) ∧
        (∀ u, m.desc ≠ [] → acceptLaunch z m.desc w.root w.world w.group (some w.prio)
            (some (m.cnt.setWidth 64, m.bm, 0#8 ++ BitVec.ofNat 8 m.tbl ++ BitVec.ofNat 16 m.idx ++ m.fires)) (some (m.tbl, m.idx)) = some u →
          exec .waggleMessage s = .next u) ∧
        (m.desc ≠ [] → freeLid s = none → exec .waggleMessage s = .next s)))

/-! ### Events of the schedulers, the consumers and the optical engines -/

/-- The schedulers by themselves (R44, R49, R121, R216, R279, R282 to R285, R289, R290, R294, R324, R428, R429): a launch is read, accepted
and completed, an aborted one once its contexts have made their stores (R361); a created task whose counters have reached their
thresholds is READY; the first of the heads that its cluster has a place for is placed on the context that R284 gives, in power hold only
a SUSPENDED one; a task past its quantum is to be saved for the head of its group; the stage scheduler of a cluster moves one core at
each Q; a save ends with its area written and the task SUSPENDED; a rendezvous, a freed bank; the launches of a core that stops without
a save are aborted. Which core a stage reassignment moves (entry 38), and when tasks on other cores reach a CBAR or HALT (entry 94), are
the model's choices. -/
def Obligations.SchedulerEvents : Prop :=
  ∀ s : State,
    (∀ p, s.pkg.submit = some p →
      (∀ d, p.done = false → submitRead s p = .ok d → exec .submit s =
        .next { s with pkg := { s.pkg with submit := some { p with done := true, bytes := p.bytes ++ d } } }) ∧
      (∀ f, p.done = false → submitRead s p = .error f → f ≠ heldFlt → ∃ t, exec .submit s = .next t ∧ t.pkg.submit = none ∧ t.pkg.launches = s.pkg.launches) ∧
      (let d := p.bytes.drop 64
       let g : BitVec 16 := BitVec.ofNat 16 (dfield d 8 2)
       p.done = true → (∃ c, c ∈ groupCores s g p.world) →
        (∀ u v, acceptLaunch s d p.root p.world g none none none = some u → p.cpl = true →
          postRoot (noteBoot { u with pkg := { u.pkg with submit := none } } g) p.root p.world p.compl 1 = .ok v → exec .launchAccept s = .next v) ∧
        ((∀ n < 64, ∃ l ∈ s.pkg.launches, l.lid.toNat % 64 = n) → exec .launchAccept s = .next s))) ∧
    (∀ (l : Launch) (u : State), launchOf s l.lid = some l → l.aborted = false → (∀ k ∈ s.pkg.tasks, k.lid ≠ l.lid) →
      postRoot s l.root l.world l.done 1 = .ok u →
      ∃ t, exec (.launchCompletion l.lid) s = .next t ∧ t.mem = u.mem ∧ launchOf t l.lid = none ∧
        ∀ j, j ∈ t.pkg.launches ↔ j ∈ s.pkg.launches ∧ j.lid ≠ l.lid) ∧
    (∀ l, launchOf s l.lid = some l → elsewhere s l.lid = [] →
      (l.aborted = false → (∃ k ∈ s.pkg.tasks, k.lid = l.lid) → exec (.launchCompletion l.lid) s = .next s) ∧
      (l.aborted = true → (∀ x ∈ ctxsOf s l.lid, (s.cx x).storesLeft = false) → ∃ t, exec (.launchCompletion l.lid) s = .next t ∧
        launchOf t l.lid = none ∧ (∀ k ∈ t.pkg.tasks, k.lid ≠ l.lid) ∧ ∀ x ∈ ctxsOf s l.lid, (t.cx x).task = none) ∧
      (l.aborted = true → (∃ x ∈ ctxsOf s l.lid, (s.cx x).storesLeft = true) → exec (.launchCompletion l.lid) s = .next s)) ∧
    (∀ (k : Task) (d : List Byte), taskOf s k.id = some k → k.state = .created → loopRecord s k = .ok d →
      let root := launchRoot s k.lid
      let reached := fun (c : VAddr × Nat) (b : Bool) => ∃ v, rootRead s root.1 root.2 c.1 8 = .ok v ∧ decide (c.2 ≤ ofBytes v) = b
      ((∀ c ∈ counters d, reached c true) → ∃ t, exec (.counterAccessReport k.id) s = .next t ∧
        exec (.untrackedCounterPoll k.id) s = .next t ∧ t.core = s.core ∧ t.mem = s.mem ∧
        taskOf t k.id = some { k with state := .ready, readyAt := s.pkg.clock + 1 } ∧ ∀ i, i ≠ k.id → taskOf t i = taskOf s i) ∧
      (∀ c l1 l2, counters d = l1 ++ c :: l2 → (∀ c' ∈ l1, reached c' true) → reached c false →
        exec (.counterAccessReport k.id) s = .next s ∧ exec (.untrackedCounterPoll k.id) s = .next s)) ∧
    (((s.pkg.hold = true ∧ ∀ k ∈ s.pkg.tasks, k.state ≠ .suspended) ∨ (s.pkg.boot < 6 ∧ s.pkg.boot ≠ 4)) →
      exec .taskPlacement s = .next s) ∧
    (∀ (l1 l2 : List (Nat × Task)) (n : Nat) (k : Task) (c : BitVec 9) (x : CtxId) (d : List Byte), 6 ≤ s.pkg.boot →
      offers s = l1 ++ (n, k) :: l2 → (∀ e ∈ l1, pickPlace s e.1 e.2 = none) → pickPlace s n k = some (c, x) → k.state = .ready → k.trig = none → taskOf s k.id = some k → scanOf s c = none →
      loopRecord s k = .ok d →
      ∃ t j, exec .taskPlacement s = .next t ∧ taskOf t k.id = some j ∧ j.state = .running ∧ j.core = some c ∧ j.ctx = some x ∧
        t.mem = s.mem ∧ (isMine s c = false → t.core = s.core) ∧
        (isMine s c = true → let m := t.cx x
          m.task = some k.id ∧ m.lid = k.lid ∧ m.first = true ∧ m.reg 1 = recArg d ∧ m.reg 2 = 0 ∧
          m.pc = (if recIter d = 0 then recPro d else recKer d) + 8 ∧ m.phase = (if recIter d = 0 then .pro else .ker))) ∧
    (∀ (x : CtxId) (k : Task), ctxTask s x = some k →
      let after := s.pkg.tasks.filter fun t => isWaitingTask s t && taskGroup s t == taskGroup s k && k.core.any ((coresFor s t).contains ·)
      (∀ j, k.state = .running → k.chosen = none → quantum s ≤ (s.pkg.stroke - k.placedAt).toNat → leastBy waitKey after = some j →
        k.prio.toNat ≤ j.prio.toNat → ∃ t, exec (.quantumExpiry x) s = .next t ∧ t.core = s.core ∧ t.mem = s.mem ∧
          ∃ m ∈ t.pkg.tasks, m.id = k.id ∧ m.chosen = some .rot) ∧
      ((s.pkg.stroke - k.placedAt).toNat < quantum s ∨ (∀ j ∈ after, j.prio.toNat < k.prio.toNat) →
        exec (.quantumExpiry x) s = .next s)) ∧
    (∀ (l : Launch), launchOf s l.lid = some l →
      (l.stages.length ≤ 1 ∨ l.aborted = true ∨ (∀ k < 16, stageDue s l k = false) → exec (.stageReassignment l.lid) s = .next s) ∧
      (∀ (ns : List (Int × Nat)) (k : Nat) (e e' : BitVec 9 × Nat) (es : List (BitVec 9 × Nat)) (w : Task),
        1 < l.stages.length → l.aborted = false → stageDue s l k = true → (List.range l.stages.length).mapM (need s l) = .ok ns → k < 16 →
        (∀ j ∈ l.cores, clusterOf s j.1 = k) →
        let a := extreme true ns
        let z := extreme false ns
        l.cores.filter (fun j => decide (j.2 = z)) = e :: e' :: es →
        (let p := ns.getD a (0, 1)
         let q := ns.getD z (0, 1)
         fracLt (p.1 * (q.2 : Int) - q.1 * (p.2 : Int), p.2 * q.2) (1, 2) = false) →
        (let ts := s.pkg.tasks.filter fun t => t.lid == l.lid && t.stage == a && t.state == .suspended &&
          !s.pkg.tasks.any (·.heir == some t.id)
         (ts.find? (·.pin.isNone)).or ts.head? = some w) →
        (∀ m ∈ s.pkg.tasks, m.id = w.id → m = w) →
        ∃ t l', exec (.stageReassignment l.lid) s = .next t ∧ t.core = s.core ∧ t.mem = s.mem ∧ launchOf t l.lid = some l' ∧
          l'.cores = l.cores.map (fun j => if j.1 = e.1 then (e.1, a) else j) ∧ (∃ m ∈ t.pkg.tasks, m.id = w.id ∧ m.pin = some e.1) ∧
          ∀ m, s.pkg.tasks.find? (fun t => t.lid == l.lid && t.stage == z && t.pin == some e.1) = some m → m.state = .running →
            ∃ m' ∈ t.pkg.tasks, m'.id = m.id ∧ m'.chosen = some .reassign ∧ m'.heir = some w.id ∧ m'.pin = none)) ∧
    (∀ (x : CtxId),
      ((s.cx x).saving = none → exec (.saveComplete x) s = .next s) ∧
      ((s.cx x).saving ≠ none → (s.cx x).acc ≠ [] →
        exec (.saveComplete x) s = .next (unstartWaiting s x)) ∧
      (∀ (k : Task) (r : SaveReason) (y z : State), ctxTask s x = some k → (s.cx x).saving = some r → r ≠ .rot →
        (∀ e ∈ engines, s.run x e = none) → (s.cx x).acc = [] → k.heir = none → s.core.flaw = none → k.core ≠ none →
        let u := releaseNd s x
        areaWrite u k 0x88 (saveImage u x) = (y, none) → areaWrite y k 0x80 (toBytes (BitVec.ofNat 64 (1 + 256 * r.code)) 8) = (z, none) →
        taskOf z k.id = some k → ∃ t, exec (.saveComplete x) s = .next t ∧ (t.cx x).task = none ∧ t.mem = z.mem ∧
          ∃ j, taskOf t k.id = some j ∧ j.ctx = none ∧ j.state = .suspended)) ∧
    (∀ (l : BitVec 16) (k : Nat), k < 16 → members s l k ≠ [] → (∀ m ∈ members s l k, cbarDone s l k < m.cbar) →
      ∃ t, exec (.cbarRendezvous l) s = .next t ∧ cbarDone t l k = cbarDone s l k + 1 ∧ t.core = s.core ∧ t.mem = s.mem) ∧
    (∀ i : BitVec 5, let b := s.bank i
      b.state = 2 → b.rel.get 0 = true → b.rel.get 1 = true →
      ((∀ p ∈ (s.eq b.alc .mxe).records, b.upto.toNat < p.seq.toNat ∨ p.names.getLsbD i.toNat = false) →
        exec (.bankFreeingDone i) s = .next (s.setBank i { b with state := 0 })) ∧
      ((∃ p ∈ (s.eq b.alc .mxe).records, p.seq.toNat ≤ b.upto.toNat ∧ p.names.getLsbD i.toNat = true) →
        exec (.bankFreeingDone i) s = .next s)) ∧
    (∀ c : BitVec 9, ∃ t, exec (.coreStopWithoutSave c) s = .next t ∧ ∀ k ∈ s.pkg.tasks, k.core = some c → k.ctx ≠ none →
      launchOf s k.lid ≠ none → ∃ l, launchOf t k.lid = some l ∧ l.aborted = true)

/-- The consumers of shared queues (R148 to R151, R206, R207) and the Speum engines (R265 to R269, R273, R274): a consumer takes the packet
of its next queue and RIDX rises; a copy hub performs one unit of 64 bytes, and posts once its packet is done; an idle engine
takes the packet that waits for it, and is idle again when it is performed, or enters a measurement that fell due meanwhile;
measurements, and the validity of a calibration by age and by temperature; a packet whose work faulted posts the error once its
writes are performed (R396). The registers of a removed engine keep their values (R422). That a hub works on its oldest packet first
(entry 68), and that a measurement that fell due comes before a packet that waits for any engine (entry 102), are the model's
choices. -/
def Obligations.ConsumerAndOpticalEvents : Prop :=
  ∀ s : State,
    (∀ (n : Fin 18) (i : Fin 16) (ix : Word) (va : VAddr) (v : Nat) (bs : List (Byte × Option Nat)),
      (n.val = 17 → s.pkg.hold = false) → nextQueue s n.val = some i.val → (∀ j < 16, ∀ c a, queueTurn s n.val j ≠ .stuck c a) →
      queueTurn s n.val i.val = .ready ix va v → qRead s (ctl s (oQroot n.val i.val)) (qWorld s n.val i.val) (va + 4) 60 = .ok bs →
      (∀ b ∈ bs, b.2 = none) →
      let p : Packet := { cons := n.val, slot := i.val, index := ix, world := qWorld s n.val i.val, root := ctl s (oQroot n.val i.val)
                          bytes := toBytes (BitVec.ofNat 32 v) 4 ++ bs.map (·.1), prog := 0, done := false, posts := [], err := none
                          spe := none }
      let a := qAddr s n.val i.val + 8
      p.cpl = false → commonFault p = none → InMemory a → dwAll s a 8 false = [] →
      let u := rawStore s a (toBytes (ix + 1) 8)
      (n.val < 16 → hubFault p = none → ∃ t, exec (.consumerTakePacket n i) s = .next t ∧ t.pkg.packets = s.pkg.packets ++ [p] ∧
        t.mem = u.mem ∧ t.core = s.core) ∧
      (n.val = 17 → submitFault p = none → ∃ t, exec (.consumerTakePacket n i) s = .next t ∧ t.pkg.submit = some p ∧
        t.mem = u.mem ∧ t.core = s.core)) ∧
    (∀ (n : Fin 16) (p : Packet) (i : Instr),
      ((i = .hubCopy n ∧ p.code = 1) ∨ (i = .hubFill n ∧ p.code = 2) ∨ (i = .hubCopy2d n ∧ p.code = 3)) →
      let sel := fun q : Packet => q.cons == n.val && !q.done && decide (q.code = p.code)
      s.pkg.packets.find? sel = some p → p.prog < hubUnits p →
      let c := dfield p.bytes 32 8
      let len := if p.code = 3 then c % 2 ^ 16 else c % 2 ^ 32
      let per := (len + 63) / 64
      let o := p.prog % per * 64
      let at_ := fun (stride : Nat) => if p.code = 3 then p.prog / per * (64 * stride) + o else 64 * p.prog
      let size := if p.code = 3 then min 64 (len - o) else min 64 (len - 64 * p.prog)
      let src : VAddr := BitVec.ofNat 56 (dfield p.bytes 16 8 + at_ (c / 2 ^ 32 % 2 ^ 16))
      let dst : VAddr := BitVec.ofNat 56 (dfield p.bytes 24 8 + at_ (c / 2 ^ 48))
      ∀ (bs : List Byte) (u : State),
        (if p.code = 2 then bs = (List.range size).map fun j => p.bytes.getD (16 + j % 8) 0
         else qRead s p.root p.world src size = .ok (bs.map fun b => (b, none))) →
        qWriteFault s p.root p.world dst size = none → qWrite s p.root p.world none deviceWriter dst bs = (u, none) →
        ∃ t, exec i s = .next t ∧ t.mem = u.mem ∧ t.core = u.core ∧
          t.pkg.packets.find? (fun q => decide (q = { p with
            prog := p.prog + 1, done := decide (hubUnits p ≤ p.prog + 1),
            posts := (p.posts ++ outPorts u p.root p.world dst size).eraseDups })) ≠ none) ∧
    (∀ (n : Fin 16) (p : Packet) (l1 l2 : List Packet) (v : State), s.pkg.packets = l1 ++ p :: l2 → p.cons = n.val → p.done = true →
      p.posts = [] → (∀ q ∈ l1, q.cons ≠ n.val ∨ q.done = false ∨ q.posts ≠ []) →
      let z : State := { s with pkg := { s.pkg with packets := l1 ++ l2 } }
      (p.cpl = false → p.err = none → exec (.hubPacketDone n) s = .next z) ∧
      (p.cpl = true → qHeld s p.root p.world 6 p.compl 8 = false →
        postRoot z p.root p.world p.compl (if p.err = none then 1 else 0x8000000000000001) = .ok v →
        exec (.hubPacketDone n) s = .next v)) ∧
    (∀ (n : Fin 4),
      let e := s.spe n
      let rest := if e.due then SpeState.meas else .idle
      let busy := fun (t : State) (st : SpeState) (p : Option Packet) => (t.spe n).state = st ∧ (t.spe n).packet = p
      (∀ m ∈ [(Instr.shotPacket n, 1, SpeState.shot), (.maskPacket n, 2, .mask), (.calPacket n, 3, .cal)],
        (∀ p, e.state = .idle → e.due = false → blockChanging s (.spe n) = false → s.pkg.hold = false → s.pkg.packets.find? (waitsFor s n) = some p →
          p.code = m.2.1 → speServes s p.world n = true → ∃ t, exec m.1 s = .next t ∧ busy t m.2.2 (some { p with spe := some n }) ∧
            t.pkg.packets.length + 1 = s.pkg.packets.length ∧ t.mem = s.mem ∧ t.core = s.core) ∧
        (e.state ≠ .idle ∨ e.due = true ∨ blockChanging s (.spe n) = true ∨ s.pkg.hold = true → exec m.1 s = .next s)) ∧
      (∀ p, e.packet = some p →
        (let src := qReadStrict s p.root p.world (BitVec.ofNat 56 (dfield p.bytes 16 8))
           (fmtWidth (fldN (shotWord p) 19 5) / 8 * 2 ^ shotLogN (shotWord p) * (fldN (shotWord p) 32 14 + 1))
         e.state = .shot → shotHeld s p = false →
         ((∃ f, src = .error f ∧ f ≠ heldFlt) ∨
          ∃ bs, src = .ok bs ∧ ∃ l ∈ shotInput (shotWord p) bs, ∃ v ∈ l, Parts.finite v = false) →
         ∃ t, exec (.shotEnd n) s = .next t ∧ busy t rest none) ∧
        (∀ bs, e.state = .mask → p.cpl = false → p.err = none →
          qReadStrict s p.root p.world (BitVec.ofNat 56 (dfield p.bytes 16 8)) 262144 = .ok bs →
          (∀ i < 65536, Parts.finite (decodeElem 0 13 (dfield bs (4 * i) 4)) = true) →
          ∃ t, exec (.maskWritten n) s = .next t ∧ busy t rest none ∧ t.mem = s.mem ∧
            ∀ k : Fin 8, if k.val = dfield p.bytes 24 1 / 4 then
                ((t.spe n).masks.get k).world = p.world ∧ ∀ i < 65536, ∀ w : BitVec 32,
                  (i, w) ∈ ((t.spe n).masks.get k).img ↔ w.toNat = dfield bs (4 * i) 4 ∧ w ≠ 0
              else (t.spe n).masks.get k = e.masks.get k) ∧
        (e.state = .cal → p.cpl = false → p.err = none → dfield p.bytes 16 8 = 0 → e.profile ≠ [] → ∃ t, exec (.calWritten n) s = .next t ∧ busy t rest none ∧
          t.mem = s.mem ∧ (t.spe n).calst.toNat / 2 ^ 32 = (e.calst.toNat / 2 ^ 32 + 1) % 2 ^ 32 ∧
          (∀ i : Fin 256, ((t.spe n).rcal.get i).toNat = dfield e.profile (64 + 8 * i.val) 4 ∧
            ((t.spe n).ccal.get i).toNat = dfield e.profile (2112 + 8 * i.val) 4))) ∧
      (e.state = .idle → ∃ t, exec (.measurementStart n) s = .next t ∧ (t.spe n).state = .meas ∧ t.mem = s.mem ∧ t.core = s.core) ∧
      (e.state = .meas → exec (.measurementStart n) s = .next s) ∧
      (e.state ≠ .idle → e.state ≠ .meas → ∃ t, exec (.measurementStart n) s = .next t ∧ t.spe n = { e with due := true } ∧ t.mem = s.mem) ∧
      (∀ l : List Byte, e.state = .meas → e.due = false → l.length = 5184 → ∃ t, exec (.measurementEnd n l) s = .next t ∧ (t.spe n).profile = l ∧
        (t.spe n).state = (if (ctl s (oSpe n.val)).getLsbD 0 then .idle else .meas)) ∧
      (∀ (i : Instr) (tp : BitVec 16), (i = .calAgeExpiry n ∧ tp = e.temp) ∨ i = .calTemperatureMove n tp →
        ((ctl s (oSpe n.val)).getLsbD 0 = false → exec i s = .next s) ∧
        let old := 20000000 ≤ (s.pkg.stroke - e.calt).toNat
        let d := if tp.toNat < e.calg.toNat / 2 ^ 48 then e.calg.toNat / 2 ^ 48 - tp.toNat else tp.toNat - e.calg.toNat / 2 ^ 48
        (ctl s (oSpe n.val)).getLsbD 0 = true → e.calst ≠ 0 → ∃ t, exec i s = .next t ∧ t.mem = s.mem ∧ t.core = s.core ∧ (t.spe n).temp = tp ∧
          ((t.spe n).calst.getLsbD 0 = true ↔ e.calst.getLsbD 0 = true ∧ e.calst.getLsbD 1 = false ∧ e.calst.getLsbD 2 = false ∧
            ¬ old ∧ d < 32) ∧
          ((t.spe n).calst.getLsbD 1 = true ↔ e.calst.getLsbD 1 = true ∨ old) ∧
          ((t.spe n).calst.getLsbD 2 = true ↔ e.calst.getLsbD 2 = true ∨ 32 ≤ d)))

/-- What a shot measures (R261 to R265): with a valid calibration and no clamp, the outputs of an aperture are within the bound on
their error from the transform of its driven input, and no more of them lie beyond 2^−7 FS′ than the record of all shots still allows;
an output is clamped only where a shot may clamp, and then lies in the detector range; and every measurement that these figures
allow is possible (a measurement is a free value: entry 13). The end of a shot packet without a status record writes the outputs of its
apertures to DST, in order, each the measurement of the transform of its own input. -/
def Obligations.ShotsMeasureTheirTransform : Prop :=
  (∀ (w : Word) (valid : Bool) (m : Nat) (k : Int) (bound : Option Machine.Num) (sq : Machine.Num) (quota : Nat) (y raw cross : List Parts),
    let fs := Machine.Num.fin false m k
    let l : Limits := ⟨fs, bound, sq, y, quota⟩
    let r := measured w valid l raw cross
    let far := fun (v : List Parts) => ∃ b, bound = some b ∧ b.lt (sumAbs2 (List.zipWith Parts.sub v y)) = true
    let beyond7 := fun (v : List Parts) => ((List.zipWith Parts.sub v y).filter fun e => (sq.scale (-14)).lt e.abs2).length
    let sum := List.zipWith Parts.add raw cross
    (valid = true → r.2 = false → (∀ v ∈ y, Parts.finite v = true) → (∀ b, bound = some b → b.lt .zero = false) →
      (sq.scale (-14)).lt .zero = false → ¬ far r.1 ∧ beyond7 r.1 ≤ quota) ∧
    (neverClamps w = true → r.2 = false) ∧
    (neverClamps w = false → ∀ v ∈ r.1, fs.lt v.1.abs = false ∧ fs.lt v.2.abs = false) ∧
    (raw.any (beyond fs) = false → sum.any (beyond fs) = false →
      (valid = false ∨ (¬ far raw ∧ beyond7 raw ≤ quota ∧ ¬ far sum ∧ beyond7 sum ≤ quota)) → r = (sum, false))) ∧
  ∀ (s z u : State) (n : Fin 4) (p : Packet) (bs : List Byte) (outs : List Shot),
    let w := shotWord p
    let e := (s.spe n).check (now s)
    let mask := e.masks.toList.getD ((w.toNat / 2 ^ 12) % 8) ⟨[], 0, false⟩
    let xs := decodeReal 0 1 (dfield p.bytes 40 4)
    (s.spe n).state = .shot → (s.spe n).packet = some p → (s.spe n).due = false → p.cpl = false → p.err = none → shotHeld s p = false → dfield p.bytes 48 8 = 0 →
    qReadStrict s p.root p.world (BitVec.ofNat 56 (dfield p.bytes 16 8))
      (fmtWidth (fldN w 19 5) / 8 * 2 ^ shotLogN w * (fldN w 32 14 + 1)) = .ok bs →
    (∀ l ∈ shotInput w bs, ∀ v ∈ l, Parts.finite v = true) →
    shotAll s w (e.calv && e.calst.getLsbD 0) xs mask (ofBytes bs) (shotInput w bs) = (z, outs) →
    qWrite z p.root p.world none deviceWriter (BitVec.ofNat 56 (dfield p.bytes 24 8)) (outs.flatMap fun o => o.out.flatMap (shotBytes w)) =
      (u, none) →
    (∃ t, exec (.shotEnd n) s = .next t ∧ t.mem = u.mem ∧ (t.spe n).state = .idle ∧ (t.spe n).packet = none) ∧
    z.mem = s.mem ∧ z.core = s.core ∧ outs.length = (shotInput w bs).length ∧
    ∀ (i : Nat) (l : List Parts) (o : Shot), (shotInput w bs)[i]? = some l → outs[i]? = some o →
      let x := driven w (w.getLsbD 15) xs l
      ∃ quota raw cross, (o.out, o.clip) = measured w (e.calv && e.calst.getLsbD 0)
        ⟨detectorRange w mask.gain x, errBound w mask.gain x (driven w false xs l), rangeSquared w mask.gain x, shotExact w mask.img i x, quota⟩ raw cross

/-! ### The step, the encoding, the invariant, the reset -/

/-- A step runs the decoded instruction: when the bytes at the PC decode to `i`, the step is `exec` of `i` in the state in which
it issues, followed by what a step does around it: a MAPCHG that is due at its boundary is taken in its place, unless it faults
(R365, R388); an event that is due runs through `exec` too; and the micro-order of a table
run is the one its word decodes to (R33, R135, R146, R237). -/
def Obligations.StepRunsTheDecodedInstruction : Prop :=
  (∀ (s z : State) (i : Instr), Fetched s i z → step s = afterStep true (atBoundary i z (exec i z)) ∧
    (mapDue z z.core.cur = false → step s = afterStep true (exec i z))) ∧
  (∀ (s : State) (i : Instr) (l : List Move), s.agenda = .event i :: l → isEventInstr i = true →
    step s = afterStep false (exec i { (tick s).modCore (fun k => { k with tried := [] }) with agenda := l })) ∧
  (∀ (w : IWord) (i : Instr) (s : State), decodeMicro w = .ok i → microExec w s = some (exec i s)) ∧
  ∀ (b : Bool) (s : State), afterStep b (.next s) = .next (settle b s)

/-- Words written out from the encodings of R136 to R147 decode to the instructions that they stand for. -/
def Obligations.WordsDecode : Prop :=
  decode 0x04518700 0 = .ok (.add 5 6 7) ∧ decode 0x60518003 0 = .ok (.ldd 5 6 3) ∧ decode 0x40610520 0 = .ok (.cmp 3 0 4 5 2 0) ∧
  decode 0x506FFFFB 0 = .ok (.br 3 0 0xFFFFB) ∧ decode 0x5C110003 0 = .ok (.loop 1 4 3) ∧ decode 0x74518701 0 = .ok (.aadd 5 6 7 0) ∧
  decode 0x7C000400 0 = .ok (.mark 4) ∧ decode 0xC050C000 0 = .ok (.tagget 5 3) ∧ decode 0xE4000500 0 = .ok (.trap 5) ∧
  decode 0xAC518000 0 = .ok (.wset 5 6) ∧ decode 0xFC500000 0x000F4240 = .ok (.li 5 1000000) ∧
  decode 0x8180FFFF 0x18820A30 = .ok (.cpy 0xFFFF 6 8 8 10 0x30) ∧ decodeMicro 0x10220C08 = .ok (.vadd 2 4 3 0 1 0 0) ∧
  decodeMicro 0xD2020800 = .ok (.mor 0 4 2 0) ∧ decode 0x04518712 0 = .error .unusedFn ∧ decode 0xF0000000 0 = .ok (.act 0)

/-- Decoding undoes encoding: every well-formed sequencer instruction, at every value of its operands, is read back from its own
bytes, with the bytes after it; so is every well-formed micro-order from its word (R136 to R147, R373, R383). The drain form of
VRUN and the ring form of VBASE have the words of VRUN and VBASE (R236, R237). -/
def Obligations.DecodeUndoesEncode : Prop :=
  (∀ (i : Instr) (rest : List Byte), i.wf = true → encode i ≠ [] →
    (∀ y a b c t k, i ≠ .vrunDrain y a b c t k ∧ i ≠ .vbaseDq y a b c t k) →
    decodeBytes ((encode i).flatMap (fun w => toBytes w 4) ++ rest) = .ok (i, rest)) ∧
  (∀ y a b c t k, encode (.vrunDrain y a b c t k) = encode (.vrun y a b c t k) ∧
    encode (.vbaseDq y a b c t k) = encode (.vbase y a b c t k)) ∧
  (∀ (i : Instr) (w : IWord), i.wf = true → encodeMicro i = some w → decodeMicro w = .ok i)

/-- Every step, of the sequencer, an engine, a package block or the outside world, keeps memory in its one canonical form:
addresses rising, no listed byte that reads as an unlisted one (the model's choice for unlisted bytes: entry 3). -/
def Obligations.EveryStepKeepsMemory : Prop :=
  ∀ s t : State, Memory.wf s = true → step s = .next t → Memory.wf t = true

/-- The machine right after reset: memory has its canonical form; the map is version 0 with every
core live and its logical number its own (R328); no context runs a task (R313); no trap handler is installed (R356); no slot, bank
or codebook is held (R213, R217); the table stores hold VNOP (R233); the generators are those of R72; no owner (R321). That a
context has at power-on the values that R72, R233 and R356 give it for a task, and that the map is at reset the one of boot step 4
(R437), are the model's choices (entries 6 and 15). -/
def Obligations.ResetState : Prop :=
  let s := State.reset
  Memory.wf s = true ∧ s.pkg.launches = [] ∧ s.pkg.tasks = [] ∧ s.pkg.watch = [] ∧ s.pkg.packets = [] ∧ owner s = 0 ∧
  ctl s oVer = 0 ∧ (∀ c : BitVec 9, coreLive s c = true ∧ lmap s c.toNat = some c) ∧ clockMhz s = 2000 ∧
  (∀ x : CtxId, (s.cx x).task = none ∧ (s.cx x).inst = false ∧ (s.cx x).inh = false ∧ (s.cx x).tctl = 1 ∧
    (∀ r, (s.cx x).reg r = 0) ∧ (∀ p, (s.cx x).pred p = decide (p = 0)) ∧ (∀ m, (s.cx x).mask m = BitVec.allOnes 64) ∧
    (∀ t : Fin 4, ((s.cx x).v.tables.get t).len = 1 ∧ ∀ k : Fin 256, decodeMicro (((s.cx x).v.tables.get t).code.get k) = .ok .vnop) ∧
    ∀ l : Fin 64, (s.cx x).v.gen.get l =
      let g := BitVec.ofNat 32 (0x2545F491 + 0x9E3779B9 * l.val + 0x85EBCA6B * x.val)
      if g = 0 then 1 else g) ∧
  (∀ i, (s.slot i).state = 0) ∧ (∀ i, (s.bank i).state = 0) ∧ ∀ n, cbLoaded s 0 n = none
end

