-- ==== Sys2Proof/Laws/Fields.lean ====
section
/-! SUPPORT. The fields of the words that the encoder builds read back as they were given (R136, R144, R146). -/
namespace Sys2Proof

open Bits

/-- A field above the lower part lies in the upper part. -/
theorem field_high {n m : Nat} (x : BitVec n) (y : BitVec m) (lo len : Nat) (h : m ≤ lo) :
    (x ++ y).extractLsb' lo len = x.extractLsb' (lo - m) len := by
  apply BitVec.eq_of_getLsbD_eq
  intro i hi
  simp only [BitVec.getLsbD_extractLsb', BitVec.getLsbD_append, hi, decide_true, Bool.true_and]
  rw [if_neg (by omega)]
  congr 1
  omega

/-- A field inside the lower part is the lower part's. -/
theorem field_low {n m : Nat} (x : BitVec n) (y : BitVec m) (lo len : Nat) (h : lo + len ≤ m) :
    (x ++ y).extractLsb' lo len = y.extractLsb' lo len := by
  apply BitVec.eq_of_getLsbD_eq
  intro i hi
  simp only [BitVec.getLsbD_extractLsb', BitVec.getLsbD_append, hi, decide_true, Bool.true_and]
  rw [if_pos (by omega)]

/-- The field that is the whole word. -/
theorem field_all {n : Nat} (x : BitVec n) : x.extractLsb' 0 n = x := by
  apply BitVec.eq_of_getLsbD_eq
  intro i hi
  simp [hi, BitVec.getLsbD_eq_getElem]

/-! ### mkR -/

@[simp] theorem opc_mkR (op : BitVec 6) (d : BitVec 6) (a : BitVec 6) (b : BitVec 6) (f : BitVec 8) : opc (mkR op d a b f) = op :=
  ((field_high (op ++ d ++ a ++ b) f 26 6 (by decide)).trans ((field_high (op ++ d ++ a) b 18 6 (by decide)).trans ((field_high (op ++ d) a 12 6 (by decide)).trans ((field_high op d 6 6 (by decide)).trans (field_all op)))))

@[simp] theorem rd_mkR (op : BitVec 6) (d : BitVec 6) (a : BitVec 6) (b : BitVec 6) (f : BitVec 8) : rd (mkR op d a b f) = d :=
  ((field_high (op ++ d ++ a ++ b) f 20 6 (by decide)).trans ((field_high (op ++ d ++ a) b 12 6 (by decide)).trans ((field_high (op ++ d) a 6 6 (by decide)).trans ((field_low op d 0 6 (by decide)).trans (field_all d)))))

@[simp] theorem ra_mkR (op : BitVec 6) (d : BitVec 6) (a : BitVec 6) (b : BitVec 6) (f : BitVec 8) : ra (mkR op d a b f) = a :=
  ((field_high (op ++ d ++ a ++ b) f 14 6 (by decide)).trans ((field_high (op ++ d ++ a) b 6 6 (by decide)).trans ((field_low (op ++ d) a 0 6 (by decide)).trans (field_all a))))

@[simp] theorem rb_mkR (op : BitVec 6) (d : BitVec 6) (a : BitVec 6) (b : BitVec 6) (f : BitVec 8) : rb (mkR op d a b f) = b :=
  ((field_high (op ++ d ++ a ++ b) f 8 6 (by decide)).trans ((field_low (op ++ d ++ a) b 0 6 (by decide)).trans (field_all b)))

@[simp] theorem fn_mkR (op : BitVec 6) (d : BitVec 6) (a : BitVec 6) (b : BitVec 6) (f : BitVec 8) : fn (mkR op d a b f) = f :=
  ((field_low (op ++ d ++ a ++ b) f 0 8 (by decide)).trans (field_all f))

/-! ### mkI -/

@[simp] theorem opc_mkI (op : BitVec 6) (d : BitVec 6) (a : BitVec 6) (i : BitVec 14) : opc (mkI op d a i) = op :=
  ((field_high (op ++ d ++ a) i 26 6 (by decide)).trans ((field_high (op ++ d) a 12 6 (by decide)).trans ((field_high op d 6 6 (by decide)).trans (field_all op))))

@[simp] theorem rd_mkI (op : BitVec 6) (d : BitVec 6) (a : BitVec 6) (i : BitVec 14) : rd (mkI op d a i) = d :=
  ((field_high (op ++ d ++ a) i 20 6 (by decide)).trans ((field_high (op ++ d) a 6 6 (by decide)).trans ((field_low op d 0 6 (by decide)).trans (field_all d))))

@[simp] theorem ra_mkI (op : BitVec 6) (d : BitVec 6) (a : BitVec 6) (i : BitVec 14) : ra (mkI op d a i) = a :=
  ((field_high (op ++ d ++ a) i 14 6 (by decide)).trans ((field_low (op ++ d) a 0 6 (by decide)).trans (field_all a)))

@[simp] theorem i14_mkI (op : BitVec 6) (d : BitVec 6) (a : BitVec 6) (i : BitVec 14) : i14 (mkI op d a i) = i :=
  ((field_low (op ++ d ++ a) i 0 14 (by decide)).trans (field_all i))

/-! ### mkP -/

@[simp] theorem opc_mkP (op : BitVec 6) (p : BitVec 5) (n : BitVec 1) (a : BitVec 6) (b : BitVec 6) (c : BitVec 4) (f : BitVec 4) : opc (mkP op p n a b c f) = op :=
  ((field_high (op ++ p ++ n ++ a ++ b ++ c) f 26 6 (by decide)).trans ((field_high (op ++ p ++ n ++ a ++ b) c 22 6 (by decide)).trans ((field_high (op ++ p ++ n ++ a) b 18 6 (by decide)).trans ((field_high (op ++ p ++ n) a 12 6 (by decide)).trans ((field_high (op ++ p) n 6 6 (by decide)).trans ((field_high op p 5 6 (by decide)).trans (field_all op)))))))

@[simp] theorem pd_mkP (op : BitVec 6) (p : BitVec 5) (n : BitVec 1) (a : BitVec 6) (b : BitVec 6) (c : BitVec 4) (f : BitVec 4) : pd (mkP op p n a b c f) = p :=
  ((field_high (op ++ p ++ n ++ a ++ b ++ c) f 21 5 (by decide)).trans ((field_high (op ++ p ++ n ++ a ++ b) c 17 5 (by decide)).trans ((field_high (op ++ p ++ n ++ a) b 13 5 (by decide)).trans ((field_high (op ++ p ++ n) a 7 5 (by decide)).trans ((field_high (op ++ p) n 1 5 (by decide)).trans ((field_low op p 0 5 (by decide)).trans (field_all p)))))))

@[simp] theorem ng_mkP (op : BitVec 6) (p : BitVec 5) (n : BitVec 1) (a : BitVec 6) (b : BitVec 6) (c : BitVec 4) (f : BitVec 4) : ng (mkP op p n a b c f) = n :=
  ((field_high (op ++ p ++ n ++ a ++ b ++ c) f 20 1 (by decide)).trans ((field_high (op ++ p ++ n ++ a ++ b) c 16 1 (by decide)).trans ((field_high (op ++ p ++ n ++ a) b 12 1 (by decide)).trans ((field_high (op ++ p ++ n) a 6 1 (by decide)).trans ((field_low (op ++ p) n 0 1 (by decide)).trans (field_all n))))))

@[simp] theorem ra_mkP (op : BitVec 6) (p : BitVec 5) (n : BitVec 1) (a : BitVec 6) (b : BitVec 6) (c : BitVec 4) (f : BitVec 4) : ra (mkP op p n a b c f) = a :=
  ((field_high (op ++ p ++ n ++ a ++ b ++ c) f 14 6 (by decide)).trans ((field_high (op ++ p ++ n ++ a ++ b) c 10 6 (by decide)).trans ((field_high (op ++ p ++ n ++ a) b 6 6 (by decide)).trans ((field_low (op ++ p ++ n) a 0 6 (by decide)).trans (field_all a)))))

@[simp] theorem rb_mkP (op : BitVec 6) (p : BitVec 5) (n : BitVec 1) (a : BitVec 6) (b : BitVec 6) (c : BitVec 4) (f : BitVec 4) : rb (mkP op p n a b c f) = b :=
  ((field_high (op ++ p ++ n ++ a ++ b ++ c) f 8 6 (by decide)).trans ((field_high (op ++ p ++ n ++ a ++ b) c 4 6 (by decide)).trans ((field_low (op ++ p ++ n ++ a) b 0 6 (by decide)).trans (field_all b))))

@[simp] theorem cc_mkP (op : BitVec 6) (p : BitVec 5) (n : BitVec 1) (a : BitVec 6) (b : BitVec 6) (c : BitVec 4) (f : BitVec 4) : cc (mkP op p n a b c f) = c :=
  ((field_high (op ++ p ++ n ++ a ++ b ++ c) f 4 4 (by decide)).trans ((field_low (op ++ p ++ n ++ a ++ b) c 0 4 (by decide)).trans (field_all c)))

@[simp] theorem pfn_mkP (op : BitVec 6) (p : BitVec 5) (n : BitVec 1) (a : BitVec 6) (b : BitVec 6) (c : BitVec 4) (f : BitVec 4) : pfn (mkP op p n a b c f) = f :=
  ((field_low (op ++ p ++ n ++ a ++ b ++ c) f 0 4 (by decide)).trans (field_all f))

/-! ### mkB -/

@[simp] theorem opc_mkB (op : BitVec 6) (p : BitVec 5) (n : BitVec 1) (o : BitVec 20) : opc (mkB op p n o) = op :=
  ((field_high (op ++ p ++ n) o 26 6 (by decide)).trans ((field_high (op ++ p) n 6 6 (by decide)).trans ((field_high op p 5 6 (by decide)).trans (field_all op))))

@[simp] theorem pd_mkB (op : BitVec 6) (p : BitVec 5) (n : BitVec 1) (o : BitVec 20) : pd (mkB op p n o) = p :=
  ((field_high (op ++ p ++ n) o 21 5 (by decide)).trans ((field_high (op ++ p) n 1 5 (by decide)).trans ((field_low op p 0 5 (by decide)).trans (field_all p))))

@[simp] theorem ng_mkB (op : BitVec 6) (p : BitVec 5) (n : BitVec 1) (o : BitVec 20) : ng (mkB op p n o) = n :=
  ((field_high (op ++ p ++ n) o 20 1 (by decide)).trans ((field_low (op ++ p) n 0 1 (by decide)).trans (field_all n)))

@[simp] theorem o20_mkB (op : BitVec 6) (p : BitVec 5) (n : BitVec 1) (o : BitVec 20) : o20 (mkB op p n o) = o :=
  ((field_low (op ++ p ++ n) o 0 20 (by decide)).trans (field_all o))

/-! ### mkE0 -/

@[simp] theorem opc_mkE0 (op : BitVec 6) (e : BitVec 3) (c : BitVec 7) (y : BitVec 16) : opc (mkE0 op e c y) = op :=
  ((field_high (op ++ e ++ c) y 26 6 (by decide)).trans ((field_high (op ++ e) c 10 6 (by decide)).trans ((field_high op e 3 6 (by decide)).trans (field_all op))))

@[simp] theorem eng_mkE0 (op : BitVec 6) (e : BitVec 3) (c : BitVec 7) (y : BitVec 16) : eng (mkE0 op e c y) = e :=
  ((field_high (op ++ e ++ c) y 23 3 (by decide)).trans ((field_high (op ++ e) c 7 3 (by decide)).trans ((field_low op e 0 3 (by decide)).trans (field_all e))))

@[simp] theorem cmd_mkE0 (op : BitVec 6) (e : BitVec 3) (c : BitVec 7) (y : BitVec 16) : cmd (mkE0 op e c y) = c :=
  ((field_high (op ++ e ++ c) y 16 7 (by decide)).trans ((field_low (op ++ e) c 0 7 (by decide)).trans (field_all c)))

@[simp] theorem sync_mkE0 (op : BitVec 6) (e : BitVec 3) (c : BitVec 7) (y : BitVec 16) : sync (mkE0 op e c y) = y :=
  ((field_low (op ++ e ++ c) y 0 16 (by decide)).trans (field_all y))

/-! ### mkE1 -/

@[simp] theorem ea_mkE1 (a : BitVec 6) (b : BitVec 6) (c : BitVec 6) (t : BitVec 6) (g : BitVec 8) : ea (mkE1 a b c t g) = a :=
  ((field_high (a ++ b ++ c ++ t) g 26 6 (by decide)).trans ((field_high (a ++ b ++ c) t 18 6 (by decide)).trans ((field_high (a ++ b) c 12 6 (by decide)).trans ((field_high a b 6 6 (by decide)).trans (field_all a)))))

@[simp] theorem eb_mkE1 (a : BitVec 6) (b : BitVec 6) (c : BitVec 6) (t : BitVec 6) (g : BitVec 8) : eb (mkE1 a b c t g) = b :=
  ((field_high (a ++ b ++ c ++ t) g 20 6 (by decide)).trans ((field_high (a ++ b ++ c) t 12 6 (by decide)).trans ((field_high (a ++ b) c 6 6 (by decide)).trans ((field_low a b 0 6 (by decide)).trans (field_all b)))))

@[simp] theorem ec_mkE1 (a : BitVec 6) (b : BitVec 6) (c : BitVec 6) (t : BitVec 6) (g : BitVec 8) : ec (mkE1 a b c t g) = c :=
  ((field_high (a ++ b ++ c ++ t) g 14 6 (by decide)).trans ((field_high (a ++ b ++ c) t 6 6 (by decide)).trans ((field_low (a ++ b) c 0 6 (by decide)).trans (field_all c))))

@[simp] theorem et_mkE1 (a : BitVec 6) (b : BitVec 6) (c : BitVec 6) (t : BitVec 6) (g : BitVec 8) : et (mkE1 a b c t g) = t :=
  ((field_high (a ++ b ++ c ++ t) g 8 6 (by decide)).trans ((field_low (a ++ b ++ c) t 0 6 (by decide)).trans (field_all t)))

@[simp] theorem ecb_mkE1 (a : BitVec 6) (b : BitVec 6) (c : BitVec 6) (t : BitVec 6) (g : BitVec 8) : ecb (mkE1 a b c t g) = g :=
  ((field_low (a ++ b ++ c ++ t) g 0 8 (by decide)).trans (field_all g))

/-! ### Format L -/

@[simp] theorem opc_mkL0 (op d a : BitVec 6) (u : BitVec 4) (i : BitVec 42) : opc (mkL0 op d a u i) = op :=
  (field_high (op ++ d ++ a ++ u) (fld i 32 10) 26 6 (by decide)).trans ((field_high (op ++ d ++ a) u 16 6 (by decide)).trans
    ((field_high (op ++ d) a 12 6 (by decide)).trans ((field_high op d 6 6 (by decide)).trans (field_all op))))

@[simp] theorem rd_mkL0 (op d a : BitVec 6) (u : BitVec 4) (i : BitVec 42) : rd (mkL0 op d a u i) = d :=
  (field_high (op ++ d ++ a ++ u) (fld i 32 10) 20 6 (by decide)).trans ((field_high (op ++ d ++ a) u 10 6 (by decide)).trans
    ((field_high (op ++ d) a 6 6 (by decide)).trans ((field_low op d 0 6 (by decide)).trans (field_all d))))

@[simp] theorem ra_mkL0 (op d a : BitVec 6) (u : BitVec 4) (i : BitVec 42) : ra (mkL0 op d a u i) = a :=
  (field_high (op ++ d ++ a ++ u) (fld i 32 10) 14 6 (by decide)).trans ((field_high (op ++ d ++ a) u 4 6 (by decide)).trans
    ((field_low (op ++ d) a 0 6 (by decide)).trans (field_all a)))

@[simp] theorem sub4_mkL0 (op d a : BitVec 6) (u : BitVec 4) (i : BitVec 42) : sub4 (mkL0 op d a u i) = u :=
  (field_high (op ++ d ++ a ++ u) (fld i 32 10) 10 4 (by decide)).trans ((field_low (op ++ d ++ a) u 0 4 (by decide)).trans (field_all u))

/-- The immediate of format L is read back from its two words (R144). -/
@[simp] theorem i42_mkL (op d a : BitVec 6) (u : BitVec 4) (i : BitVec 42) : i42 (mkL0 op d a u i) (mkL1 i) = i := by
  have h : fld (mkL0 op d a u i) 0 10 = fld i 32 10 :=
    (field_low (op ++ d ++ a ++ u) (fld i 32 10) 0 10 (by decide)).trans (field_all _)
  rw [i42, h]
  show (i.extractLsb' 32 10 ++ i.extractLsb' 0 32 : BitVec (10 + 32)) = i
  apply BitVec.eq_of_getLsbD_eq
  intro j hj
  rw [BitVec.getLsbD_append]
  split
  · rename_i h1
    simp [h1]
  · rename_i h1
    rw [BitVec.getLsbD_extractLsb', show 32 + (j - 32) = j by omega, show decide (j - 32 < 10) = true by simp; omega, Bool.true_and]

/-! ### The width of a word's instruction (R139) -/

/-- The widths of the formats follow from the major opcode. -/
theorem isLong_of {w : IWord} {o : BitVec 6} (h : opc w = o) : isLong w = ((0x20 ≤ o.toNat && o.toNat ≤ 0x25) || o == 0x3F) := by
  rw [isLong, h]

end Sys2Proof
end

