-- ==== Sys2Proof/Laws/State.lean ====
section
/-! SUPPORT. What each named update of State does to each field: one lemma for a field and an update. -/
namespace Sys2Proof.Machine

variable (s : State) (x y : CtxId) (c : Ctx) (e : Eng) (q : EngQ)

/-! ### Replacing a context -/

@[simp] theorem State.setCx_pkg : (s.setCx x c).pkg = s.pkg := rfl
@[simp] theorem State.setCx_mem : (s.setCx x c).mem = s.mem := rfl
@[simp] theorem State.setCx_agenda : (s.setCx x c).agenda = s.agenda := rfl
@[simp] theorem State.setCx_tick : (s.setCx x c).tick = s.tick := rfl
@[simp] theorem State.setCx_phys : (s.setCx x c).core.phys = s.core.phys := rfl
@[simp] theorem State.setCx_cur : (s.setCx x c).core.cur = s.core.cur := rfl
@[simp] theorem State.setCx_vx : (s.setCx x c).core.vx = s.core.vx := rfl
@[simp] theorem State.setCx_exp : (s.setCx x c).core.exp = s.core.exp := rfl
@[simp] theorem State.setCx_rot : (s.setCx x c).core.rot = s.core.rot := rfl
@[simp] theorem State.setCx_slots : (s.setCx x c).core.slots = s.core.slots := rfl
@[simp] theorem State.setCx_banks : (s.setCx x c).core.banks = s.core.banks := rfl
@[simp] theorem State.setCx_cbs : (s.setCx x c).core.cbs = s.core.cbs := rfl
@[simp] theorem State.setCx_tlb : (s.setCx x c).core.tlb = s.core.tlb := rfl
@[simp] theorem State.setCx_icache : (s.setCx x c).core.icache = s.core.icache := rfl
@[simp] theorem State.setCx_nd : (s.setCx x c).core.nd = s.core.nd := rfl
@[simp] theorem State.setCx_gate : (s.setCx x c).core.gate = s.core.gate := rfl
@[simp] theorem State.setCx_last : (s.setCx x c).core.last = s.core.last := rfl
@[simp] theorem State.setCx_tried : (s.setCx x c).core.tried = s.core.tried := rfl
@[simp] theorem State.setCx_busy : (s.setCx x c).core.busy = s.core.busy := rfl
@[simp] theorem State.setCx_stlb : (s.setCx x c).core.stlb = s.core.stlb := rfl
@[simp] theorem State.setCx_asWorld : (s.setCx x c).core.asWorld = s.core.asWorld := rfl
@[simp] theorem State.setCx_repair : (s.setCx x c).core.repair = s.core.repair := rfl
@[simp] theorem State.setCx_srseed : (s.setCx x c).core.srseed = s.core.srseed := rfl
@[simp] theorem State.setCx_flaw : (s.setCx x c).core.flaw = s.core.flaw := rfl
@[simp] theorem State.setCx_idle : (s.setCx x c).core.idle = s.core.idle := rfl
@[simp] theorem State.setCx_cycle : (s.setCx x c).core.cycle = s.core.cycle := rfl

/-- The replaced context reads as it was given. -/
@[simp] theorem State.cx_setCx : (s.setCx x c).cx x = c := by
  show (s.core.ctx.set x.val c)[x.val] = c
  simp

/-- Another context is as it was. -/
theorem State.cx_setCx_ne (h : y ≠ x) : (s.setCx x c).cx y = s.cx y := by
  have : (x : Nat) ≠ y := fun e => h (Fin.ext e.symm)
  show (s.core.ctx.set x.val c)[y.val] = s.core.ctx[y.val]
  exact Vector.getElem_set_ne _ _ this

/-- Two replacements of one context are one. -/
@[simp] theorem State.setCx_setCx (d : Ctx) : (s.setCx x c).setCx x d = s.setCx x d := by
  simp [State.setCx, Vector.set_set]

/-- Replacing a context by itself changes nothing. -/
@[simp] theorem State.setCx_cx : s.setCx x (s.cx x) = s := by
  have : s.core.ctx.set x.val (s.core.ctx.get x) = s.core.ctx := Vector.set_getElem_self x.isLt
  simp [State.setCx, State.cx, this]

/-! ### Changing a context -/

variable (f : Ctx → Ctx)

@[simp] theorem State.modCx_pkg : (s.modCx x f).pkg = s.pkg := rfl
@[simp] theorem State.modCx_mem : (s.modCx x f).mem = s.mem := rfl
@[simp] theorem State.modCx_agenda : (s.modCx x f).agenda = s.agenda := rfl
@[simp] theorem State.modCx_tick : (s.modCx x f).tick = s.tick := rfl
@[simp] theorem State.modCx_cur : (s.modCx x f).core.cur = s.core.cur := rfl
@[simp] theorem State.modCx_phys : (s.modCx x f).core.phys = s.core.phys := rfl
@[simp] theorem State.modCx_tlb : (s.modCx x f).core.tlb = s.core.tlb := rfl
@[simp] theorem State.modCx_slots : (s.modCx x f).core.slots = s.core.slots := rfl
@[simp] theorem State.modCx_banks : (s.modCx x f).core.banks = s.core.banks := rfl
@[simp] theorem State.modCx_vx : (s.modCx x f).core.vx = s.core.vx := rfl
@[simp] theorem State.modCx_exp : (s.modCx x f).core.exp = s.core.exp := rfl
@[simp] theorem State.modCx_rot : (s.modCx x f).core.rot = s.core.rot := rfl
@[simp] theorem State.modCx_cbs : (s.modCx x f).core.cbs = s.core.cbs := rfl
@[simp] theorem State.modCx_icache : (s.modCx x f).core.icache = s.core.icache := rfl
@[simp] theorem State.modCx_nd : (s.modCx x f).core.nd = s.core.nd := rfl
@[simp] theorem State.modCx_gate : (s.modCx x f).core.gate = s.core.gate := rfl
@[simp] theorem State.modCx_last : (s.modCx x f).core.last = s.core.last := rfl
@[simp] theorem State.modCx_tried : (s.modCx x f).core.tried = s.core.tried := rfl
@[simp] theorem State.modCx_busy : (s.modCx x f).core.busy = s.core.busy := rfl
@[simp] theorem State.modCx_stlb : (s.modCx x f).core.stlb = s.core.stlb := rfl
@[simp] theorem State.modCx_asWorld : (s.modCx x f).core.asWorld = s.core.asWorld := rfl
@[simp] theorem State.modCx_repair : (s.modCx x f).core.repair = s.core.repair := rfl
@[simp] theorem State.modCx_srseed : (s.modCx x f).core.srseed = s.core.srseed := rfl
@[simp] theorem State.modCx_flaw : (s.modCx x f).core.flaw = s.core.flaw := rfl
@[simp] theorem State.modCx_idle : (s.modCx x f).core.idle = s.core.idle := rfl
@[simp] theorem State.modCx_cycle : (s.modCx x f).core.cycle = s.core.cycle := rfl

/-- The changed context is the change of what it was. -/
@[simp] theorem State.cx_modCx : (s.modCx x f).cx x = f (s.cx x) := by simp [State.modCx]

/-- Another context is as it was. -/
theorem State.cx_modCx_ne (h : y ≠ x) : (s.modCx x f).cx y = s.cx y := by simp [State.modCx, State.cx_setCx_ne, h]

/-! ### Core and package -/

variable (g : Core → Core) (p : Pkg → Pkg)

@[simp] theorem State.modCore_core : (s.modCore g).core = g s.core := rfl
@[simp] theorem State.modCore_pkg : (s.modCore g).pkg = s.pkg := rfl
@[simp] theorem State.modCore_mem : (s.modCore g).mem = s.mem := rfl
@[simp] theorem State.modCore_agenda : (s.modCore g).agenda = s.agenda := rfl
@[simp] theorem State.modCore_tick : (s.modCore g).tick = s.tick := rfl
@[simp] theorem State.modPkg_core : (s.modPkg p).core = s.core := rfl
@[simp] theorem State.modPkg_pkg : (s.modPkg p).pkg = p s.pkg := rfl
@[simp] theorem State.modPkg_mem : (s.modPkg p).mem = s.mem := rfl
@[simp] theorem State.modPkg_agenda : (s.modPkg p).agenda = s.agenda := rfl
@[simp] theorem State.modPkg_tick : (s.modPkg p).tick = s.tick := rfl
@[simp] theorem State.modPkg_cx : (s.modPkg p).cx x = s.cx x := rfl

/-! ### Comb slots and accumulator banks -/

variable (i : BitVec 6) (v : Slot) (j : BitVec 5) (b : Bank)

@[simp] theorem State.setSlot_pkg : (s.setSlot i v).pkg = s.pkg := rfl
@[simp] theorem State.setSlot_mem : (s.setSlot i v).mem = s.mem := rfl
@[simp] theorem State.setSlot_banks : (s.setSlot i v).core.banks = s.core.banks := rfl
@[simp] theorem State.setSlot_cur : (s.setSlot i v).core.cur = s.core.cur := rfl
@[simp] theorem State.setSlot_cx : (s.setSlot i v).cx x = s.cx x := rfl
@[simp] theorem State.setBank_pkg : (s.setBank j b).pkg = s.pkg := rfl
@[simp] theorem State.setBank_mem : (s.setBank j b).mem = s.mem := rfl
@[simp] theorem State.setBank_slots : (s.setBank j b).core.slots = s.core.slots := rfl
@[simp] theorem State.setBank_cur : (s.setBank j b).core.cur = s.core.cur := rfl
@[simp] theorem State.setBank_cx : (s.setBank j b).cx x = s.cx x := rfl

/-- A slot reads as it was set. -/
@[simp] theorem State.slot_setSlot : (s.setSlot i v).slot i = v := by simp [State.slot, State.setSlot]

/-- A bank reads as it was set. -/
@[simp] theorem State.bank_setBank : (s.setBank j b).bank j = b := by simp [State.bank, State.setBank]

/-- Another slot is as it was. -/
theorem State.slot_setSlot_ne {k : BitVec 6} (h : k ≠ i) : (s.setSlot i v).slot k = s.slot k := by
  have : i.toNat ≠ k.toNat := fun e => h (BitVec.eq_of_toNat_eq e.symm)
  simp [State.slot, State.setSlot, Vector.getElem_set_ne, this]

/-- Another bank is as it was. -/
theorem State.bank_setBank_ne {k : BitVec 5} (h : k ≠ j) : (s.setBank j b).bank k = s.bank k := by
  have : j.toNat ≠ k.toNat := fun e => h (BitVec.eq_of_toNat_eq e.symm)
  simp [State.bank, State.setBank, Vector.getElem_set_ne, this]

/-! ### Registers of the context that issues -/

variable (r : BitVec 6) (w : Word) (k : BitVec 5) (t : Bool)

@[simp] theorem State.setReg_pkg : (s.setReg r w).pkg = s.pkg := rfl
@[simp] theorem State.setReg_mem : (s.setReg r w).mem = s.mem := rfl
@[simp] theorem State.setReg_agenda : (s.setReg r w).agenda = s.agenda := rfl
@[simp] theorem State.setReg_tick : (s.setReg r w).tick = s.tick := rfl
@[simp] theorem State.setReg_cur : (s.setReg r w).core.cur = s.core.cur := rfl
@[simp] theorem State.setReg_slots : (s.setReg r w).core.slots = s.core.slots := rfl
@[simp] theorem State.setReg_banks : (s.setReg r w).core.banks = s.core.banks := rfl
@[simp] theorem State.setPred_pkg : (s.setPred k t).pkg = s.pkg := rfl
@[simp] theorem State.setPred_mem : (s.setPred k t).mem = s.mem := rfl
@[simp] theorem State.setPred_agenda : (s.setPred k t).agenda = s.agenda := rfl
@[simp] theorem State.setPred_tick : (s.setPred k t).tick = s.tick := rfl
@[simp] theorem State.setPred_cur : (s.setPred k t).core.cur = s.core.cur := rfl

@[simp] theorem Ctx.setReg_pc : (c.setReg r w).pc = c.pc := by unfold Ctx.setReg; split <;> rfl
@[simp] theorem Ctx.setReg_loops : (c.setReg r w).loops = c.loops := by unfold Ctx.setReg; split <;> rfl
@[simp] theorem Ctx.setReg_p : (c.setReg r w).p = c.p := by unfold Ctx.setReg; split <;> rfl
@[simp] theorem Ctx.setReg_acc : (c.setReg r w).acc = c.acc := by unfold Ctx.setReg; split <;> rfl
@[simp] theorem Ctx.setReg_v : (c.setReg r w).v = c.v := by unfold Ctx.setReg; split <;> rfl
@[simp] theorem Ctx.setReg_q : (c.setReg r w).q = c.q := by unfold Ctx.setReg; split <;> rfl
@[simp] theorem Ctx.setPred_pc : (c.setPred k t).pc = c.pc := by unfold Ctx.setPred; split <;> rfl
@[simp] theorem Ctx.setPred_loops : (c.setPred k t).loops = c.loops := by unfold Ctx.setPred; split <;> rfl
@[simp] theorem Ctx.setPred_s : (c.setPred k t).s = c.s := by unfold Ctx.setPred; split <;> rfl
@[simp] theorem Ctx.setPred_acc : (c.setPred k t).acc = c.acc := by unfold Ctx.setPred; split <;> rfl
@[simp] theorem Ctx.setPred_v : (c.setPred k t).v = c.v := by unfold Ctx.setPred; split <;> rfl

/-- s0 reads zero (R5). -/
@[simp] theorem Ctx.reg_zero : c.reg 0 = 0 := rfl

/-- p0 reads true (R5). -/
@[simp] theorem Ctx.pred_zero : c.pred 0 = true := rfl

/-- A register reads as it was written, unless it is s0 (R5). -/
theorem Ctx.reg_setReg (h : r ≠ 0) : (c.setReg r w).reg r = w := by
  have h' : ¬ r = (0 : BitVec 6) := h
  simp only [Ctx.setReg, if_neg h', Ctx.reg, Vector.getElem_set_self]

/-- Another register is as it was. -/
theorem Ctx.reg_setReg_ne {m : BitVec 6} (h : m ≠ r) : (c.setReg r w).reg m = c.reg m := by
  have : r.toNat ≠ m.toNat := fun e => h (BitVec.eq_of_toNat_eq e.symm)
  unfold Ctx.setReg Ctx.reg
  split
  · rfl
  · split
    · rfl
    · exact Vector.getElem_set_ne r.isLt m.isLt this

/-- A predicate reads as it was written, unless it is p0 (R5). -/
theorem Ctx.pred_setPred (h : k ≠ 0) : (c.setPred k t).pred k = t := by
  have h' : ¬ k = (0 : BitVec 5) := h
  simp only [Ctx.setPred, if_neg h', Ctx.pred, Vector.getElem_set_self]

/-- Another predicate is as it was. -/
theorem Ctx.pred_setPred_ne {m : BitVec 5} (h : m ≠ k) : (c.setPred k t).pred m = c.pred m := by
  have : k.toNat ≠ m.toNat := fun e => h (BitVec.eq_of_toNat_eq e.symm)
  unfold Ctx.setPred Ctx.pred
  split
  · rfl
  · split
    · rfl
    · exact Vector.getElem_set_ne k.isLt m.isLt this

/-- Writing a scalar register changes no predicate. -/
@[simp] theorem Ctx.pred_setReg : (c.setReg r w).pred k = c.pred k := by simp [Ctx.pred]

/-- Writing a predicate changes no scalar register. -/
@[simp] theorem Ctx.reg_setPred : (c.setPred k t).reg r = c.reg r := by simp [Ctx.reg]

/-! ### Engine queues -/

/-- A queue reads as it was set. -/
@[simp] theorem Ctx.eq_setEq : (c.setEq e q).eq e = q := by cases e <;> simp [Ctx.eq, Ctx.setEq]

/-- Another queue is as it was. -/
theorem Ctx.eq_setEq_ne {d : Eng} (h : d ≠ e) : (c.setEq e q).eq d = c.eq d := by
  cases e <;> cases d <;> simp_all [Ctx.eq, Ctx.setEq]

@[simp] theorem Ctx.setEq_v : (c.setEq e q).v = c.v := by cases e <;> rfl
@[simp] theorem Ctx.setEq_acc : (c.setEq e q).acc = c.acc := by cases e <;> rfl
@[simp] theorem Ctx.setEq_s : (c.setEq e q).s = c.s := by cases e <;> rfl
@[simp] theorem Ctx.setEq_pc : (c.setEq e q).pc = c.pc := by cases e <;> rfl
@[simp] theorem Ctx.setEq_loops : (c.setEq e q).loops = c.loops := by cases e <;> rfl
@[simp] theorem State.setEq_mem : (s.setEq x e q).mem = s.mem := rfl
@[simp] theorem State.setEq_pkg : (s.setEq x e q).pkg = s.pkg := rfl
@[simp] theorem State.setEq_cur : (s.setEq x e q).core.cur = s.core.cur := rfl

/-- The queue of a context after it was set. -/
@[simp] theorem State.eq_setEq : (s.setEq x e q).eq x e = q := by simp [State.eq, State.setEq]

/-! ### Waiting and the end of an instruction -/

variable (pc : VAddr)

@[simp] theorem Ctx.issued_pc : (c.issued pc).pc = pc := rfl
@[simp] theorem Ctx.issued_s : (c.issued pc).s = c.s := rfl
@[simp] theorem Ctx.issued_p : (c.issued pc).p = c.p := rfl
@[simp] theorem Ctx.issued_loops : (c.issued pc).loops = c.loops := rfl
@[simp] theorem Ctx.issued_q : (c.issued pc).q = c.q := rfl
@[simp] theorem Ctx.issued_v : (c.issued pc).v = c.v := rfl
@[simp] theorem Ctx.issued_acc : (c.issued pc).acc = c.acc := rfl
@[simp] theorem Ctx.issued_tstat : (c.issued pc).tstat = c.tstat := rfl
@[simp] theorem State.issued_mem : (s.issued pc).mem = s.mem := rfl
@[simp] theorem State.issued_pkg : (s.issued pc).pkg = s.pkg := rfl
@[simp] theorem State.issued_agenda : (s.issued pc).agenda = s.agenda := rfl
@[simp] theorem State.issued_tick : (s.issued pc).tick = s.tick := rfl
@[simp] theorem State.issued_cur : (s.issued pc).core.cur = s.core.cur := rfl
@[simp] theorem State.issued_slots : (s.issued pc).core.slots = s.core.slots := rfl
@[simp] theorem State.issued_banks : (s.issued pc).core.banks = s.core.banks := rfl
@[simp] theorem State.issued_last : (s.issued pc).core.last = s.core.cur := rfl
@[simp] theorem State.issued_tried : (s.issued pc).core.tried = [] := rfl

/-- The context that has issued. -/
@[simp] theorem State.issued_cx : (s.issued pc).cx s.core.cur = (s.cx s.core.cur).issued pc :=
  (show (s.issued pc).cx s.core.cur = (s.modCx s.core.cur (·.issued pc)).cx s.core.cur from rfl).trans (State.cx_modCx ..)

/-- Another context is as it was. -/
theorem State.issued_cx_ne (h : y ≠ s.core.cur) : (s.issued pc).cx y = s.cx y :=
  (show (s.issued pc).cx y = (s.modCx s.core.cur (·.issued pc)).cx y from rfl).trans (State.cx_modCx_ne (h := h) ..)

/-- The exposed slot after an issue: held by the context that issued from an exposed line, left by it otherwise (R54). -/
theorem State.issued_exp : (s.issued pc).core.exp = if (s.cx s.core.cur).exposed then some s.core.cur
    else if s.core.exp = some s.core.cur then none else s.core.exp := rfl

@[simp] theorem waitFor_mem (n : Nat) : (waitFor s n).mem = s.mem := rfl
@[simp] theorem waitFor_pkg (n : Nat) : (waitFor s n).pkg = s.pkg := rfl
@[simp] theorem waitFor_agenda (n : Nat) : (waitFor s n).agenda = s.agenda := rfl
@[simp] theorem waitFor_tick (n : Nat) : (waitFor s n).tick = s.tick := rfl
@[simp] theorem waitFor_cur (n : Nat) : (waitFor s n).core.cur = s.core.cur := rfl
@[simp] theorem waitFor_slots (n : Nat) : (waitFor s n).core.slots = s.core.slots := rfl
@[simp] theorem waitFor_banks (n : Nat) : (waitFor s n).core.banks = s.core.banks := rfl
@[simp] theorem waitFor_exp (n : Nat) : (waitFor s n).core.exp = s.core.exp := rfl
@[simp] theorem waitFor_tried (n : Nat) : (waitFor s n).core.tried = s.core.cur :: s.core.tried := rfl

/-- A waiting context keeps everything but its wait mark. -/
@[simp] theorem waitFor_cx (n : Nat) : (waitFor s n).cx s.core.cur = { s.cx s.core.cur with wait := some n } := by
  show ((s.modCx s.core.cur ({ · with wait := some n })).cx s.core.cur) = _
  simp

end Sys2Proof.Machine
end

