-- ==== Sys2Proof/Laws/Finish.lean ====
section
/-! SUPPORT. How an instruction ends: everything that `endStep`, `finish` and `retire` can do, said once. -/
namespace Sys2Proof.Machine

/-- Where the end step leads depends on the loop levels alone. -/
theorem endStep_snd {c d : Ctx} (h : c.loops = d.loops) (pc next : VAddr) : (endStep c pc next).2 = (endStep d pc next).2 := by
  unfold endStep
  simp only [h]
  split
  · rfl
  · split <;> split <;> first | rfl | (split <;> rfl) | skip
    all_goals simp_all

/-- The end step changes nothing but the loop levels. -/
theorem endStep_loops (c : Ctx) (pc next : VAddr) : ∃ l, (endStep c pc next).1 = { c with loops := l } := by
  unfold endStep
  dsimp only
  split
  · exact ⟨_, rfl⟩
  · split <;> split <;> (try split) <;> exact ⟨_, rfl⟩

/-- No fault at the end: the instruction ends as `ended` says. -/
theorem finish_ended {s t : State} {w : Nat} (h : endFault s w = none)
    (hl : (t.cx s.core.cur).loops = (s.cx s.core.cur).loops) : finish s w t = ended s w t := by
  have e := endStep_snd hl (curPc s) (slotAdd (curPc s) w)
  have e1 := congrArg Prod.fst e
  have e2 := congrArg Prod.snd e
  unfold endFault at h
  unfold finish ended
  dsimp only [curPc] at *
  simp only [e1, e2]
  rw [h]

/-- A back-edge that fails the arrival test: TARGET is taken, whatever the effect would have been. -/
theorem finish_trapped {s t : State} {w : Nat} {f : Flt} (h : endFault s w = some f)
    (hl : (t.cx s.core.cur).loops = (s.cx s.core.cur).loops) : finish s w t = trapped s f.cause f.val := by
  have e := endStep_snd hl (curPc s) (slotAdd (curPc s) w)
  have e1 := congrArg Prod.fst e
  have e2 := congrArg Prod.snd e
  unfold endFault at h
  unfold finish trapped
  dsimp only [curPc] at *
  simp only [e1, e2]
  rw [h]

/-- An effect that keeps the loop levels ends as `ended` says. -/
theorem retire_done {s t : State} {w : Nat} (h : endFault s w = none)
    (hl : (t.cx s.core.cur).loops = (s.cx s.core.cur).loops) : retire s w (.done t) = .next (ended s w t) := by
  simp [retire, finish_ended h hl]

@[simp] theorem retire_wait (s : State) (w f : Nat) : retire s w (.wait f) = .next (waiting s f) := rfl

@[simp] theorem retire_stay (s t : State) (w : Nat) : retire s w (.stay t) = .next t := rfl

@[simp] theorem retire_fault (s : State) (w : Nat) (f : Flt) : retire s w (.fault f) = .next (raised s w f.cause f.val) := rfl

/-- An access of the instruction has acted before its fault (R92). -/
@[simp] theorem retire_faultIn (s t : State) (w : Nat) (f : Flt) :
    retire s w (.faultIn t f) = .next (preciseFault t (firstFault s w f)) := rfl

/-- Away from a failing back-edge the rule that the instruction breaks is the fault. -/
theorem raised_trapped {s : State} {w : Nat} (h : endFault s w = none) (cause : BitVec 8) (val : Word) :
    raised s w cause val = trapped s cause val := by
  simp [raised, trapped, firstFault, h]

/-- A transfer whose target passes the arrival test. -/
theorem retire_jump {s t : State} {w : Nat} {a : VAddr} (h : targetCheck s s.core.cur a = none) :
    retire s w (.jump t a false) = .next (arrived t a) := by
  simp [retire, h, arrived]

/-- A transfer that the arrival test does not concern. -/
@[simp] theorem retire_exempt (s t : State) (w : Nat) (a : VAddr) : retire s w (.jump t a true) = .next (arrived t a) := rfl

@[simp] theorem retire_rest (s : State) (w f : Nat) : retire s w (.rest f) = .next (resting s f) := rfl

/-- A transfer whose target fails the arrival test. -/
theorem retire_target {s t : State} {w : Nat} {a : VAddr} {f : Flt} (h : targetCheck s s.core.cur a = some f) :
    retire s w (.jump t a false) = .next (trapped s f.cause f.val) := by
  simp [retire, h, trapped]

@[simp] theorem setReg_loops (s : State) (r : BitVec 6) (v : Word) :
    ((s.setReg r v).cx s.core.cur).loops = (s.cx s.core.cur).loops := by
  simp [State.setReg]

@[simp] theorem setPred_loops (s : State) (p : BitVec 5) (b : Bool) :
    ((s.setPred p b).cx s.core.cur).loops = (s.cx s.core.cur).loops := by
  simp [State.setPred]

/-- A register form whose registers are not pending writes its result (R51, R153). -/
theorem retire_regResult {s : State} {w : Nat} {rs : List (BitVec 6)} {d : BitVec 6} {v : Word}
    (h : Ready s w (d :: rs) []) : retire s w (regResult s rs d v) = .next (ended s w (s.setReg d v)) := by
  rw [regResult, h.1]
  exact retire_done h.2 (setReg_loops s d v)

/-- A predicate form whose registers are not pending writes its result (R158). -/
theorem retire_predResult {s : State} {w : Nat} {rs : List (BitVec 6)} {ps : List (BitVec 5)} {d : BitVec 5} {v : Bool}
    (h : Ready s w rs (d :: ps)) : retire s w (predResult s rs ps d v) = .next (ended s w (s.setPred d v)) := by
  rw [predResult, h.1]
  exact retire_done h.2 (setPred_loops s d v)

end Sys2Proof.Machine
end

