-- ==== Sys2Proof/Laws/Issue.lean ====
section
/-! SUPPORT. The passing of time before a step: what it leaves as it was. -/
namespace Sys2Proof.Machine

variable (s : State)

@[simp] theorem tick_mem : (tick s).mem = s.mem := by simp only [tick]
@[simp] theorem tick_agenda : (tick s).agenda = s.agenda := by simp only [tick]
@[simp] theorem tick_tick : (tick s).tick = s.tick + 1 := by simp only [tick]

end Sys2Proof.Machine
end

