-- ==== Sys2Proof/Laws/Memory.lean ====
section
/-! SUPPORT. Memory: a read after a write, the canonical form and that every operation on memory keeps it. -/
namespace Sys2Proof.Machine

open Bits

/-! ### One byte -/

/-- A byte that was set reads as it was set. -/
@[simp] theorem memGet_memSet (m : List Host.Cell) (a : Nat) (v : Byte) : memWf m = true → memGet (memSet m a v) a = v := by
  induction m with
  | nil => intro _; unfold memSet; split <;> simp [memGet, *]
  | cons e m ih =>
    intro h
    obtain ⟨b, w⟩ := e
    have hm : memWf m = true := by
      cases m with
      | nil => rfl
      | cons f m => simp only [memWf, Bool.and_eq_true] at h; exact h.2
    unfold memSet
    split
    · split <;> simp [memGet, *] <;> omega
    · split
      · rename_i h1 h2
        split
        · subst h2
          rename_i h3
          cases m with
          | nil => simp [memGet, h3]
          | cons f m =>
            obtain ⟨c, x⟩ := f
            simp only [memWf, Bool.and_eq_true, decide_eq_true_eq] at h
            have hlt := h.1.2
            simp [memGet, h3, hlt, Nat.ne_of_lt hlt]
        · simp [memGet]
      · rename_i h1 h2
        simp [memGet, h1, h2, ih hm]

/-- A byte that was not set reads as before. -/
theorem memGet_memSet_ne {m : List Host.Cell} {a b : Nat} {v : Byte} (h : b ≠ a) (hw : memWf m = true) :
    memGet (memSet m a v) b = memGet m b := by
  induction m with
  | nil => unfold memSet; split <;> simp [memGet, h]
  | cons e m ih =>
    obtain ⟨c, w⟩ := e
    have hm : memWf m = true := by
      cases m with
      | nil => rfl
      | cons f m => simp only [memWf, Bool.and_eq_true] at hw; exact hw.2
    unfold memSet
    split
    · rename_i hac
      split
      · rfl
      · by_cases hb : b < a
        · simp [memGet, h, hb, Nat.lt_trans hb hac, Nat.ne_of_lt (Nat.lt_trans hb hac)]
        · simp [memGet, h, hb]
    · split
      · rename_i h1 h2
        subst h2
        split
        · by_cases hb : b < a
          · simp only [memGet, if_neg h, if_pos hb]
            cases m with
            | nil => rfl
            | cons f m =>
              obtain ⟨c, x⟩ := f
              simp only [memWf, Bool.and_eq_true, decide_eq_true_eq] at hw
              have := hw.1.2
              simp only [memGet]
              rw [if_neg (by omega), if_pos (by omega)]
          · simp [memGet, h, hb]
        · simp [memGet, h]
      · simp only [memGet, ih hm]

/-! ### The canonical form -/

/-- The canonical form says: addresses rise, and no entry is 0. -/
theorem memWf_iff (m : List Host.Cell) : memWf m = true ↔ m.Pairwise (fun x y => x.1 < y.1) ∧ ∀ e ∈ m, e.2 ≠ 0 := by
  induction m with
  | nil => simp [memWf]
  | cons e m ih =>
    obtain ⟨a, v⟩ := e
    cases m with
    | nil => simp [memWf]
    | cons f m =>
      obtain ⟨b, w⟩ := f
      simp only [memWf, Bool.and_eq_true, bne_iff_ne, ne_eq, decide_eq_true_eq, ih, List.pairwise_cons, List.mem_cons, forall_eq_or_imp]
      constructor
      · rintro ⟨⟨h1, h2⟩, ⟨h3, h4⟩, h5, h6⟩
        exact ⟨⟨⟨h2, fun e he => Nat.lt_trans h2 (h3 e he)⟩, h3, h4⟩, h1, h5, h6⟩
      · rintro ⟨⟨⟨h2, _⟩, h3, h4⟩, h1, h5, h6⟩
        exact ⟨⟨h1, h2⟩, ⟨h3, h4⟩, h5, h6⟩

/-- An entry after a byte was set is the byte's or an old one. -/
theorem mem_memSet {m : List Host.Cell} {a : Nat} {v : Byte} {e : Host.Cell} (h : e ∈ memSet m a v) : e = (a, v) ∧ v ≠ 0 ∨ e ∈ m := by
  induction m with
  | nil => unfold memSet at h; split at h <;> simp_all
  | cons f m ih =>
    obtain ⟨b, w⟩ := f
    unfold memSet at h
    split at h
    · split at h <;> simp_all
    · split at h
      · split at h <;> simp_all
        rcases h with h | h <;> simp [h]
      · simp only [List.mem_cons] at h ⊢
        rcases h with h | h
        · exact .inr (.inl h)
        · rcases ih h with h | h
          · exact .inl h
          · exact .inr (.inr h)

/-- Setting a byte keeps the canonical form. -/
theorem memSet_wf {m : List Host.Cell} (h : memWf m = true) (a : Nat) (v : Byte) : memWf (memSet m a v) = true := by
  rw [memWf_iff] at h ⊢
  refine ⟨?_, fun e he => ?_⟩
  · obtain ⟨h, hz⟩ := h
    induction m with
    | nil => unfold memSet; split <;> simp
    | cons f m ih =>
      obtain ⟨b, w⟩ := f
      have hc := List.pairwise_cons.mp h
      have hm : ∀ e ∈ m, e.2 ≠ 0 := fun e he => hz e (List.mem_cons_of_mem _ he)
      unfold memSet
      split
      · rename_i hab
        split
        · exact h
        · refine List.pairwise_cons.mpr ⟨fun e he => ?_, h⟩
          rcases List.mem_cons.mp he with rfl | he
          · exact hab
          · exact Nat.lt_trans hab (hc.1 e he)
      · split
        · rename_i h1 h2
          subst h2
          split
          · exact hc.2
          · exact List.pairwise_cons.mpr ⟨hc.1, hc.2⟩
        · refine List.pairwise_cons.mpr ⟨fun e he => ?_, ih hc.2 hm⟩
          rcases mem_memSet he with ⟨rfl, _⟩ | he
          · simp only; omega
          · exact hc.1 e he
  · rcases mem_memSet he with ⟨rfl, hv⟩ | he
    · exact hv
    · exact h.2 e he

/-- Writing bytes keeps it. -/
theorem memWrite_wf {m : List Host.Cell} (h : memWf m = true) (a : Nat) (bs : List Byte) : memWf (memWrite m a bs) = true := by
  induction bs generalizing m a with
  | nil => exact h
  | cons b bs ih => exact ih (memSet_wf h a b) (a + 1)

/-- Dropping entries keeps it. -/
theorem filter_wf {m : List Host.Cell} (h : memWf m = true) (p : Host.Cell → Bool) : memWf (m.filter p) = true := by
  rw [memWf_iff] at h ⊢
  exact ⟨h.1.filter p, fun e he => h.2 e (List.mem_filter.mp he).1⟩

/-- Setting many bytes keeps it. -/
theorem foldl_memSet_wf {m : List Host.Cell} (h : memWf m = true) (l : List Host.Cell) (f : Host.Cell → Nat) :
    memWf (l.foldl (fun m c => memSet m (f c) c.2) m) = true := by
  induction l generalizing m with
  | nil => exact h
  | cons e l ih => exact ih (memSet_wf h _ _)

/-! ### Writing bytes and reading them -/

/-- A write leaves every byte outside it alone. -/
theorem memGet_memWrite_out {m : List Host.Cell} {a b : Nat} {bs : List Byte} (hw : memWf m = true) (h : b < a ∨ a + bs.length ≤ b) :
    memGet (memWrite m a bs) b = memGet m b := by
  induction bs generalizing m a with
  | nil => rfl
  | cons v bs ih =>
    simp only [List.length_cons] at h
    unfold memWrite
    rw [ih (memSet_wf hw a v) (by omega), memGet_memSet_ne (by omega) hw]

/-- A byte of a write reads as it was written. -/
theorem memGet_memWrite_in {m : List Host.Cell} {a i : Nat} {bs : List Byte} (hw : memWf m = true) (h : i < bs.length) :
    memGet (memWrite m a bs) (a + i) = bs[i] := by
  induction bs generalizing m a i with
  | nil => cases h
  | cons v bs ih =>
    unfold memWrite
    cases i with
    | zero =>
      rw [memGet_memWrite_out (memSet_wf hw a v) (.inl (by omega)), Nat.add_zero, memGet_memSet m a v hw]
      rfl
    | succ i =>
      rw [show a + (i + 1) = a + 1 + i by omega, ih (memSet_wf hw a v) (Nat.lt_of_succ_lt_succ h)]
      rfl

/-- What was written is read back. -/
theorem memRead_memWrite {m : List Host.Cell} (hw : memWf m = true) (a : Nat) (bs : List Byte) :
    memRead (memWrite m a bs) a bs.length = bs := by
  have : ∀ (n : Nat) (m : List Host.Cell) (a : Nat) (l : List Byte), l.length = n → (∀ i (h : i < l.length), memGet m (a + i) = l[i]) →
      memRead m a n = l := by
    intro n
    induction n with
    | zero => intro m a l hl _; rw [List.length_eq_zero_iff.mp hl]; rfl
    | succ n ih =>
      intro m a l hl hg
      cases l with
      | nil => cases hl
      | cons v l =>
        have h0 := hg 0 (Nat.succ_pos _)
        simp only [Nat.add_zero, List.getElem_cons_zero] at h0
        unfold memRead
        rw [h0, ih m (a + 1) l (Nat.succ.inj hl) fun i hi => by
          have := hg (i + 1) (Nat.succ_lt_succ hi)
          rw [show a + (i + 1) = a + 1 + i by omega] at this
          rw [this]; rfl]
  exact this _ _ _ _ rfl fun i hi => memGet_memWrite_in hw hi

/-! ### The operations on State that change memory -/

@[simp] theorem rawStore_mem (s : State) (a : Nat) (bs : List Byte) : (rawStore s a bs).mem = memWrite s.mem a bs := rfl
@[simp] theorem rawStore_core (s : State) (a : Nat) (bs : List Byte) : (rawStore s a bs).core = s.core := rfl
@[simp] theorem rawStore_agenda (s : State) (a : Nat) (bs : List Byte) : (rawStore s a bs).agenda = s.agenda := rfl
@[simp] theorem rawStore_tick (s : State) (a : Nat) (bs : List Byte) : (rawStore s a bs).tick = s.tick := rfl
@[simp] theorem rawStore_regs (s : State) (a : Nat) (bs : List Byte) : (rawStore s a bs).pkg.regs = s.pkg.regs := rfl
@[simp] theorem setCtl_mem (s : State) (o : Nat) (v : Word) : (setCtl s o v).mem = s.mem := rfl
@[simp] theorem setCtl_core (s : State) (o : Nat) (v : Word) : (setCtl s o v).core = s.core := rfl
@[simp] theorem addPoison_mem (s : State) (a n : Nat) : (addPoison s a n).mem = s.mem := rfl
@[simp] theorem addPoison_core (s : State) (a n : Nat) : (addPoison s a n).core = s.core := rfl

/-- A store keeps the canonical form. -/
theorem rawStore_wf {s : State} (h : memWf s.mem = true) (a : Nat) (bs : List Byte) : memWf (rawStore s a bs).mem = true :=
  memWrite_wf h a bs

/-- A store of a word keeps it. -/
theorem storeWord_wf {s : State} (h : memWf s.mem = true) (a : Nat) (v : Word) : memWf (storeWord s a v).mem = true :=
  memWrite_wf h a _

/-! ### What leaves memory alone -/

/-- A fold of operations that leave memory alone. -/
theorem foldl_mem {α : Type} {f : State → α → State} (h : ∀ s e, (f s e).mem = s.mem) (l : List α) (s : State) : (l.foldl f s).mem = s.mem := by
  induction l generalizing s with
  | nil => rfl
  | cons e l ih => rw [List.foldl_cons, ih, h]

@[simp] theorem rasRecord_mem (s : State) (a u o : Nat) (c : Option (BitVec 9)) : (rasRecord s a u o c).mem = s.mem := rfl

@[simp] theorem settleHits_mem (s : State) : (settleHits s).mem = s.mem := by
  unfold settleHits
  refine (foldl_mem ?_ _ _).trans rfl
  intro s h
  rfl

@[simp] theorem addHits_mem (s : State) (l : List Hit) : (addHits s l).mem = s.mem := by
  unfold addHits
  split
  · rfl
  · simp

/-- The watchpoint check of a write leaves memory alone (R343). -/
@[simp] theorem dwCheck_mem (s : State) (a n : Nat) (who : Writer) : (dwCheck s a n who).mem = s.mem := by
  unfold dwCheck dwNote
  split
  · refine foldl_mem ?_ _ _
    intro s h
    rfl
  · simp

@[simp] theorem devCheck_mem (s : State) (a n : Nat) : (devCheck s a n).mem = s.mem := by
  unfold devCheck
  split <;> simp

@[simp] theorem carryPoison_mem (s : State) (a b : Nat) (us : List Nat) : (carryPoison s a b us).mem = s.mem := by
  unfold carryPoison
  refine foldl_mem ?_ _ _
  intro s u
  rfl

@[simp] theorem unstart_mem (s : State) (x : CtxId) (e : Eng) : (unstart s x e).mem = s.mem := by
  unfold unstart
  dsimp only
  split <;> rfl

@[simp] theorem unstartWaiting_mem (s : State) (x : CtxId) : (unstartWaiting s x).mem = s.mem := by
  unfold unstartWaiting
  refine foldl_mem ?_ _ _
  intro s e
  split
  · split
    · exact unstart_mem s x e
    · rfl
  · rfl

@[simp] theorem stopGo_mem (s : State) (l : BitVec 16) : (stopGo s l).mem = s.mem := by
  unfold stopGo
  split
  · rfl
  · refine (foldl_mem ?_ _ _ : _ = s.mem)
    intro s x
    exact unstartWaiting_mem _ x

@[simp] theorem stopResume_mem (s : State) : (stopResume s).mem = s.mem := by
  unfold stopResume
  refine (foldl_mem ?_ _ _ : _ = s.mem)
  intro s x
  rfl

@[simp] theorem ackRaise_mem (s : State) (x : CtxId) (v : Word) : (ackRaise s x v).mem = s.mem := by
  unfold ackRaise mapEvent
  dsimp only
  split
  · rfl
  · split
    · split
      · rfl
      · split <;> rfl
    · rfl

@[simp] theorem setVer_mem (s : State) (v : Word) : (setVer s v).mem = s.mem := by
  unfold setVer
  refine (foldl_mem ?_ _ _).trans (setCtl_mem s oVer v)
  intro s x
  exact ackRaise_mem s x v

@[simp] theorem setCtlBytes_mem (s : State) (o : Nat) (bs : List Byte) : (setCtlBytes s o bs).mem = s.mem := by
  unfold setCtlBytes
  refine foldl_mem ?_ _ _
  intro s i
  rfl

/-! ### The operations of the homes -/

/-- Both arms of a choice keep the form. -/
theorem wf_ite {c : Prop} [Decidable c] {a b : State} (ha : memWf a.mem = true) (hb : memWf b.mem = true) :
    memWf (if c then a else b).mem = true := by
  split
  · exact ha
  · exact hb

/-- The start of a patch keeps the form (R425). -/
theorem patchStart_wf {s : State} (h : memWf s.mem = true) : memWf (patchStart s).mem = true := by
  unfold patchStart
  split
  · exact h
  · dsimp only
    split
    · exact h
    · simp only [setCtl_mem, State.modPkg, State.modCore]
      split
      · rw [dwCheck_mem]
        apply rawStore_wf
        rw [dwCheck_mem]
        exact rawStore_wf h _ _
      · rw [dwCheck_mem]
        exact rawStore_wf h _ _

/-- A write of a control register keeps it. -/
theorem ctlWriteWord_wf {s : State} (h : memWf s.mem = true) (who : Agent) (o : Nat) (d m : Word) :
    memWf (ctlWriteWord s who o d m).mem = true := by
  have stop : ∀ u : State, memWf u.mem = true → memWf (if bit (d &&& m) 17 then stopResume u else u).mem = true :=
    fun u h => wf_ite (by rw [stopResume_mem]; exact h) h
  unfold ctlWriteWord
  refine wf_ite (wf_ite (wf_ite h h) h) (wf_ite (wf_ite (wf_ite h h) h) (wf_ite (wf_ite (wf_ite h h) h) (wf_ite ?_ (wf_ite (wf_ite h h)
    (wf_ite (wf_ite ?_ h) (wf_ite (wf_ite h h) (wf_ite (wf_ite h h) (wf_ite h (wf_ite h (wf_ite (wf_ite (stop s h) (wf_ite ?_ ?_))
    (wf_ite h (wf_ite h (wf_ite ?_ (wf_ite (patchStart_wf h) (wf_ite h h)))))))))))))))
  · exact wf_ite (wf_ite h (by rw [setVer_mem]; exact h)) h
  · exact wf_ite h (by unfold extendMeas; rw [setCtlBytes_mem]; exact h)
  · rw [stopGo_mem]
    exact stop s h
  · exact stop s h
  · split
    · exact wf_ite h (wf_ite h (wf_ite h h))
    · exact h

/-- A write at any home keeps it (R106). -/
theorem writeHome_wf {s : State} (h : memWf s.mem = true) (who : Agent) (a n : Nat) (v : Word) : memWf (writeHome s who a n v).mem = true := by
  unfold writeHome
  split
  · exact ctlWriteWord_wf h _ _ _ _
  · exact h
  · exact h
  · exact rawStore_wf h _ _

/-- So do the bytes of one of an engine or the device. -/
theorem homeStore_wf {s : State} (h : memWf s.mem = true) (who : Agent) (a : Nat) (bs : List Byte) : memWf (homeStore s who a bs).mem = true := by
  have fold : ∀ (l : List (Nat × Nat)) (u : State), memWf u.mem = true → memWf (l.foldl (fun s p =>
      writeHome s who p.1 p.2 (BitVec.ofNat 64 (ofBytes ((bs.drop (p.1 - a)).take p.2)))) u).mem = true := by
    intro l
    induction l with
    | nil => exact fun _ h => h
    | cons p l ih => exact fun u h => ih _ (writeHome_wf h _ _ _ _)
  unfold homeStore
  split
  · exact fold _ _ h
  · exact fold _ _ h
  · exact fold _ _ h
  · exact rawStore_wf h _ _

/-- A copy by the device keeps it (R92, R280). -/
theorem memCopy_wf {s : State} (h : memWf s.mem = true) (w : Bool) (src dst n : Nat) : memWf (memCopy s w src dst n).mem = true := by
  unfold memCopy
  dsimp only
  split
  · rw [devCheck_mem]
    exact foldl_memSet_wf (filter_wf h _) _ fun c => c.1 - src + dst
  · rw [carryPoison_mem, devCheck_mem]
    exact homeStore_wf h _ _ _

/-- Filling with zeros keeps it (R92). -/
theorem memZero_wf {s : State} (h : memWf s.mem = true) (dst n : Nat) : memWf (memZero s dst n).mem = true := by
  unfold memZero
  rw [devCheck_mem]
  split
  · exact filter_wf h _
  · exact rawStore_wf h _ _

/-- An exchange of a row and its spare keeps it (R175). -/
theorem swapRow_wf {s : State} (h : memWf s.mem = true) (i : Nat) : memWf (swapRow s i).mem = true := by
  unfold swapRow
  split
  · exact h
  · dsimp only
    apply memWrite_wf
    apply memWrite_wf
    exact h
  · exact h
  · exact h

/-- Placing an instruction keeps it (entry 4). -/
theorem placeCode_wf {s : State} (h : memWf s.mem = true) (w0 w1 : IWord) : memWf (s.placeCode w0 w1).mem = true := by
  unfold State.placeCode
  dsimp only
  apply memWrite_wf
  apply memWrite_wf
  apply memWrite_wf
  exact h

/-- The memory of the machine after reset has the canonical form. -/
theorem reset_wf : memWf State.reset.mem = true := rfl

/-- A byte outside a store reads as before. -/
theorem rawStore_get_out {s : State} {a b : Nat} {bs : List Byte} (hw : memWf s.mem = true) (h : b < a ∨ a + bs.length ≤ b) :
    memGet (rawStore s a bs).mem b = memGet s.mem b :=
  memGet_memWrite_out hw h

/-- What was stored is read back. -/
theorem rawStore_read {s : State} (hw : memWf s.mem = true) (a : Nat) (bs : List Byte) : bytesAt (rawStore s a bs) a bs.length = bs :=
  memRead_memWrite hw a bs

end Sys2Proof.Machine
end

