-- ==== Sys2Proof/Laws/Ops.lean ====
section
/-! SUPPORT. What the shared operations can do, each said once: control registers, token queues, the checks of an access,
translation, banks that are freed, traps. -/
namespace Sys2Proof.Machine

open Bits

/-! ### Sparse lists and control registers (R311) -/

/-- A key that was inserted holds its value. -/
@[simp] theorem lookup_insert {α : Type} (l : List (Nat × α)) (k : Nat) (v : α) : lookup (insert l k v) k = some v := by
  induction l with
  | nil => simp [insert, lookup]
  | cons e l ih =>
    obtain ⟨j, w⟩ := e
    unfold insert
    split
    · simp [lookup]
    · split
      · simp [lookup]
      · rename_i h1 h2
        simp only [lookup]
        rw [if_neg (fun e => h2 e.symm), ih]

/-- Another key is as it was. -/
theorem lookup_insert_ne {α : Type} {l : List (Nat × α)} {k j : Nat} {v : α} (h : j ≠ k) : lookup (insert l k v) j = lookup l j := by
  induction l with
  | nil => simp [insert, lookup, h.symm]
  | cons e l ih =>
    obtain ⟨i, w⟩ := e
    unfold insert
    split
    · simp [lookup, h.symm]
    · split
      · rename_i h2
        subst h2
        simp [lookup, h.symm]
      · simp only [lookup, ih]

/-- A key that was removed is absent. -/
@[simp] theorem lookup_remove {α : Type} (l : List (Nat × α)) (k : Nat) : lookup (remove l k) k = none := by
  induction l with
  | nil => rfl
  | cons e l ih =>
    obtain ⟨j, w⟩ := e
    simp only [remove, List.filter_cons] at ih ⊢
    split
    · rename_i h
      simp only [bne_iff_ne, ne_eq] at h
      simp only [lookup, if_neg h, ih]
    · exact ih

/-- Another key is as it was. -/
theorem lookup_remove_ne {α : Type} {l : List (Nat × α)} {k j : Nat} (h : j ≠ k) : lookup (remove l k) j = lookup l j := by
  induction l with
  | nil => rfl
  | cons e l ih =>
    obtain ⟨i, w⟩ := e
    simp only [remove, List.filter_cons] at ih ⊢
    split
    · simp only [lookup, ih]
    · rename_i hi
      have hi : i = k := by simpa using hi
      simp only [lookup, if_neg (fun e : i = j => h (e.symm.trans hi)), ih]

/-- A register that was set reads as it was set. -/
@[simp] theorem ctl_setCtl (s : State) (o : Nat) (v : Word) : ctl (setCtl s o v) o = v := by
  simp only [ctl, setCtl]
  split
  · simp only [lookup_remove, Option.getD_none, *]
  · simp only [lookup_insert, Option.getD_some]

/-- Another register reads as before. -/
theorem ctl_setCtl_ne {s : State} {o p : Nat} {v : Word} (h : p ≠ o) : ctl (setCtl s o v) p = ctl s p := by
  simp only [ctl, setCtl]
  split
  · rw [lookup_remove_ne h]
  · rw [lookup_insert_ne h]

@[simp] theorem setCtl_agenda (s : State) (o : Nat) (v : Word) : (setCtl s o v).agenda = s.agenda := rfl
@[simp] theorem setCtl_tick (s : State) (o : Nat) (v : Word) : (setCtl s o v).tick = s.tick := rfl
@[simp] theorem setCtl_cx (s : State) (o : Nat) (v : Word) (x : CtxId) : (setCtl s o v).cx x = s.cx x := rfl
@[simp] theorem setCtl_tasks (s : State) (o : Nat) (v : Word) : (setCtl s o v).pkg.tasks = s.pkg.tasks := rfl
@[simp] theorem setCtl_launches (s : State) (o : Nat) (v : Word) : (setCtl s o v).pkg.launches = s.pkg.launches := rfl

/-! ### Token queues (R41) -/

/-- A queue that was set holds its count, below 16. -/
theorem tokens_setTokens {c : Ctx} {i j n : Nat} (h : 7 * i + j < 49) (hn : n < 16) : (c.setTokens i j n).tokens i j = n := by
  simp only [Ctx.tokens, Ctx.setTokens, List.getD_eq_getElem?_getD, Vector.getElem?_toList]
  rw [Vector.getElem?_setIfInBounds_self_of_lt h]
  simp [Nat.mod_eq_of_lt hn]

/-- Another queue is as it was. -/
theorem tokens_setTokens_ne {c : Ctx} {i j k l n : Nat} (h : 7 * i + j ≠ 7 * k + l) : (c.setTokens i j n).tokens k l = c.tokens k l := by
  simp only [Ctx.tokens, Ctx.setTokens, List.getD_eq_getElem?_getD, Vector.getElem?_toList]
  rw [Vector.getElem?_setIfInBounds_ne h]

@[simp] theorem setTokens_s (c : Ctx) (i j n : Nat) : (c.setTokens i j n).s = c.s := rfl
@[simp] theorem setTokens_q (c : Ctx) (i j n : Nat) : (c.setTokens i j n).q = c.q := rfl
@[simp] theorem setTokens_acc (c : Ctx) (i j n : Nat) : (c.setTokens i j n).acc = c.acc := rfl

/-! ### The checks of an access (R89, R95, R389) -/

/-- An access that passes its checks is aligned or pinned, and has the translation that `xlate` gives. -/
theorem accCheckOf_ok {s : State} {x : CtxId} {k n : Nat} {va : VAddr} {t : Tr} (h : accCheckOf s x k n va = .ok t) :
    xlate s x k va = .ok t ∧ (va.toNat % 2 ^ n = 0 ∨ (inPins (s.cx x) va).isSome = true) ∧
    ((inPins (s.cx x) va).isSome = true ∨ ndRefused s t.pa.toNat = none ∧ ∀ l, actsFor s x = some l → remoteRefused s l t.pa.toNat = false) := by
  unfold accCheckOf at h
  split at h
  · cases h
  · rename_i h0
    split at h
    · cases h
    · rename_i u hu
      have h1 : va.toNat % 2 ^ n = 0 ∨ (inPins (s.cx x) va).isSome = true := by
        by_cases h2 : va.toNat % 2 ^ n = 0
        · exact .inl h2
        · refine .inr ?_
          cases hp : inPins (s.cx x) va with
          | some p => rfl
          | none => exact absurd ⟨h2, by simp [hp]⟩ h0
      split at h
      · rename_i h2
        cases h
        exact ⟨hu, h1, .inl h2⟩
      · split at h
        · cases h
        · rename_i h3
          split at h
          · rename_i l hl
            split at h
            · cases h
            · rename_i h4
              cases h
              refine ⟨hu, h1, .inr ⟨h3, fun m hm => ?_⟩⟩
              rw [hl] at hm
              cases hm
              exact Bool.eq_false_iff.mpr h4
          · rename_i hl
            cases h
            refine ⟨hu, h1, .inr ⟨h3, fun m hm => ?_⟩⟩
            rw [hl] at hm
            cases hm

/-- A misaligned access outside the pinned set faults with cause 0x10 (R389). -/
theorem accCheckOf_misaligned {s : State} {x : CtxId} {k n : Nat} {va : VAddr} (h : va.toNat % 2 ^ n ≠ 0) (hp : inPins (s.cx x) va = none) :
    accCheckOf s x k n va = .error (accFlt 0x10 k va) := by
  simp [accCheckOf, h, hp]

/-- Keeping a translation changes the two TLBs alone (R88). -/
theorem tlbFill_frame (s : State) (x : CtxId) (va : VAddr) (t : Tr) :
    ∃ l m, tlbFill s x va t = s.modCore fun k => { k with tlb := l, stlb := m } := by
  unfold tlbFill
  dsimp only
  split
  · exact ⟨s.core.tlb, s.core.stlb, rfl⟩
  · exact ⟨_, _, rfl⟩

@[simp] theorem tlbFill_mem (s : State) (x : CtxId) (va : VAddr) (t : Tr) : (tlbFill s x va t).mem = s.mem := by
  obtain ⟨l, m, h⟩ := tlbFill_frame s x va t
  rw [h]; rfl
@[simp] theorem tlbFill_pkg (s : State) (x : CtxId) (va : VAddr) (t : Tr) : (tlbFill s x va t).pkg = s.pkg := by
  obtain ⟨l, m, h⟩ := tlbFill_frame s x va t
  rw [h]; rfl
@[simp] theorem tlbFill_cx (s : State) (x y : CtxId) (va : VAddr) (t : Tr) : (tlbFill s x va t).cx y = s.cx y := by
  obtain ⟨l, m, h⟩ := tlbFill_frame s x va t
  rw [h]; rfl
@[simp] theorem tlbFill_cur (s : State) (x : CtxId) (va : VAddr) (t : Tr) : (tlbFill s x va t).core.cur = s.core.cur := by
  obtain ⟨l, m, h⟩ := tlbFill_frame s x va t
  rw [h]; rfl

/-! ### Slots and banks (R214, R216) -/

/-- A slot that is released is FREE, or its release is noted. -/
theorem release_cases (v : Slot) : v.release = v.freed ∧ (v.state = 1 ∨ v.state = 3) ∨
    v.release = { v with relp := true } ∧ (v.state = 2 ∨ v.state = 4) ∨ v.release = v := by
  unfold Slot.release
  split
  · exact .inl ⟨rfl, ‹_›⟩
  · split
    · exact .inr (.inl ⟨rfl, ‹_›⟩)
    · exact .inr (.inr rfl)

/-- A FREEING bank with both bands released and no earlier writer becomes FREE; any other is as it was. -/
theorem settleBank_cases (s : State) (i : BitVec 5) :
    settleBank s i = s.setBank i { s.bank i with state := 0 } ∧ (s.bank i).state = 2 ∧ (s.bank i).rel.get 0 = true ∧
      (s.bank i).rel.get 1 = true ∧ writerPending s (s.bank i).alc i (s.bank i).upto = false ∨ settleBank s i = s := by
  unfold settleBank
  dsimp only
  split
  · exact .inl ⟨rfl, ‹_›⟩
  · exact .inr rfl

/-! ### Tasks -/

@[simp] theorem modTask_mem (s : State) (n : Nat) (f : Task → Task) : (modTask s n f).mem = s.mem := rfl
@[simp] theorem modTask_core (s : State) (n : Nat) (f : Task → Task) : (modTask s n f).core = s.core := rfl
@[simp] theorem modTask_launches (s : State) (n : Nat) (f : Task → Task) : (modTask s n f).pkg.launches = s.pkg.launches := rfl

/-- The first task with number `n`, changed by an `f` that keeps numbers. -/
theorem taskOf_modTask {s : State} {n : Nat} {f : Task → Task} (h : ∀ t, (f t).id = t.id) : taskOf (modTask s n f) n = (taskOf s n).map f := by
  simp only [taskOf, modTask, State.modPkg]
  induction s.pkg.tasks with
  | nil => rfl
  | cons t l ih =>
    by_cases ht : t.id = n
    · simp [ht, h]
    · simp [ht, ih]

/-- Another task is as it was. -/
theorem taskOf_modTask_ne {s : State} {n m : Nat} {f : Task → Task} (h : ∀ t, (f t).id = t.id) (hm : m ≠ n) :
    taskOf (modTask s n f) m = taskOf s m := by
  simp only [taskOf, modTask, State.modPkg]
  induction s.pkg.tasks with
  | nil => rfl
  | cons t l ih =>
    by_cases ht : t.id = n
    · simp [ht, h, hm.symm, ih]
    · simp only [List.map_cons, if_neg ht, List.find?_cons, ih]

/-! ### Waiting, and traps (R337, R351 to R361) -/

/-- An instruction that waits changes no other context. -/
theorem waitFor_cx_ne {s : State} {n : Nat} {y : CtxId} (h : y ≠ s.core.cur) : (waitFor s n).cx y = s.cx y :=
  State.cx_setCx_ne _ _ _ _ h

/-- A trap of a context that is being aborted is none; of one that runs its handler, or has none, it is fatal to the context; one
that comes while a fault waits, or an event while any waits, is noted in TSTAT.MULT; any other is held, over what it overtakes,
and the handler is entered when it may be. A fault of the sequencer is kept for its stop record. -/
theorem takeTrap_cases (s : State) (x : CtxId) (r : TrapReq) :
    (s.cx x).dying = true ∧ takeTrap s x r = s ∨
    ((s.cx x).inh = true ∨ (s.cx x).inst = false) ∧ takeTrap s x r = contextFatal s x r.cause r.val false ∨
    (s.cx x).trap ≠ none ∧ takeTrap s x r = s.modCx x (fun c => (c.setStat 4 true).seqFault r) ∨
    (let v := s.modCx x fun c => ({ c.overtaken with trap := some r } : Ctx).seqFault r
     let u := if isEvent r.cause then v else raiseLine v x
     takeTrap s x r = if trapReady u x r then enterHandler u x r else u) := by
  unfold takeTrap
  dsimp only
  split
  · exact .inl ⟨‹_›, rfl⟩
  · split
    · rename_i h
      refine .inr (.inl ⟨?_, rfl⟩)
      simpa using h
    · split
      · rename_i h
        refine .inr (.inr (.inl ⟨?_, rfl⟩))
        rintro e
        rw [e] at h
        cases h
      · exact .inr (.inr (.inr rfl))

/-! ### Watchpoints (R342 to R344) -/

/-- A write that hits no watchpoint is not noted. -/
theorem dwNote_none {s : State} {a n : Nat} {b : Bool} (h : dwAll s a n b = []) (who : Writer) : dwNote s a n who b = s := by
  simp [dwNote, newHits, addHits, h]

/-- The check of a write that hits no watchpoint has no effect. -/
theorem dwCheck_none {s : State} {a n : Nat} {who : Writer} (h : dwAll s a n (who.kind == 3) = []) : dwCheck s a n who = s :=
  dwNote_none h who

/-- What is due and what is not are together what was pending, so no hit is lost (R344). -/
theorem dueHits_mem (l : List Hit) (h : Hit) : h ∈ l ↔ h ∈ (dueHits l).1 ∨ h ∈ (dueHits l).2 := by
  induction l with
  | nil => simp [dueHits]
  | cons j l ih =>
    simp only [dueHits]
    split <;> simp [ih, or_assoc, or_left_comm]

/-- A hit that stays pending is not due, nor is a later one at its home (R344). -/
theorem dueHits_left (l : List Hit) : ∀ h ∈ (dueHits l).2, h.left ≠ 0 := by
  induction l with
  | nil => simp [dueHits]
  | cons j l ih =>
    simp only [dueHits]
    split
    · exact ih
    · rename_i hj
      simp only [Bool.or_eq_true, decide_eq_true_eq, not_or] at hj
      intro h hm
      obtain rfl | hm := List.mem_cons.mp hm
      · exact hj.1
      · exact ih h hm

end Sys2Proof.Machine
end

