-- ==== Sys2Proof/Laws/PerInstr.lean ====
section
/-! SUPPORT. Statements about every instruction as syntax, one lemma for each constructor. -/

/-- An instruction has no word of its own (an event, a micro-order), or one word of a 32-bit form, or two words whose first is of
a 64-bit form (R133, R139, R146). -/
def Sys2Proof.Laws.Words.Statement (i : Sys2Proof.Instr) : Prop :=
  Sys2Proof.encode i = [] ∨ (∃ w, Sys2Proof.encode i = [w] ∧ Sys2Proof.isLong w = false) ∨
    ∃ w0 w1, Sys2Proof.encode i = [w0, w1] ∧ Sys2Proof.isLong w0 = true

namespace Sys2Proof.Laws.Words

open Sys2Proof Sys2Proof.Bits

theorem rdstr (d : BitVec 6) : Statement (.rdstr d) := .inr (.inl ⟨_, rfl, isLong_of (opc_mkR ..)⟩)
theorem add (d a b : BitVec 6) : Statement (.add d a b) := .inr (.inl ⟨_, rfl, isLong_of (opc_mkR ..)⟩)
theorem sub (d a b : BitVec 6) : Statement (.sub d a b) := .inr (.inl ⟨_, rfl, isLong_of (opc_mkR ..)⟩)
theorem and (d a b : BitVec 6) : Statement (.and d a b) := .inr (.inl ⟨_, rfl, isLong_of (opc_mkR ..)⟩)
theorem or (d a b : BitVec 6) : Statement (.or d a b) := .inr (.inl ⟨_, rfl, isLong_of (opc_mkR ..)⟩)
theorem xor (d a b : BitVec 6) : Statement (.xor d a b) := .inr (.inl ⟨_, rfl, isLong_of (opc_mkR ..)⟩)
theorem andn (d a b : BitVec 6) : Statement (.andn d a b) := .inr (.inl ⟨_, rfl, isLong_of (opc_mkR ..)⟩)
theorem sll (d a b : BitVec 6) : Statement (.sll d a b) := .inr (.inl ⟨_, rfl, isLong_of (opc_mkR ..)⟩)
theorem srl (d a b : BitVec 6) : Statement (.srl d a b) := .inr (.inl ⟨_, rfl, isLong_of (opc_mkR ..)⟩)
theorem sra (d a b : BitVec 6) : Statement (.sra d a b) := .inr (.inl ⟨_, rfl, isLong_of (opc_mkR ..)⟩)
theorem ror (d a b : BitVec 6) : Statement (.ror d a b) := .inr (.inl ⟨_, rfl, isLong_of (opc_mkR ..)⟩)
theorem min (d a b : BitVec 6) : Statement (.min d a b) := .inr (.inl ⟨_, rfl, isLong_of (opc_mkR ..)⟩)
theorem max (d a b : BitVec 6) : Statement (.max d a b) := .inr (.inl ⟨_, rfl, isLong_of (opc_mkR ..)⟩)
theorem minu (d a b : BitVec 6) : Statement (.minu d a b) := .inr (.inl ⟨_, rfl, isLong_of (opc_mkR ..)⟩)
theorem maxu (d a b : BitVec 6) : Statement (.maxu d a b) := .inr (.inl ⟨_, rfl, isLong_of (opc_mkR ..)⟩)
theorem addw (d a b : BitVec 6) : Statement (.addw d a b) := .inr (.inl ⟨_, rfl, isLong_of (opc_mkR ..)⟩)
theorem subw (d a b : BitVec 6) : Statement (.subw d a b) := .inr (.inl ⟨_, rfl, isLong_of (opc_mkR ..)⟩)
theorem adds (d a b : BitVec 6) : Statement (.adds d a b) := .inr (.inl ⟨_, rfl, isLong_of (opc_mkR ..)⟩)
theorem subs (d a b : BitVec 6) : Statement (.subs d a b) := .inr (.inl ⟨_, rfl, isLong_of (opc_mkR ..)⟩)
theorem mul (d a b : BitVec 6) : Statement (.mul d a b) := .inr (.inl ⟨_, rfl, isLong_of (opc_mkR ..)⟩)
theorem mulh (d a b : BitVec 6) : Statement (.mulh d a b) := .inr (.inl ⟨_, rfl, isLong_of (opc_mkR ..)⟩)
theorem mulhu (d a b : BitVec 6) : Statement (.mulhu d a b) := .inr (.inl ⟨_, rfl, isLong_of (opc_mkR ..)⟩)
theorem mulhsu (d a b : BitVec 6) : Statement (.mulhsu d a b) := .inr (.inl ⟨_, rfl, isLong_of (opc_mkR ..)⟩)
theorem div (d a b : BitVec 6) : Statement (.div d a b) := .inr (.inl ⟨_, rfl, isLong_of (opc_mkR ..)⟩)
theorem divu (d a b : BitVec 6) : Statement (.divu d a b) := .inr (.inl ⟨_, rfl, isLong_of (opc_mkR ..)⟩)
theorem rem (d a b : BitVec 6) : Statement (.rem d a b) := .inr (.inl ⟨_, rfl, isLong_of (opc_mkR ..)⟩)
theorem remu (d a b : BitVec 6) : Statement (.remu d a b) := .inr (.inl ⟨_, rfl, isLong_of (opc_mkR ..)⟩)
theorem clz (d a : BitVec 6) : Statement (.clz d a) := .inr (.inl ⟨_, rfl, isLong_of (opc_mkR ..)⟩)
theorem ctz (d a : BitVec 6) : Statement (.ctz d a) := .inr (.inl ⟨_, rfl, isLong_of (opc_mkR ..)⟩)
theorem popc (d a : BitVec 6) : Statement (.popc d a) := .inr (.inl ⟨_, rfl, isLong_of (opc_mkR ..)⟩)
theorem sextb (d a : BitVec 6) : Statement (.sextb d a) := .inr (.inl ⟨_, rfl, isLong_of (opc_mkR ..)⟩)
theorem sexth (d a : BitVec 6) : Statement (.sexth d a) := .inr (.inl ⟨_, rfl, isLong_of (opc_mkR ..)⟩)
theorem sextw (d a : BitVec 6) : Statement (.sextw d a) := .inr (.inl ⟨_, rfl, isLong_of (opc_mkR ..)⟩)
theorem zextw (d a : BitVec 6) : Statement (.zextw d a) := .inr (.inl ⟨_, rfl, isLong_of (opc_mkR ..)⟩)
theorem bswap (d a : BitVec 6) : Statement (.bswap d a) := .inr (.inl ⟨_, rfl, isLong_of (opc_mkR ..)⟩)
theorem pand (d a b : BitVec 5) : Statement (.pand d a b) := .inr (.inl ⟨_, rfl, isLong_of (opc_mkR ..)⟩)
theorem por (d a b : BitVec 5) : Statement (.por d a b) := .inr (.inl ⟨_, rfl, isLong_of (opc_mkR ..)⟩)
theorem pxor (d a b : BitVec 5) : Statement (.pxor d a b) := .inr (.inl ⟨_, rfl, isLong_of (opc_mkR ..)⟩)
theorem pandn (d a b : BitVec 5) : Statement (.pandn d a b) := .inr (.inl ⟨_, rfl, isLong_of (opc_mkR ..)⟩)
theorem ptos (d : BitVec 6) (a : BitVec 5) : Statement (.ptos d a) := .inr (.inl ⟨_, rfl, isLong_of (opc_mkR ..)⟩)
theorem stop (d : BitVec 5) (a : BitVec 6) : Statement (.stop d a) := .inr (.inl ⟨_, rfl, isLong_of (opc_mkR ..)⟩)
theorem prd (d : BitVec 6) : Statement (.prd d) := .inr (.inl ⟨_, rfl, isLong_of (opc_mkR ..)⟩)
theorem pwr (a : BitVec 6) : Statement (.pwr a) := .inr (.inl ⟨_, rfl, isLong_of (opc_mkR ..)⟩)
theorem sel (d a b : BitVec 6) (p : BitVec 5) : Statement (.sel d a b p) := .inr (.inl ⟨_, rfl, isLong_of (opc_mkR ..)⟩)
theorem addi (d a : BitVec 6) (i : BitVec 14) : Statement (.addi d a i) := .inr (.inl ⟨_, rfl, isLong_of (opc_mkI ..)⟩)
theorem andi (d a : BitVec 6) (i : BitVec 14) : Statement (.andi d a i) := .inr (.inl ⟨_, rfl, isLong_of (opc_mkI ..)⟩)
theorem ori (d a : BitVec 6) (i : BitVec 14) : Statement (.ori d a i) := .inr (.inl ⟨_, rfl, isLong_of (opc_mkI ..)⟩)
theorem xori (d a : BitVec 6) (i : BitVec 14) : Statement (.xori d a i) := .inr (.inl ⟨_, rfl, isLong_of (opc_mkI ..)⟩)
theorem slli (d a i : BitVec 6) : Statement (.slli d a i) := .inr (.inl ⟨_, rfl, isLong_of (opc_mkI ..)⟩)
theorem srli (d a i : BitVec 6) : Statement (.srli d a i) := .inr (.inl ⟨_, rfl, isLong_of (opc_mkI ..)⟩)
theorem srai (d a i : BitVec 6) : Statement (.srai d a i) := .inr (.inl ⟨_, rfl, isLong_of (opc_mkI ..)⟩)
theorem muli (d a : BitVec 6) (i : BitVec 14) : Statement (.muli d a i) := .inr (.inl ⟨_, rfl, isLong_of (opc_mkI ..)⟩)
theorem cmp (p : BitVec 5) (n : BitVec 1) (a b : BitVec 6) (c f : BitVec 4) : Statement (.cmp p n a b c f) := .inr (.inl ⟨_, rfl, isLong_of (opc_mkP ..)⟩)
theorem cmpi (p : BitVec 5) (n : BitVec 1) (a i : BitVec 6) (c f : BitVec 4) : Statement (.cmpi p n a i c f) := .inr (.inl ⟨_, rfl, isLong_of (opc_mkP ..)⟩)
theorem cmpw (p : BitVec 5) (n : BitVec 1) (a b : BitVec 6) (c f : BitVec 4) : Statement (.cmpw p n a b c f) := .inr (.inl ⟨_, rfl, isLong_of (opc_mkP ..)⟩)
theorem cmpwi (p : BitVec 5) (n : BitVec 1) (a i : BitVec 6) (c f : BitVec 4) : Statement (.cmpwi p n a i c f) := .inr (.inl ⟨_, rfl, isLong_of (opc_mkP ..)⟩)
theorem br (p : BitVec 5) (n : BitVec 1) (o : BitVec 20) : Statement (.br p n o) := .inr (.inl ⟨_, rfl, isLong_of (opc_mkB ..)⟩)
theorem call (p : BitVec 5) (n : BitVec 1) (o : BitVec 20) : Statement (.call p n o) := .inr (.inl ⟨_, rfl, isLong_of (opc_mkB ..)⟩)
theorem jmp (a : BitVec 6) : Statement (.jmp a) := .inr (.inl ⟨_, rfl, isLong_of (opc_mkR ..)⟩)
theorem jalr (d a : BitVec 6) : Statement (.jalr d a) := .inr (.inl ⟨_, rfl, isLong_of (opc_mkR ..)⟩)
theorem loop (l : BitVec 1) (a : BitVec 6) (i : BitVec 14) : Statement (.loop l a i) := .inr (.inl ⟨_, rfl, isLong_of (opc_mkI ..)⟩)
theorem ldd (d b : BitVec 6) (o : BitVec 14) : Statement (.ldd d b o) := .inr (.inl ⟨_, rfl, isLong_of (opc_mkI ..)⟩)
theorem std (s b : BitVec 6) (o : BitVec 14) : Statement (.std s b o) := .inr (.inl ⟨_, rfl, isLong_of (opc_mkI ..)⟩)
theorem ldw (d b : BitVec 6) (o : BitVec 14) : Statement (.ldw d b o) := .inr (.inl ⟨_, rfl, isLong_of (opc_mkI ..)⟩)
theorem stw (s b : BitVec 6) (o : BitVec 14) : Statement (.stw s b o) := .inr (.inl ⟨_, rfl, isLong_of (opc_mkI ..)⟩)
theorem vldb (d a b : BitVec 6) : Statement (.vldb d a b) := .inr (.inl ⟨_, rfl, isLong_of (opc_mkR ..)⟩)
theorem vldh (d a b : BitVec 6) : Statement (.vldh d a b) := .inr (.inl ⟨_, rfl, isLong_of (opc_mkR ..)⟩)
theorem vldw (d a b : BitVec 6) : Statement (.vldw d a b) := .inr (.inl ⟨_, rfl, isLong_of (opc_mkR ..)⟩)
theorem vldd (d a b : BitVec 6) : Statement (.vldd d a b) := .inr (.inl ⟨_, rfl, isLong_of (opc_mkR ..)⟩)
theorem vstb (s a b : BitVec 6) : Statement (.vstb s a b) := .inr (.inl ⟨_, rfl, isLong_of (opc_mkR ..)⟩)
theorem vsth (s a b : BitVec 6) : Statement (.vsth s a b) := .inr (.inl ⟨_, rfl, isLong_of (opc_mkR ..)⟩)
theorem vstw (s a b : BitVec 6) : Statement (.vstw s a b) := .inr (.inl ⟨_, rfl, isLong_of (opc_mkR ..)⟩)
theorem vstd (s a b : BitVec 6) : Statement (.vstd s a b) := .inr (.inl ⟨_, rfl, isLong_of (opc_mkR ..)⟩)
theorem aswp (d a b : BitVec 6) (w : BitVec 1) : Statement (.aswp d a b w) := .inr (.inl ⟨_, rfl, isLong_of (opc_mkR ..)⟩)
theorem aadd (d a b : BitVec 6) (w : BitVec 1) : Statement (.aadd d a b w) := .inr (.inl ⟨_, rfl, isLong_of (opc_mkR ..)⟩)
theorem aand (d a b : BitVec 6) (w : BitVec 1) : Statement (.aand d a b w) := .inr (.inl ⟨_, rfl, isLong_of (opc_mkR ..)⟩)
theorem aor (d a b : BitVec 6) (w : BitVec 1) : Statement (.aor d a b w) := .inr (.inl ⟨_, rfl, isLong_of (opc_mkR ..)⟩)
theorem axor (d a b : BitVec 6) (w : BitVec 1) : Statement (.axor d a b w) := .inr (.inl ⟨_, rfl, isLong_of (opc_mkR ..)⟩)
theorem amax (d a b : BitVec 6) (w : BitVec 1) : Statement (.amax d a b w) := .inr (.inl ⟨_, rfl, isLong_of (opc_mkR ..)⟩)
theorem amin (d a b : BitVec 6) (w : BitVec 1) : Statement (.amin d a b w) := .inr (.inl ⟨_, rfl, isLong_of (opc_mkR ..)⟩)
theorem amaxu (d a b : BitVec 6) (w : BitVec 1) : Statement (.amaxu d a b w) := .inr (.inl ⟨_, rfl, isLong_of (opc_mkR ..)⟩)
theorem aminu (d a b : BitVec 6) (w : BitVec 1) : Statement (.aminu d a b w) := .inr (.inl ⟨_, rfl, isLong_of (opc_mkR ..)⟩)
theorem acas (d a b : BitVec 6) (w : BitVec 1) : Statement (.acas d a b w) := .inr (.inl ⟨_, rfl, isLong_of (opc_mkR ..)⟩)
theorem ldbx (d a b : BitVec 6) : Statement (.ldbx d a b) := .inr (.inl ⟨_, rfl, isLong_of (opc_mkR ..)⟩)
theorem ldbux (d a b : BitVec 6) : Statement (.ldbux d a b) := .inr (.inl ⟨_, rfl, isLong_of (opc_mkR ..)⟩)
theorem ldhx (d a b : BitVec 6) : Statement (.ldhx d a b) := .inr (.inl ⟨_, rfl, isLong_of (opc_mkR ..)⟩)
theorem ldhux (d a b : BitVec 6) : Statement (.ldhux d a b) := .inr (.inl ⟨_, rfl, isLong_of (opc_mkR ..)⟩)
theorem ldwx (d a b : BitVec 6) : Statement (.ldwx d a b) := .inr (.inl ⟨_, rfl, isLong_of (opc_mkR ..)⟩)
theorem ldwux (d a b : BitVec 6) : Statement (.ldwux d a b) := .inr (.inl ⟨_, rfl, isLong_of (opc_mkR ..)⟩)
theorem stbx (s a b : BitVec 6) : Statement (.stbx s a b) := .inr (.inl ⟨_, rfl, isLong_of (opc_mkR ..)⟩)
theorem sthx (s a b : BitVec 6) : Statement (.sthx s a b) := .inr (.inl ⟨_, rfl, isLong_of (opc_mkR ..)⟩)
theorem stwx (s a b : BitVec 6) : Statement (.stwx s a b) := .inr (.inl ⟨_, rfl, isLong_of (opc_mkR ..)⟩)
theorem mark (s : BitVec 6) : Statement (.mark s) := .inr (.inl ⟨_, rfl, isLong_of (opc_mkR ..)⟩)
theorem tkwait (e : BitVec 6) : Statement (.tkwait e) := .inr (.inl ⟨_, rfl, isLong_of (opc_mkR ..)⟩)
theorem tksend (e : BitVec 6) : Statement (.tksend e) := .inr (.inl ⟨_, rfl, isLong_of (opc_mkR ..)⟩)
theorem tkcnt (d a b : BitVec 6) : Statement (.tkcnt d a b) := .inr (.inl ⟨_, rfl, isLong_of (opc_mkR ..)⟩)
theorem scpost (a b : BitVec 6) : Statement (.scpost a b) := .inr (.inl ⟨_, rfl, isLong_of (opc_mkR ..)⟩)
theorem scwait (a b : BitVec 6) : Statement (.scwait a b) := .inr (.inl ⟨_, rfl, isLong_of (opc_mkR ..)⟩)
theorem sctest (p : BitVec 5) (a b : BitVec 6) : Statement (.sctest p a b) := .inr (.inl ⟨_, rfl, isLong_of (opc_mkR ..)⟩)
theorem clink (a b : BitVec 6) : Statement (.clink a b) := .inr (.inl ⟨_, rfl, isLong_of (opc_mkR ..)⟩)
theorem ckick (a : BitVec 6) : Statement (.ckick a) := .inr (.inl ⟨_, rfl, isLong_of (opc_mkR ..)⟩)
theorem wmwait (a c : BitVec 6) : Statement (.wmwait a c) := .inr (.inl ⟨_, rfl, isLong_of (opc_mkR ..)⟩)
theorem wmdis (c : BitVec 6) : Statement (.wmdis c) := .inr (.inl ⟨_, rfl, isLong_of (opc_mkR ..)⟩)
theorem wset (d a : BitVec 6) : Statement (.wset d a) := .inr (.inl ⟨_, rfl, isLong_of (opc_mkR ..)⟩)
theorem wdis (a : BitVec 6) : Statement (.wdis a) := .inr (.inl ⟨_, rfl, isLong_of (opc_mkR ..)⟩)
theorem wstat (d a : BitVec 6) : Statement (.wstat d a) := .inr (.inl ⟨_, rfl, isLong_of (opc_mkR ..)⟩)
theorem claim (d : BitVec 6) : Statement (.claim d) := .inr (.inl ⟨_, rfl, isLong_of (opc_mkR ..)⟩)
theorem claimp (d : BitVec 6) : Statement (.claimp d) := .inr (.inl ⟨_, rfl, isLong_of (opc_mkR ..)⟩)
theorem rels (a : BitVec 6) : Statement (.rels a) := .inr (.inl ⟨_, rfl, isLong_of (opc_mkR ..)⟩)
theorem slotst (d a : BitVec 6) : Statement (.slotst d a) := .inr (.inl ⟨_, rfl, isLong_of (opc_mkR ..)⟩)
theorem abank (d : BitVec 6) : Statement (.abank d) := .inr (.inl ⟨_, rfl, isLong_of (opc_mkR ..)⟩)
theorem afree (a : BitVec 6) : Statement (.afree a) := .inr (.inl ⟨_, rfl, isLong_of (opc_mkR ..)⟩)
theorem aband (a b : BitVec 6) : Statement (.aband a b) := .inr (.inl ⟨_, rfl, isLong_of (opc_mkR ..)⟩)
theorem arelb (a : BitVec 6) : Statement (.arelb a) := .inr (.inl ⟨_, rfl, isLong_of (opc_mkR ..)⟩)
theorem abst (d a : BitVec 6) : Statement (.abst d a) := .inr (.inl ⟨_, rfl, isLong_of (opc_mkR ..)⟩)
theorem lend (b : BitVec 6) : Statement (.lend b) := .inr (.inl ⟨_, rfl, isLong_of (opc_mkR ..)⟩)
theorem retBank (b : BitVec 6) : Statement (.retBank b) := .inr (.inl ⟨_, rfl, isLong_of (opc_mkR ..)⟩)
theorem cbld (a b : BitVec 6) : Statement (.cbld a b) := .inr (.inl ⟨_, rfl, isLong_of (opc_mkR ..)⟩)
theorem tagget (d t : BitVec 6) : Statement (.tagget d t) := .inr (.inl ⟨_, rfl, isLong_of (opc_mkR ..)⟩)
theorem tagset (t b : BitVec 6) : Statement (.tagset t b) := .inr (.inl ⟨_, rfl, isLong_of (opc_mkR ..)⟩)
theorem tscget (d t : BitVec 6) : Statement (.tscget d t) := .inr (.inl ⟨_, rfl, isLong_of (opc_mkR ..)⟩)
theorem tscset (t b : BitVec 6) : Statement (.tscset t b) := .inr (.inl ⟨_, rfl, isLong_of (opc_mkR ..)⟩)
theorem estim (a : BitVec 6) : Statement (.estim a) := .inr (.inl ⟨_, rfl, isLong_of (opc_mkR ..)⟩)
theorem ackmap (d : BitVec 6) : Statement (.ackmap d) := .inr (.inl ⟨_, rfl, isLong_of (opc_mkR ..)⟩)
theorem crr (d a : BitVec 6) : Statement (.crr d a) := .inr (.inl ⟨_, rfl, isLong_of (opc_mkR ..)⟩)
theorem crw (a b : BitVec 6) : Statement (.crw a b) := .inr (.inl ⟨_, rfl, isLong_of (opc_mkR ..)⟩)
theorem trap (c : BitVec 6) : Statement (.trap c) := .inr (.inl ⟨_, rfl, isLong_of (opc_mkR ..)⟩)
theorem icinv (a : BitVec 6) : Statement (.icinv a) := .inr (.inl ⟨_, rfl, isLong_of (opc_mkR ..)⟩)
theorem tlbi (a b : BitVec 6) : Statement (.tlbi a b) := .inr (.inl ⟨_, rfl, isLong_of (opc_mkR ..)⟩)
theorem tlbia (b : BitVec 6) : Statement (.tlbia b) := .inr (.inl ⟨_, rfl, isLong_of (opc_mkR ..)⟩)
theorem drd (d a : BitVec 6) : Statement (.drd d a) := .inr (.inl ⟨_, rfl, isLong_of (opc_mkR ..)⟩)
theorem dwr (a b : BitVec 6) : Statement (.dwr a b) := .inr (.inl ⟨_, rfl, isLong_of (opc_mkR ..)⟩)
theorem scango (a b : BitVec 6) : Statement (.scango a b) := .inr (.inl ⟨_, rfl, isLong_of (opc_mkR ..)⟩)
theorem scanab (a : BitVec 6) : Statement (.scanab a) := .inr (.inl ⟨_, rfl, isLong_of (opc_mkR ..)⟩)
theorem scanst (d a : BitVec 6) : Statement (.scanst d a) := .inr (.inl ⟨_, rfl, isLong_of (opc_mkR ..)⟩)
theorem act (a : BitVec 6) : Statement (.act a) := .inr (.inl ⟨_, rfl, isLong_of (opc_mkR ..)⟩)
theorem pre (a : BitVec 6) : Statement (.pre a) := .inr (.inl ⟨_, rfl, isLong_of (opc_mkR ..)⟩)
theorem ref (a : BitVec 6) : Statement (.ref a) := .inr (.inl ⟨_, rfl, isLong_of (opc_mkR ..)⟩)
theorem li (d : BitVec 6) (imm : BitVec 42) : Statement (.li d imm) := .inr (.inr ⟨_, _, rfl, isLong_of (opc_mkL0 ..)⟩)
theorem addli (d a : BitVec 6) (imm : BitVec 42) : Statement (.addli d a imm) := .inr (.inr ⟨_, _, rfl, isLong_of (opc_mkL0 ..)⟩)
theorem liu (d a : BitVec 6) (imm : BitVec 22) : Statement (.liu d a imm) := .inr (.inr ⟨_, _, rfl, isLong_of (opc_mkL0 ..)⟩)
theorem cpy (sync : BitVec 16) (a b c t : BitVec 6) (cb : BitVec 8) : Statement (.cpy sync a b c t cb) := .inr (.inr ⟨_, _, rfl, isLong_of (opc_mkE0 ..)⟩)
theorem cpy2d (sync : BitVec 16) (a b c t : BitVec 6) (cb : BitVec 8) : Statement (.cpy2d sync a b c t cb) := .inr (.inr ⟨_, _, rfl, isLong_of (opc_mkE0 ..)⟩)
theorem cps (sync : BitVec 16) (a b c t : BitVec 6) (cb : BitVec 8) : Statement (.cps sync a b c t cb) := .inr (.inr ⟨_, _, rfl, isLong_of (opc_mkE0 ..)⟩)
theorem adrain (sync : BitVec 16) (a b c t : BitVec 6) (cb : BitVec 8) : Statement (.adrain sync a b c t cb) := .inr (.inr ⟨_, _, rfl, isLong_of (opc_mkE0 ..)⟩)
theorem fill (sync : BitVec 16) (a b c t : BitVec 6) (cb : BitVec 8) : Statement (.fill sync a b c t cb) := .inr (.inr ⟨_, _, rfl, isLong_of (opc_mkE0 ..)⟩)
theorem cmc (sync : BitVec 16) (a b c t : BitVec 6) (cb : BitVec 8) : Statement (.cmc sync a b c t cb) := .inr (.inr ⟨_, _, rfl, isLong_of (opc_mkE0 ..)⟩)
theorem cpost (sync : BitVec 16) (a b c t : BitVec 6) (cb : BitVec 8) : Statement (.cpost sync a b c t cb) := .inr (.inr ⟨_, _, rfl, isLong_of (opc_mkE0 ..)⟩)
theorem cwait (sync : BitVec 16) (a b c t : BitVec 6) (cb : BitVec 8) : Statement (.cwait sync a b c t cb) := .inr (.inr ⟨_, _, rfl, isLong_of (opc_mkE0 ..)⟩)
theorem gexp (sync : BitVec 16) (a b c t : BitVec 6) (cb : BitVec 8) : Statement (.gexp sync a b c t cb) := .inr (.inr ⟨_, _, rfl, isLong_of (opc_mkE0 ..)⟩)
theorem gexpv (sync : BitVec 16) (a b c t : BitVec 6) (cb : BitVec 8) : Statement (.gexpv sync a b c t cb) := .inr (.inr ⟨_, _, rfl, isLong_of (opc_mkE0 ..)⟩)
theorem gath (sync : BitVec 16) (a b c t : BitVec 6) (cb : BitVec 8) : Statement (.gath sync a b c t cb) := .inr (.inr ⟨_, _, rfl, isLong_of (opc_mkE0 ..)⟩)
theorem gscat (sync : BitVec 16) (a b c t : BitVec 6) (cb : BitVec 8) : Statement (.gscat sync a b c t cb) := .inr (.inr ⟨_, _, rfl, isLong_of (opc_mkE0 ..)⟩)
theorem lsend (sync : BitVec 16) (a b c t : BitVec 6) (cb : BitVec 8) : Statement (.lsend sync a b c t cb) := .inr (.inr ⟨_, _, rfl, isLong_of (opc_mkE0 ..)⟩)
theorem colar (sync : BitVec 16) (a b c t : BitVec 6) (cb : BitVec 8) : Statement (.colar sync a b c t cb) := .inr (.inr ⟨_, _, rfl, isLong_of (opc_mkE0 ..)⟩)
theorem colrs (sync : BitVec 16) (a b c t : BitVec 6) (cb : BitVec 8) : Statement (.colrs sync a b c t cb) := .inr (.inr ⟨_, _, rfl, isLong_of (opc_mkE0 ..)⟩)
theorem colag (sync : BitVec 16) (a b c t : BitVec 6) (cb : BitVec 8) : Statement (.colag sync a b c t cb) := .inr (.inr ⟨_, _, rfl, isLong_of (opc_mkE0 ..)⟩)
theorem mgo (sync : BitVec 16) (a t : BitVec 6) (cb : BitVec 8) : Statement (.mgo sync a t cb) := .inr (.inr ⟨_, _, rfl, isLong_of (opc_mkE0 ..)⟩)
theorem aread (sync : BitVec 16) (a b c t : BitVec 6) (cb : BitVec 8) : Statement (.aread sync a b c t cb) := .inr (.inr ⟨_, _, rfl, isLong_of (opc_mkE0 ..)⟩)
theorem vrun (sync : BitVec 16) (a b c t : BitVec 6) (cb : BitVec 8) : Statement (.vrun sync a b c t cb) := .inr (.inr ⟨_, _, rfl, isLong_of (opc_mkE0 ..)⟩)
theorem vstop (sync : BitVec 16) (a b c t : BitVec 6) (cb : BitVec 8) : Statement (.vstop sync a b c t cb) := .inr (.inr ⟨_, _, rfl, isLong_of (opc_mkE0 ..)⟩)
theorem vbase (sync : BitVec 16) (a b c t : BitVec 6) (cb : BitVec 8) : Statement (.vbase sync a b c t cb) := .inr (.inr ⟨_, _, rfl, isLong_of (opc_mkE0 ..)⟩)
theorem vwait (sync : BitVec 16) (a b c t : BitVec 6) (cb : BitVec 8) : Statement (.vwait sync a b c t cb) := .inr (.inr ⟨_, _, rfl, isLong_of (opc_mkE0 ..)⟩)
theorem vtld (sync : BitVec 16) (a b c t : BitVec 6) (cb : BitVec 8) : Statement (.vtld sync a b c t cb) := .inr (.inr ⟨_, _, rfl, isLong_of (opc_mkE0 ..)⟩)
theorem oshot (sync : BitVec 16) (a b c t : BitVec 6) (cb : BitVec 8) : Statement (.oshot sync a b c t cb) := .inr (.inr ⟨_, _, rfl, isLong_of (opc_mkE0 ..)⟩)
theorem omask (sync : BitVec 16) (a b c t : BitVec 6) (cb : BitVec 8) : Statement (.omask sync a b c t cb) := .inr (.inr ⟨_, _, rfl, isLong_of (opc_mkE0 ..)⟩)
theorem ocal (sync : BitVec 16) (a b c t : BitVec 6) (cb : BitVec 8) : Statement (.ocal sync a b c t cb) := .inr (.inr ⟨_, _, rfl, isLong_of (opc_mkE0 ..)⟩)
theorem vmov (d a : BitVec 5) (m : BitVec 3) : Statement (.vmov d a m) := .inl rfl
theorem vspl (d : BitVec 5) (m : BitVec 3) (f : BitVec 4) : Statement (.vspl d m f) := .inl rfl
theorem vzero (d : BitVec 5) (m : BitVec 3) (f : BitVec 4) : Statement (.vzero d m f) := .inl rfl
theorem vidx (d : BitVec 5) (m : BitVec 3) (r : BitVec 2) (s : BitVec 1) : Statement (.vidx d m r s) := .inl rfl
theorem vsel (d a b : BitVec 5) (m : BitVec 3) : Statement (.vsel d a b m) := .inl rfl
theorem vadd (d a b : BitVec 5) (m : BitVec 3) (f : BitVec 4) (r : BitVec 2) (s : BitVec 1) : Statement (.vadd d a b m f r s) := .inl rfl
theorem vsub (d a b : BitVec 5) (m : BitVec 3) (f : BitVec 4) (r : BitVec 2) (s : BitVec 1) : Statement (.vsub d a b m f r s) := .inl rfl
theorem vmul (d a b : BitVec 5) (m : BitVec 3) (f : BitVec 4) (r : BitVec 2) (s : BitVec 1) : Statement (.vmul d a b m f r s) := .inl rfl
theorem vdiv (d a b : BitVec 5) (m : BitVec 3) (f : BitVec 4) (r : BitVec 2) (s : BitVec 1) : Statement (.vdiv d a b m f r s) := .inl rfl
theorem vfma (d a b : BitVec 5) (m : BitVec 3) (f : BitVec 4) (r : BitVec 2) (s : BitVec 1) : Statement (.vfma d a b m f r s) := .inl rfl
theorem vfnma (d a b : BitVec 5) (m : BitVec 3) (f : BitVec 4) (r : BitVec 2) (s : BitVec 1) : Statement (.vfnma d a b m f r s) := .inl rfl
theorem vmin (d a b : BitVec 5) (m : BitVec 3) (f : BitVec 4) (s : BitVec 1) : Statement (.vmin d a b m f s) := .inl rfl
theorem vmax (d a b : BitVec 5) (m : BitVec 3) (f : BitVec 4) (s : BitVec 1) : Statement (.vmax d a b m f s) := .inl rfl
theorem vabs (d a : BitVec 5) (m : BitVec 3) (f : BitVec 4) : Statement (.vabs d a m f) := .inl rfl
theorem vneg (d a : BitVec 5) (m : BitVec 3) (f : BitVec 4) : Statement (.vneg d a m f) := .inl rfl
theorem vsqrt (d a : BitVec 5) (m : BitVec 3) (f : BitVec 4) (r : BitVec 2) (s : BitVec 1) : Statement (.vsqrt d a m f r s) := .inl rfl
theorem vrsq (d a : BitVec 5) (m : BitVec 3) (f : BitVec 4) (r : BitVec 2) (s : BitVec 1) : Statement (.vrsq d a m f r s) := .inl rfl
theorem vrcp (d a : BitVec 5) (m : BitVec 3) (f : BitVec 4) (r : BitVec 2) (s : BitVec 1) : Statement (.vrcp d a m f r s) := .inl rfl
theorem vexp2 (d a : BitVec 5) (m : BitVec 3) (f : BitVec 4) (r : BitVec 2) (s : BitVec 1) : Statement (.vexp2 d a m f r s) := .inl rfl
theorem vlog2 (d a : BitVec 5) (m : BitVec 3) (f : BitVec 4) (r : BitVec 2) (s : BitVec 1) : Statement (.vlog2 d a m f r s) := .inl rfl
theorem vrint (d a : BitVec 5) (m : BitVec 3) (f : BitVec 4) (r : BitVec 2) : Statement (.vrint d a m f r) := .inl rfl
theorem vfloor (d a : BitVec 5) (m : BitVec 3) (f : BitVec 4) : Statement (.vfloor d a m f) := .inl rfl
theorem vrelu (d a : BitVec 5) (m : BitVec 3) (f : BitVec 4) : Statement (.vrelu d a m f) := .inl rfl
theorem vcmpeq (d : BitVec 3) (a b : BitVec 5) (m : BitVec 3) (f : BitVec 4) : Statement (.vcmpeq d a b m f) := .inl rfl
theorem vcmplt (d : BitVec 3) (a b : BitVec 5) (m : BitVec 3) (f : BitVec 4) : Statement (.vcmplt d a b m f) := .inl rfl
theorem vcmple (d : BitVec 3) (a b : BitVec 5) (m : BitVec 3) (f : BitVec 4) : Statement (.vcmple d a b m f) := .inl rfl
theorem viadd (d a b : BitVec 5) (m : BitVec 3) (f : BitVec 4) (s : BitVec 1) : Statement (.viadd d a b m f s) := .inl rfl
theorem visub (d a b : BitVec 5) (m : BitVec 3) (f : BitVec 4) (s : BitVec 1) : Statement (.visub d a b m f s) := .inl rfl
theorem vimul (d a b : BitVec 5) (m : BitVec 3) (f : BitVec 4) (s : BitVec 1) : Statement (.vimul d a b m f s) := .inl rfl
theorem vimin (d a b : BitVec 5) (m : BitVec 3) (f : BitVec 4) : Statement (.vimin d a b m f) := .inl rfl
theorem vimax (d a b : BitVec 5) (m : BitVec 3) (f : BitVec 4) : Statement (.vimax d a b m f) := .inl rfl
theorem viand (d a b : BitVec 5) (m : BitVec 3) (f : BitVec 4) : Statement (.viand d a b m f) := .inl rfl
theorem vior (d a b : BitVec 5) (m : BitVec 3) (f : BitVec 4) : Statement (.vior d a b m f) := .inl rfl
theorem vixor (d a b : BitVec 5) (m : BitVec 3) (f : BitVec 4) : Statement (.vixor d a b m f) := .inl rfl
theorem visll (d a b : BitVec 5) (m : BitVec 3) (f : BitVec 4) : Statement (.visll d a b m f) := .inl rfl
theorem visrl (d a b : BitVec 5) (m : BitVec 3) (f : BitVec 4) : Statement (.visrl d a b m f) := .inl rfl
theorem visra (d a b : BitVec 5) (m : BitVec 3) (f : BitVec 4) : Statement (.visra d a b m f) := .inl rfl
theorem vidot (d a b : BitVec 5) (m : BitVec 3) (f : BitVec 4) (s : BitVec 1) : Statement (.vidot d a b m f s) := .inl rfl
theorem vicmpeq (d : BitVec 3) (a b : BitVec 5) (m : BitVec 3) (f : BitVec 4) : Statement (.vicmpeq d a b m f) := .inl rfl
theorem vicmplt (d : BitVec 3) (a b : BitVec 5) (m : BitVec 3) (f : BitVec 4) : Statement (.vicmplt d a b m f) := .inl rfl
theorem vcadd (d a b : BitVec 5) (m : BitVec 3) (f : BitVec 4) (r : BitVec 2) (s : BitVec 1) : Statement (.vcadd d a b m f r s) := .inl rfl
theorem vcsub (d a b : BitVec 5) (m : BitVec 3) (f : BitVec 4) (r : BitVec 2) (s : BitVec 1) : Statement (.vcsub d a b m f r s) := .inl rfl
theorem vcmul (d a b : BitVec 5) (m : BitVec 3) (f : BitVec 4) (r : BitVec 2) (s : BitVec 1) : Statement (.vcmul d a b m f r s) := .inl rfl
theorem vcmulj (d a b : BitVec 5) (m : BitVec 3) (f : BitVec 4) (r : BitVec 2) (s : BitVec 1) : Statement (.vcmulj d a b m f r s) := .inl rfl
theorem vcfma (d a b : BitVec 5) (m : BitVec 3) (f : BitVec 4) (r : BitVec 2) (s : BitVec 1) : Statement (.vcfma d a b m f r s) := .inl rfl
theorem vconj (d a : BitVec 5) (m : BitVec 3) (f : BitVec 4) : Statement (.vconj d a m f) := .inl rfl
theorem vcabs2 (d a : BitVec 5) (m : BitVec 3) (f : BitVec 4) (r : BitVec 2) (s : BitVec 1) : Statement (.vcabs2 d a m f r s) := .inl rfl
theorem vcrot (d a : BitVec 5) (k : BitVec 2) (m : BitVec 3) (f : BitVec 4) : Statement (.vcrot d a k m f) := .inl rfl
theorem vcvt (d a : BitVec 5) (p : BitVec 4) (m : BitVec 3) (f : BitVec 4) (r : BitVec 2) (s : BitVec 1) : Statement (.vcvt d a p m f r s) := .inl rfl
theorem vqnt (d a : BitVec 5) (p : BitVec 4) (m : BitVec 3) (f : BitVec 4) (r : BitVec 2) : Statement (.vqnt d a p m f r) := .inl rfl
theorem vcvtcb (d a : BitVec 5) (p : BitVec 2) (c m : BitVec 3) (r : BitVec 2) (s : BitVec 1) : Statement (.vcvtcb d a p c m r s) := .inl rfl
theorem vcpk (d a b : BitVec 5) (m : BitVec 3) (f : BitVec 4) : Statement (.vcpk d a b m f) := .inl rfl
theorem vcre (d a : BitVec 5) (m : BitVec 3) (f : BitVec 4) (r : BitVec 2) (s : BitVec 1) : Statement (.vcre d a m f r s) := .inl rfl
theorem vcim (d a : BitVec 5) (m : BitVec 3) (f : BitVec 4) (r : BitVec 2) (s : BitVec 1) : Statement (.vcim d a m f r s) := .inl rfl
theorem vrsum (d a : BitVec 5) (m : BitVec 3) (f : BitVec 4) (s : BitVec 1) : Statement (.vrsum d a m f s) := .inl rfl
theorem vrmax (d a : BitVec 5) (m : BitVec 3) (f : BitVec 4) (s : BitVec 1) : Statement (.vrmax d a m f s) := .inl rfl
theorem vrmin (d a : BitVec 5) (m : BitVec 3) (f : BitVec 4) (s : BitVec 1) : Statement (.vrmin d a m f s) := .inl rfl
theorem vramax (d a : BitVec 5) (m : BitVec 3) (f : BitVec 4) (s : BitVec 1) : Statement (.vramax d a m f s) := .inl rfl
theorem vrdot (d a b : BitVec 5) (m : BitVec 3) (f : BitVec 4) (s : BitVec 1) : Statement (.vrdot d a b m f s) := .inl rfl
theorem vperm (d a b : BitVec 5) (m : BitVec 3) : Statement (.vperm d a b m) := .inl rfl
theorem vrot (d a : BitVec 5) (m : BitVec 3) (k : BitVec 6) : Statement (.vrot d a m k) := .inl rfl
theorem vzipl (d a b : BitVec 5) (m : BitVec 3) : Statement (.vzipl d a b m) := .inl rfl
theorem vziph (d a b : BitVec 5) (m : BitVec 3) : Statement (.vziph d a b m) := .inl rfl
theorem vuzpe (d a b : BitVec 5) (m : BitVec 3) : Statement (.vuzpe d a b m) := .inl rfl
theorem vuzpo (d a b : BitVec 5) (m : BitVec 3) : Statement (.vuzpo d a b m) := .inl rfl
theorem vbcst (d a : BitVec 5) (m : BitVec 3) (k : BitVec 6) : Statement (.vbcst d a m k) := .inl rfl
theorem mand (d a b m : BitVec 3) : Statement (.mand d a b m) := .inl rfl
theorem mor (d a b m : BitVec 3) : Statement (.mor d a b m) := .inl rfl
theorem mxor (d a b m : BitVec 3) : Statement (.mxor d a b m) := .inl rfl
theorem mandn (d a b m : BitVec 3) : Statement (.mandn d a b m) := .inl rfl
theorem mnot (d a m : BitVec 3) : Statement (.mnot d a m) := .inl rfl
theorem mfirst (d m : BitVec 3) (n : BitVec 7) : Statement (.mfirst d m n) := .inl rfl
theorem vmpop (d : BitVec 5) (a m : BitVec 3) : Statement (.vmpop d a m) := .inl rfl
theorem mfromv (d : BitVec 3) (a : BitVec 5) (m : BitVec 3) : Statement (.mfromv d a m) := .inl rfl
theorem vld (d : BitVec 5) (i : BitVec 1) (c : BitVec 2) (o : BitVec 12) (m : BitVec 3) : Statement (.vld d i c o m) := .inl rfl
theorem vst (s : BitVec 5) (i : BitVec 1) (c : BitVec 2) (o : BitVec 12) (m : BitVec 3) : Statement (.vst s i c o m) := .inl rfl
theorem vldg (d : BitVec 5) (c : BitVec 2) (x : BitVec 5) (m : BitVec 3) : Statement (.vldg d c x m) := .inl rfl
theorem vsct (s : BitVec 5) (c : BitVec 2) (x : BitVec 5) (m : BitVec 3) : Statement (.vsct s c x m) := .inl rfl
theorem vldbs (d : BitVec 5) (i : BitVec 1) (c : BitVec 2) (o : BitVec 12) : Statement (.vldbs d i c o) := .inl rfl
theorem vstbs (s : BitVec 5) (i : BitVec 1) (c : BitVec 2) (o : BitVec 12) (m : BitVec 3) : Statement (.vstbs s i c o m) := .inl rfl
theorem vtwid (d a l : BitVec 5) (m : BitVec 3) (f : BitVec 4) (v : BitVec 1) : Statement (.vtwid d a l m f v) := .inl rfl
theorem vdefer (p a b : BitVec 5) (m : BitVec 3) (n : BitVec 2) : Statement (.vdefer p a b m n) := .inl rfl
theorem vloop (l : BitVec 1) (f : BitVec 8) (c : BitVec 10) : Statement (.vloop l f c) := .inl rfl
theorem vend (m : BitVec 3) : Statement (.vend m) := .inl rfl
theorem vrunDrain (sync : BitVec 16) (a b c t : BitVec 6) (cb : BitVec 8) : Statement (.vrunDrain sync a b c t cb) := .inr (.inr ⟨_, _, rfl, isLong_of (opc_mkE0 ..)⟩)
theorem vbaseDq (sync : BitVec 16) (a b c t : BitVec 6) (cb : BitVec 8) : Statement (.vbaseDq sync a b c t cb) := .inr (.inr ⟨_, _, rfl, isLong_of (opc_mkE0 ..)⟩)
theorem nop : Statement .nop := .inr (.inl ⟨_, rfl, isLong_of (opc_mkR ..)⟩)
theorem cbar : Statement .cbar := .inr (.inl ⟨_, rfl, isLong_of (opc_mkR ..)⟩)
theorem halt : Statement .halt := .inr (.inl ⟨_, rfl, isLong_of (opc_mkR ..)⟩)
theorem yield : Statement .yield := .inr (.inl ⟨_, rfl, isLong_of (opc_mkR ..)⟩)
theorem hbeat : Statement .hbeat := .inr (.inl ⟨_, rfl, isLong_of (opc_mkR ..)⟩)
theorem tret : Statement .tret := .inr (.inl ⟨_, rfl, isLong_of (opc_mkR ..)⟩)
theorem icinva : Statement .icinva := .inr (.inl ⟨_, rfl, isLong_of (opc_mkR ..)⟩)
theorem tlbiall : Statement .tlbiall := .inr (.inl ⟨_, rfl, isLong_of (opc_mkR ..)⟩)
theorem vnop : Statement .vnop := .inl rfl
theorem entryStart (x : CtxId) (e : Eng) : Statement (.entryStart x e) := .inl rfl
theorem entryCompletion (x : CtxId) (e : Eng) : Statement (.entryCompletion x e) := .inl rfl
theorem heldLinkRun (x : CtxId) : Statement (.heldLinkRun x) := .inl rfl
theorem forcedPointStart (x : CtxId) (e : Eng) : Statement (.forcedPointStart x e) := .inl rfl
theorem loadLanding (x : CtxId) (id : Nat) : Statement (.loadLanding x id) := .inl rfl
theorem accessPerformAtHome (who : Performer) : Statement (.accessPerformAtHome who) := .inl rfl
theorem contractWriteRelease (k : Nat) : Statement (.contractWriteRelease k) := .inl rfl
theorem requestRetry (x : CtxId) (req : Request) : Statement (.requestRetry x req) := .inl rfl
theorem endpointRequest (ro : Bool) (r : OutReq) : Statement (.endpointRequest ro r) := .inl rfl
theorem peerRequest (l : Fin 12) (r : OutReq) : Statement (.peerRequest l r) := .inl rfl
theorem flitReceive (l : Fin 12) (retries : Nat) : Statement (.flitReceive l retries) := .inl rfl
theorem linkDown (l : Fin 12) : Statement (.linkDown l) := .inl rfl
theorem launchAccept : Statement .launchAccept := .inl rfl
theorem launchCompletion (lid : BitVec 16) : Statement (.launchCompletion lid) := .inl rfl
theorem counterAccessReport (task : Nat) : Statement (.counterAccessReport task) := .inl rfl
theorem untrackedCounterPoll (task : Nat) : Statement (.untrackedCounterPoll task) := .inl rfl
theorem taskPlacement : Statement .taskPlacement := .inl rfl
theorem quantumExpiry (x : CtxId) : Statement (.quantumExpiry x) := .inl rfl
theorem stageReassignment (lid : BitVec 16) : Statement (.stageReassignment lid) := .inl rfl
theorem saveComplete (x : CtxId) : Statement (.saveComplete x) := .inl rfl
theorem powerWindow (milliwatt : Nat) : Statement (.powerWindow milliwatt) := .inl rfl
theorem gatingStart : Statement .gatingStart := .inl rfl
theorem gatingCommit : Statement .gatingCommit := .inl rfl
theorem wakeMessage : Statement .wakeMessage := .inl rfl
theorem wakingDone : Statement .wakingDone := .inl rfl
theorem watchFire (tbl : Nat) (idx : Nat) : Statement (.watchFire tbl idx) := .inl rfl
theorem budgetPeriodEnd (tbl : Nat) (idx : Nat) : Statement (.budgetPeriodEnd tbl idx) := .inl rfl
theorem waggleMessage : Statement .waggleMessage := .inl rfl
theorem consumerTakePacket (n : Fin 18) (i : Fin 16) : Statement (.consumerTakePacket n i) := .inl rfl
theorem hubCopy (n : Fin 16) : Statement (.hubCopy n) := .inl rfl
theorem hubFill (n : Fin 16) : Statement (.hubFill n) := .inl rfl
theorem hubCopy2d (n : Fin 16) : Statement (.hubCopy2d n) := .inl rfl
theorem hubPacketDone (n : Fin 16) : Statement (.hubPacketDone n) := .inl rfl
theorem submit : Statement .submit := .inl rfl
theorem shotPacket (n : Fin 4) : Statement (.shotPacket n) := .inl rfl
theorem shotEnd (n : Fin 4) : Statement (.shotEnd n) := .inl rfl
theorem maskPacket (n : Fin 4) : Statement (.maskPacket n) := .inl rfl
theorem maskWritten (n : Fin 4) : Statement (.maskWritten n) := .inl rfl
theorem calPacket (n : Fin 4) : Statement (.calPacket n) := .inl rfl
theorem calWritten (n : Fin 4) : Statement (.calWritten n) := .inl rfl
theorem measurementStart (n : Fin 4) : Statement (.measurementStart n) := .inl rfl
theorem measurementEnd (n : Fin 4) (profile : List Byte) : Statement (.measurementEnd n profile) := .inl rfl
theorem calAgeExpiry (n : Fin 4) : Statement (.calAgeExpiry n) := .inl rfl
theorem calTemperatureMove (n : Fin 4) (t : BitVec 16) : Statement (.calTemperatureMove n t) := .inl rfl
theorem engineStop (x : CtxId) (e : Eng) : Statement (.engineStop x e) := .inl rfl
theorem trapEntry (x : CtxId) : Statement (.trapEntry x) := .inl rfl
theorem boundExpiry (x : CtxId) (e : Eng) : Statement (.boundExpiry x e) := .inl rfl
theorem deadlockDetection (x : CtxId) : Statement (.deadlockDetection x) := .inl rfl
theorem hangWatchdogExpiry (x : CtxId) : Statement (.hangWatchdogExpiry x) := .inl rfl
theorem refreshIntervalExpiry (b : Fin 4) : Statement (.refreshIntervalExpiry b) := .inl rfl
theorem ackDeadlineExpiry (x : CtxId) : Statement (.ackDeadlineExpiry x) := .inl rfl
theorem mapChange (c : MapChange) : Statement (.mapChange c) := .inl rfl
theorem elevatorRetirement (k : BitVec 7) : Statement (.elevatorRetirement k) := .inl rfl
theorem timingRepeat (x : CtxId) (e : Eng) (persists : Bool) : Statement (.timingRepeat x e persists) := .inl rfl
theorem timingWindow : Statement .timingWindow := .inl rfl
theorem patrolScrub (pa : BitVec 52) (err : EccErr) : Statement (.patrolScrub pa err) := .inl rfl
theorem powerOn : Statement .powerOn := .inl rfl
theorem bootCoreDecision (c : BitVec 9) (doneA doneB : BitVec 52) : Statement (.bootCoreDecision c doneA doneB) := .inl rfl
theorem extcmdWrite (who : Agent) (v : Word) : Statement (.extcmdWrite who v) := .inl rfl
theorem attreqWrite (who : Agent) (v : Word) : Statement (.attreqWrite who v) := .inl rfl
theorem ownWrite (who : Agent) (v : Word) : Statement (.ownWrite who v) := .inl rfl
theorem hofferWrite (who : Agent) (v : Word) : Statement (.hofferWrite who v) := .inl rfl
theorem hostirqWrite (who : Agent) (v : Word) : Statement (.hostirqWrite who v) := .inl rfl
theorem qcbWrite (who : Agent) (n : Fin 18) (i : Fin 16) (v : Word) : Statement (.qcbWrite who n i v) := .inl rfl
theorem blkwWrite (who : Agent) (off : BitVec 28) (v : Word) : Statement (.blkwWrite who off v) := .inl rfl
theorem blockWorldTakeEffect (b : WorldBlock) : Statement (.blockWorldTakeEffect b) := .inl rfl
theorem qbaseWrite (x : CtxId) (e : Eng) (v : Word) : Statement (.qbaseWrite x e v) := .inl rfl
theorem tvecWrite (x : CtxId) (v : Word) : Statement (.tvecWrite x v) := .inl rfl
theorem ndmanWrite (x : CtxId) (v : Word) : Statement (.ndmanWrite x v) := .inl rfl
theorem wmDisarmWrite (x : CtxId) (c : Fin 8) : Statement (.wmDisarmWrite x c) := .inl rfl
theorem registerWrite (who : Agent) (off : BitVec 28) (v : Word) : Statement (.registerWrite who off v) := .inl rfl
theorem stopreqGo (who : Agent) (lid : BitVec 16) : Statement (.stopreqGo who lid) := .inl rfl
theorem stopreqResume (who : Agent) : Statement (.stopreqResume who) := .inl rfl
theorem hctlClr (who : Agent) : Statement (.hctlClr who) := .inl rfl
theorem triggerEvent (sc : Fin 16) (ev : BitVec 3) (val : BitVec 16) : Statement (.triggerEvent sc ev val) := .inl rfl
theorem patchGo (who : Agent) : Statement (.patchGo who) := .inl rfl
theorem patchDone : Statement .patchDone := .inl rfl
theorem scanDrainEnd (c : BitVec 9) : Statement (.scanDrainEnd c) := .inl rfl
theorem scanRunEnd (c : BitVec 9) (sig : Word) : Statement (.scanRunEnd c sig) := .inl rfl
theorem rootPortDeviceRequest (i : Fin 4) (va : VAddr) (lsize : Fin 4) (op : AccessOp) : Statement (.rootPortDeviceRequest i va lsize op) := .inl rfl
theorem linkTrained (l : Fin 12) : Statement (.linkTrained l) := .inl rfl
theorem coreStopWithoutSave (c : BitVec 9) : Statement (.coreStopWithoutSave c) := .inl rfl
theorem hbmStackFailure (g : Fin 8) : Statement (.hbmStackFailure g) := .inl rfl
theorem cbarRendezvous (lid : BitVec 16) : Statement (.cbarRendezvous lid) := .inl rfl
theorem bankFreeingDone (bank : BitVec 5) : Statement (.bankFreeingDone bank) := .inl rfl
theorem collChunkReceive (x : CtxId) (chunk : List Byte) : Statement (.collChunkReceive x chunk) := .inl rfl
theorem collAbortFlit (x : CtxId) (l : Fin 12) : Statement (.collAbortFlit x l) := .inl rfl

end Sys2Proof.Laws.Words
end

