-- ==== Sys2Proof/Tests/Slice0.lean ====
section
/-! SUPPORT. Tests: ill-formed terms that are refused, words of the spec that decode, small checks of single steps against
values worked out from the spec, and for each statement states and operands that meet its hypotheses. -/
namespace Sys2Proof.Tests

open Sys2Proof Sys2Proof.Machine Sys2Proof.Bits

-- One proof at a time: each evaluates in the kernel, and many at once would each hold a thread.
set_option Elab.async false

/-! ### Helpers -/

/-- The machine after reset. -/
def r0 : State := State.reset

/-- `s` with some scalar registers of the issuing context set. -/
def setRegs (s : State) (l : List (BitVec 6 × Word)) : State := l.foldl (fun s e => s.setReg e.1 e.2) s

/-- `s` with context 0 changed. -/
def ctx0 (s : State) (f : Ctx → Ctx) : State := s.modCx 0 f

/-- An `Except` is a given success. -/
def isOk {α : Type} [DecidableEq α] (e : Except Flt α) (a : α) : Bool := match e with | .ok b => decide (b = a) | .error _ => false

theorem of_isOk {α : Type} [DecidableEq α] {e : Except Flt α} {a : α} (h : isOk e a = true) : e = .ok a := by
  unfold isOk at h
  split at h
  · exact congrArg _ (of_decide_eq_true h)
  · cases h

/-- An `Except` is a given fault. -/
def isErr {α : Type} (e : Except Flt α) (f : Flt) : Bool := match e with | .ok _ => false | .error g => decide (g = f)

theorem of_isErr {α : Type} {e : Except Flt α} {f : Flt} (h : isErr e f = true) : e = .error f := by
  unfold isErr at h
  split at h
  · cases h
  · exact congrArg _ (of_decide_eq_true h)

/-- A step ends in a next state that meets a test. -/
def gives (o : Host.Outcome State Fault Refusal) (p : State → Bool) : Bool := match o with | .next s => p s | _ => false

/-! ### Witnesses: integer instructions, predicates, transfers, loops -/

theorem witness_IntegerRowsWriteTheirResult : Ready r0 1 [0, 62, 63] [] ∧ Ready r0 1 [1, 1] [] ∧ Ready r0 1 [63] [] ∧
    Ready r0 2 [0] [] ∧ Ready r0 2 [63, 0] [] :=
  ⟨⟨by decide +kernel, by decide +kernel⟩, ⟨by decide +kernel, by decide +kernel⟩, ⟨by decide +kernel, by decide +kernel⟩,
   ⟨by decide +kernel, by decide +kernel⟩, ⟨by decide +kernel, by decide +kernel⟩⟩

/-- s1 = −2^63, s2 = −1. -/
def divState : State := setRegs r0 [(1, 0x8000000000000000), (2, BitVec.allOnes 64)]

theorem witness_DivisionsWithCorners : Ready divState 1 [3, 1, 2] [] ∧ divState.reg 0 = 0 ∧
    divState.reg 1 = 0x8000000000000000 ∧ divState.reg 2 = BitVec.allOnes 64 :=
  ⟨⟨by decide +kernel, by decide +kernel⟩, by decide +kernel⟩

theorem witness_ComparesWriteAPredicate : 11 < (12 : BitVec 4).toNat ∧ 3 < (4 : BitVec 4).toNat ∧ (11 : BitVec 4).toNat ≤ 11 ∧ (3 : BitVec 4).toNat ≤ 3 ∧ Ready divState 1 [1, 2] [31] ∧
    Ready divState 1 [1] [0] :=
  ⟨by decide, by decide, by decide, by decide, ⟨by decide +kernel, by decide +kernel⟩, ⟨by decide +kernel, by decide +kernel⟩⟩

theorem witness_PredicateInstructions : Ready r0 1 [] [1, 0, 31] ∧ Ready r0 1 [1] [31] ∧ Ready r0 1 [1, 2, 3] [5] ∧
    (∀ p, p ∈ preds) ∧ Ready r0 1 [1] preds :=
  ⟨⟨by decide +kernel, by decide +kernel⟩, ⟨by decide +kernel, by decide +kernel⟩, ⟨by decide +kernel, by decide +kernel⟩,
   by decide +kernel, ⟨by decide +kernel, by decide +kernel⟩⟩

theorem witness_HardwiredRegisters : (63 : BitVec 6) ≠ 0 ∧ (31 : BitVec 5) ≠ 0 ∧ (7 : BitVec 3) ≠ 0 := by decide

/-- A plain load into s1 that is not performed. -/
def pendingLoad : Acc :=
  { id := 0, op := .read, va := 0x1000, pa := 0x1000, home := .slice 0, lsize := 3, vol := false, world := false, dest := some 1, sext := false, row := none,
    left := false, ord := 0, sent := false, done := false, val := 0, due := none, post := false, held := false, pc := 0, test := none }

/-- s1 is pending. -/
def pendState : State := ctx0 r0 fun c => { c with acc := [pendingLoad], nextAcc := 1 }

theorem witness_PendingOperandsHoldTheInstruction : hazard pendState [2, 1, 3] [] = true ∧ hazard pendState [2, 1] [] = true ∧
    hazard pendState [1, 2] [5] = true ∧ hazard pendState [1] [] = true := by decide +kernel

theorem witness_IntegerInstructionsFrame : Ready r0 1 [1, 2, 3] [4] ∧ Ready r0 2 [1, 2] [] ∧ Ready r0 1 [2] [1, 2, 3] ∧
    gives (exec (.add 1 2 3) r0) (fun _ => true) = true ∧ gives (exec (.li 1 5) r0) (fun _ => true) = true ∧
    gives (exec (.pand 1 2 3) r0) (fun _ => true) = true :=
  ⟨⟨by decide +kernel, by decide +kernel⟩, ⟨by decide +kernel, by decide +kernel⟩, ⟨by decide +kernel, by decide +kernel⟩,
   by decide +kernel, by decide +kernel, by decide +kernel⟩

/-- A code line of NOPs at 0x40000000 (R132, R133), its words marked by `h`, identity mapped; context 0 is at word 0. -/
def codeState (h : Word) : State :=
  let s := State.reset.placeCode 0 0
  { s with mem := memWrite s.mem placeLine (toBytes h 8), core := { s.core with cur := 0 } }

/-- Every word a branch target and an instruction. -/
def openLine : State := codeState 0x3FFFFFFF3FFFFFFF

theorem witness_TransfersOfControl : hazard openLine [63, 5] [0] = false ∧ hazard openLine [] [0] = false ∧
    openLine.pred 0 ≠ (0#1 == 1) ∧ targetCheck openLine 0 (slotAdd (curPc openLine) ((29 : BitVec 20).toInt)) = none ∧
    (Ready openLine 1 [] [3] ∧ Ready openLine 1 [63] [3] ∧ openLine.pred 3 = (0#1 == 1)) ∧
    (let s := setRegs openLine [(5, 0x4000000C)]
     targetCheck s 0 ((s.reg 5).setWidth 56) = none ∧ hazard s [5] [] = false ∧ hazard s [5, 5] [] = false) := by
  refine ⟨by decide +kernel, by decide +kernel, by decide +kernel, by decide +kernel, ⟨⟨?_, ?_⟩, ⟨?_, ?_⟩, ?_⟩, ?_⟩ <;> decide +kernel

/-- s5 holds the address of word 1 of a line whose word 1 is no target; s6 a header's address; s7 word 2, no instruction. -/
def closedLine : State := setRegs (codeState 0x3FFFFFFD3FFFFFFB) [(5, 0x4000000C), (6, 0x40000004), (7, 0x40000010)]

theorem witness_ArrivalTest : hazard closedLine [1, 5] [] = false ∧ hazard closedLine [5] [] = false ∧
    targetCheck closedLine 0 ((closedLine.reg 5).setWidth 56) = some ⟨0x03, 1#8 ++ 0x4000000C#56⟩ ∧
    targetCheck closedLine 0 ((closedLine.reg 6).setWidth 56) = some ⟨0x03, 3#8 ++ 0x40000004#56⟩ ∧
    targetCheck closedLine 0 ((closedLine.reg 7).setWidth 56) = some ⟨0x03, 2#8 ++ 0x40000010#56⟩ ∧
    (((closedLine.reg 6).setWidth 56 : BitVec 56).toNat % 4 ≠ 0 ∨ ((closedLine.reg 6).setWidth 56 : BitVec 56).toNat % 128 < 8) ∧
    (match fetchLine closedLine 0 0x4000000C with | .ok (p, l) => decide (p = 0x40000000) && !l.getLsbD 62 && !l.getLsbD 63 | .error _ => false) = true := by
  refine ⟨?_, ?_, ?_, ?_, ?_, ?_, ?_⟩ <;> decide +kernel

/-- Both hardware loops are active and end at the PC; level 0 has `m`, level 1 `n` rounds left. -/
def loopState (m n : BitVec 32) : State :=
  ctx0 openLine fun c => { c with loops := ⟨#[⟨true, m, 0x40000008, 0x40000008⟩, ⟨true, n, 0x40000008, 0x40000008⟩], rfl⟩ }

/-- The start of level 0 is no branch target. -/
def badLoop : State := ctx0 closedLine fun c => { c with loops := ⟨#[⟨true, 2, 0x4000000C, 0x40000008⟩, .reset], rfl⟩ }

theorem witness_HardwareLoops :
    (let c := (loopState 2 3).cx 0
     (c.loops.get 0).act = true ∧ (c.loops.get 0).fin = c.pc ∧ (c.loops.get 0).count ≠ 1 ∧ (c.loops.get 1).act = true ∧
       (c.loops.get 1).fin = c.pc ∧ (c.loops.get 1).count ≠ 1) ∧
    (let c := (loopState 1 1).cx 0
     (c.loops.get 0).count = 1 ∧ (c.loops.get 1).count = 1 ∧ (c.loops.get 0).fin ≠ 0x4000000C) ∧
    endFault openLine 1 = none ∧ endFault badLoop 1 = some ⟨0x03, 1#8 ++ 0x4000000C#56⟩ ∧ hazard badLoop [1, 2, 3] [] = false ∧
    (let s := setRegs openLine [(5, 7)]
     hazard s [5] [] = false ∧ hazard s [6] [] = false ∧ isOk (startsInstr s (slotAdd (curPc s) 3)) (true, 1) = true ∧
       min (s.reg 6).toNat (2 ^ 32 - 1) = 0 ∧ min (s.reg 5).toNat (2 ^ 32 - 1) ≠ 0 ∧
       nestOk (issuer s) 0 (slotAdd (curPc s) 3) = true) ∧
    (let s := setRegs (loopState 1 1) [(5, 7)]
     isOk (startsInstr s (slotAdd (curPc s) 3)) (true, 1) = true ∧ nestOk (issuer s) 0 (slotAdd (curPc s) 3) = false) ∧
    isOk (startsInstr closedLine (slotAdd (curPc closedLine) 2)) (false, 1) = true := by
  refine ⟨?_, ?_, ?_, ?_, ?_, ?_, ?_, ?_⟩ <;> decide +kernel


/-! ### Witnesses: loads, stores, atomics -/

/-- The success of an `Except`. -/
def okOf {α : Type} (e : Except Flt α) (d : α) : α := match e with | .ok a => a | .error _ => d

theorem ok_okOf {α : Type} {e : Except Flt α} {d : α} (h : e.isOk = true) : e = .ok (okOf e d) := by
  cases e with
  | ok a => rfl
  | error f => cases h

/-- No translation. -/
def noTr : Tr := ⟨0, 0, 0⟩

/-- s1 holds an address of the mapped page, s2 a value, s3 an odd number, s4 8. -/
def memState : State := setRegs openLine [(1, 0x40001000), (2, 0x8877665544332211), (3, 3), (4, 8)]

/-- The translation of an access of kind `k` and log-size `n` at 0x40001008. -/
def tr8 (k n : Nat) : Tr := okOf (accCheck memState k n 0x40001008) noTr

theorem tr8_ok (k n : Nat) (hk : k < 4) (hn : n < 4) (h0 : k ≠ 0) : accCheck memState k n 0x40001008 = .ok (tr8 k n) := by
  apply ok_okOf
  have : ∀ k : Fin 4, ∀ n : Fin 4, k ≠ 0 → (accCheck memState k.val n.val 0x40001008).isOk = true := by decide +kernel
  exact this ⟨k, hk⟩ ⟨n, hn⟩ (fun e => h0 (congrArg Fin.val e))

/-- Another context has 2048 requests outstanding (R21). -/
def fullState : State := memState.modCx 3 fun c => { c with acc := List.replicate 2048 pendingLoad }

theorem witness_LoadsEnterTheLoadQueue : Ready memState 1 [5, 4, 1] [] ∧
    ((memState.reg 1 + BitVec.ofInt 64 ((1 : BitVec 14).toInt * 2 ^ 3)).setWidth 56 = 0x40001008#56) ∧
    ((memState.reg 4 + memState.reg 1).setWidth 56 = 0x40001008#56) ∧ accCheck memState 1 3 0x40001008 = .ok (tr8 1 3) ∧
    wmStall (issuer memState) 0x40001008 8 = false ∧ ndHold memState (tr8 1 3).pa.toNat = false ∧ accFull memState = false ∧
    accFull fullState = true :=
  ⟨⟨by decide +kernel, by decide +kernel⟩, by decide +kernel, by decide +kernel, tr8_ok 1 3 (by decide) (by decide) (by decide),
   by decide +kernel, by decide +kernel, by decide +kernel, by decide +kernel⟩

theorem witness_StoresEnterTheStoreQueue : Ready memState 1 [2, 4, 1] [] ∧ accCheck memState 2 3 0x40001008 = .ok (tr8 2 3) ∧
    chainHit (issuer memState) 0x40001008 8 = false ∧ wmForbids (issuer memState) 0x40001008 8 = false ∧
    ndHold memState (tr8 2 3).pa.toNat = false ∧ dwAll memState (tr8 2 3).pa.toNat 8 false = [] ∧
    dwStops memState (tr8 2 3).pa.toNat 8 false = false :=
  ⟨⟨by decide +kernel, by decide +kernel⟩, tr8_ok 2 3 (by decide) (by decide) (by decide), by decide +kernel, by decide +kernel,
   by decide +kernel, by decide +kernel, by decide +kernel⟩

/-- s1 holds 0x40001008. -/
def atomState : State := setRegs memState [(1, 0x40001008)]

theorem witness_AtomicsEnterTheirQueue : Ready atomState 1 [5, 1, 2] [] ∧
    (accCheck atomState 3 3 ((atomState.reg 1).setWidth 56)).isOk = true ∧
    (accCheck atomState 3 2 ((atomState.reg 1).setWidth 56)).isOk = true ∧ chainHit (issuer atomState) 0x40001008 8 = false ∧
    ndHold atomState 0x40001008 = false :=
  ⟨⟨by decide +kernel, by decide +kernel⟩, by decide +kernel, by decide +kernel, by decide +kernel, by decide +kernel⟩

theorem witness_MisalignedAccessesTrap : hazard memState [5, 3, 1] [] = false ∧
    ((memState.reg 3 + memState.reg 1).setWidth 56 : VAddr).toNat % 2 ≠ 0 ∧ ((memState.reg 3).setWidth 56 : VAddr).toNat % 4 ≠ 0 ∧
    inPins (issuer memState) ((memState.reg 3 + memState.reg 1).setWidth 56) = none := by decide +kernel

theorem witness_AccessInstructionsFrame : Ready memState 1 [2, 4, 1] [] ∧
    gives (exec (.std 2 1 1) memState) (fun t => (t.cx 0).nextAcc == (memState.cx 0).nextAcc + 1) = true ∧
    (∀ k < 16, (ctl memState (oDwp k)).getLsbD 0 = false) :=
  ⟨⟨by decide +kernel, by decide +kernel⟩, by decide +kernel, by decide +kernel⟩

/-- A context without a task takes no section action. -/
theorem section_free {s : State} {x : CtxId} (h : actsFor s x = none) (a : Nat) : sectionFor s x a = (s, true) := by
  simp only [sectionFor, h]

/-- Context 1 has one access, number 7, of operation `op`: 4 bytes at 0x50000004. -/
def accState (op : AccessOp) : State :=
  { r0.modCx 1 fun c => { c with acc := [{ pendingLoad with id := 7, op := op, pa := 0x50000004, home := homeOf r0 0x50000004, lsize := 2, sext := true, dest := some 5 }] } with
    mem := [(0x50000007, 0x80)] }

theorem witness_StorePerformedWritesItsBytes : let s := accState (.write 0x1122334455667788)
    let a := ((s.cx 1).acc.find? (·.id == 7)).getD pendingLoad
    (s.cx 1).acc.find? (·.id == 7) = some a ∧ a.op = .write 0x1122334455667788 ∧ mayPerform (s.cx 1) a = true ∧
    (let c := (s.cx 1).leave (leavers (s.cx 1) a)
     sectionFor (s.setCx 1 c) 1 a.pa.toNat = (s.setCx 1 c, true)) ∧ portOf a.home = none ∧ rowOf a.pa.toNat = .hbm 0 := by
  refine ⟨?_, ?_, ?_, section_free ?_ _, ?_, ?_⟩ <;> decide +kernel

theorem witness_AtomicPerformedIsIndivisible : let s := accState (.atomic .max 5 0)
    let a := ((s.cx 1).acc.find? (·.id == 7)).getD pendingLoad
    (s.cx 1).acc.find? (·.id == 7) = some a ∧ a.op = .atomic .max 5 0 ∧ mayPerform (s.cx 1) a = true ∧
    (let c := (s.cx 1).leave (leavers (s.cx 1) a)
     sectionFor (s.setCx 1 c) 1 a.pa.toNat = (s.setCx 1 c, true)) ∧ poisoned s a.pa.toNat a.size = false ∧ rowOf a.pa.toNat = .hbm 0 ∧
    dwAll s a.pa.toNat a.size true = [] := by
  refine ⟨?_, ?_, ?_, section_free ?_ _, ?_, ?_, ?_⟩ <;> decide +kernel

theorem witness_LoadPerformsThenLands : let s := accState .read
    let a := ((s.cx 1).acc.find? (·.id == 7)).getD pendingLoad
    let u := s.modCx 1 fun c => c.modAcc 7 fun a => { a with done := true, val := 0x80000000 }
    let b := ((u.cx 1).acc.find? (·.id == 7)).getD pendingLoad
    (s.cx 1).acc.find? (·.id == 7) = some a ∧ a.op = .read ∧ mayPerform (s.cx 1) a = true ∧
    clear (s.cx 1) a = true ∧ poisoned s a.pa.toNat a.size = false ∧
    (let c := (s.cx 1).leave (leavers (s.cx 1) a)
     sectionFor (s.setCx 1 c) 1 a.pa.toNat = (s.setCx 1 c, true) ∧ forwarded (before c.acc a.id) a = none) ∧ rowOf a.pa.toNat = .hbm 0 ∧
    b.dest = some 5 ∧ b.test = none ∧ b.done = true ∧ b.due = none ∧
    (let z := s.modCx 1 fun c => { c with acc := { pendingLoad with id := 6, op := .write 5, pa := 0x50000004, dest := none } :: c.acc }
     (z.cx 1).acc.find? (·.id == 7) = some a ∧ mayPerform (z.cx 1) a = true ∧ clear (z.cx 1) a = false ∧
     sectionFor z 1 a.pa.toNat = (z, true) ∧ forwarded (before (z.cx 1).acc a.id) a = some 5) := by
  refine ⟨?_, ?_, ?_, ?_, ?_, ⟨section_free ?_ _, ?_⟩, ?_, ?_, ?_, ?_, ?_, ?_, ?_, ?_, section_free ?_ _, ?_⟩ <;> decide +kernel

/-- A page of 2 MiB at 0x80000000 that maps the near DRAM of column 0. -/
def ndPage : State :=
  { openLine with mem := memWrite (memWrite openLine.mem 0x20010 (toBytes 0x30003#64 8)) 0x30000 (toBytes 0x02000000001D#64 8) }

/-- Bank 1 of the core's quarter is manual for context 0, with row `r` open; s1 holds an address of row 1 of it; the stroke is
1000. -/
def ndState (r : Option (BitVec 13)) : State :=
  let s := setRegs ndPage [(1, 0x80002800)]
  { s with pkg := { s.pkg with stroke := 1000 },
           core := { s.core with nd := s.core.nd.set 1 { s.core.nd.get 1 with holder := some 0, row := r } } }

/-- memState with an access that has left its queue but is not performed, and one on its way to root port 2. -/
def leftState : State := ctx0 memState fun c => { c with acc := [{ pendingLoad with pa := 0x50000000, va := 0x50000000, left := true },
  { pendingLoad with id := 1, op := .write 5, home := .root 2, dest := none, left := true, sent := true }] }

/-- memState with a write of root port 2 on its way. -/
def sentState (z : BitVec 4) : State := ctx0 memState fun c => { c with rootW := 4, zlr := z, acc := [{ pendingLoad with
  op := .write 5, pa := 0x50000000, va := 0x50000000, home := .root 2, dest := none, left := true, sent := true }] }

theorem witness_MarkAndNearDramCommands : endFault leftState 1 = none ∧
    (issuer leftState).acc.any (fun a => !a.done && !a.sent && inScope leftState 4 a.home) = true ∧
    canLeave (issuer memState) = true ∧ canLeave (issuer leftState) = true ∧
    (∀ z ∈ [(0 : BitVec 4), 4], endFault (sentState z) 1 = none ∧ canLeave (issuer (sentState z)) = true ∧ (issuer (sentState z)).rootW ≠ 0 ∧
      ∀ a ∈ (issuer (sentState z)).acc, inScope (sentState z) 5 a.home = true ∧ a.sent = true) ∧ Ready (ndState none) 1 [1] [] ∧
    (∀ r ∈ [none, some 1, some 0x1FFF], isOk (ndTarget (ndState r) 1) (1, 1) = true ∧ bankBusy (ndState r) 1 = false ∧
      (ndBank (ndState r) 1).busy.toNat ≤ 1000 ∧ (ndBank (ndState r) 1).row = r ∧ (ndBank (ndState r) 1).preAt.toNat + 12 ≤ 1000 ∧
      (ndBank (ndState r) 1).actAt.toNat + 32 ≤ 1000) := by
  refine ⟨?_, ?_, ?_, ?_, ?_, ⟨?_, ?_⟩, List.forall_mem_cons.2 ⟨⟨?_, ?_, ?_, ?_, ?_, ?_⟩, List.forall_mem_cons.2
    ⟨⟨?_, ?_, ?_, ?_, ?_, ?_⟩, List.forall_mem_cons.2 ⟨⟨?_, ?_, ?_, ?_, ?_, ?_⟩, List.forall_mem_nil _⟩⟩⟩⟩ <;> decide +kernel


/-! ### Witnesses: tokens, counters, chains, watches, comb, banks -/

/-- An address of no vault is in no section. -/
theorem own_of_none {s : State} {x : CtxId} {a : Nat} (h : sectionOf a = none) : OwnSection s x a := by
  intro n l hn _
  rw [h] at hn
  cases hn

/-- An address of an HBM stack is memory. -/
theorem mem_of_hbm {a g : Nat} (h : rowOf a = .hbm g) : InMemory a := by
  refine ⟨?_, ?_, ?_⟩ <;> simp [h]

/-- The parts of `CanRead` at an address of an HBM stack, as one test. -/
def readOk (s : State) (va : VAddr) (k : Nat) : Bool :=
  match accCheck s 1 k va with
  | .error _ => false
  | .ok t => !readWaits s va t (2 ^ k) && !ndHold s t.pa.toNat && (sectionOf t.pa.toNat).isNone && (poisonAt s t.pa.toNat (2 ^ k)).isNone &&
      decide (rowOf t.pa.toNat = .hbm 0)

theorem can_read {s : State} {va : VAddr} {k : Nat} (h : readOk s va k = true) : ∃ t, CanRead s va t k := by
  unfold readOk at h
  split at h
  · cases h
  · rename_i t ht
    simp only [Bool.and_eq_true, Bool.not_eq_true', Option.isNone_iff_eq_none, decide_eq_true_eq] at h
    exact ⟨t, ht, h.1.1.1.1, h.1.1.1.2, own_of_none h.1.1.2, h.1.2, mem_of_hbm h.2⟩

/-- The parts of `CanAppend`, for a ring in an HBM stack, as one test. -/
def appendOk (s : State) (e : Eng) : Bool :=
  let q := s.eq s.core.cur e
  let va := ringAddr q q.qtail
  match accCheck s 2 3 va with
  | .error _ => false
  | .ok t => !slotBusy q (nextSlot q.qtail) && !accWaits (issuer s) (newAcc s (.write 0) va t 3 false) 64 &&
      (sectionOf t.pa.toNat).isNone && decide (dwAll s t.pa.toNat 64 false = []) && (issuer s).passed.isNone

theorem can_append {s : State} {e : Eng} (h : appendOk s e = true) : ∃ t, CanAppend s e t := by
  simp only [appendOk] at h
  split at h
  · cases h
  · rename_i t ht
    simp only [Bool.and_eq_true, Bool.not_eq_true', Option.isNone_iff_eq_none, decide_eq_true_eq] at h
    exact ⟨t, ht, h.1.1.1.1, h.1.1.1.2, own_of_none h.1.1.2, h.1.2, h.2⟩

/-- TQ[1,0] holds one token, TQ[0,6] fifteen. -/
def tokState : State := ctx0 openLine fun c => (c.setTokens 1 0 1).setTokens 0 6 15

theorem witness_TokenInstructions : endFault tokState 1 = none ∧ (issuer tokState).tokens 1 0 ≠ 0 ∧ (issuer tokState).tokens 6 0 = 0 ∧
    (issuer tokState).tokens 0 1 < 15 ∧ (issuer tokState).tokens 0 6 = 15 ∧ (∀ x ∈ (issuer tokState).acc, x.done = true) ∧
    Ready tokState 1 [1] [] ∧ (6 : BitVec 6).toNat ≤ 6 ∧ (0 : BitVec 6) ≠ 6 ∧ 7 ≤ (7 : BitVec 6).toNat := by
  refine ⟨?_, ?_, ?_, ?_, ?_, ?_, ⟨?_, ?_⟩, ?_⟩ <;> decide +kernel

theorem witness_SequenceCounters : Ready atomState 1 [1, 2] [] ∧ (accCheck atomState 3 3 ((atomState.reg 1).setWidth 56)).isOk = true ∧
    chainHit (issuer atomState) 0x40001008 8 = false ∧ ndHold atomState 0x40001008 = false ∧ Ready atomState 1 [1, 2] [31] ∧
    (accCheck atomState 1 3 ((atomState.reg 1).setWidth 56)).isOk = true ∧ readOk atomState ((atomState.reg 1).setWidth 56) 3 = true ∧
    (atomState.reg 0).toNat ≤ (readMem atomState 0x40001008 8).toNat ∧ (readMem atomState 0x40001008 8).toNat < (atomState.reg 2).toNat ∧
    accFull atomState = false ∧ ∃ t, CanRead atomState ((atomState.reg 1).setWidth 56) t 3 := by
  refine ⟨⟨?_, ?_⟩, ?_, ?_, ?_, ⟨?_, ?_⟩, ?_, ?_, ?_, ?_, ?_, can_read ?_⟩ <;> decide +kernel

/-- Every queue has its ring at 0x40004000; watermark channel 1 is armed and full, channel 7 armed and not full. -/
def qState : State := ctx0 memState fun c => { c with
  q := c.q.map fun q => { q with qbase := 0x40004000, qhead := 0x40004000 }
  wm := (c.wm.set 1 0x8000000000002000).set 7 0x8000000000001000
  wmlim := (c.wmlim.set 1 0x2000).set 7 0x2000 }

theorem witness_ChainAndWatermarkInstructions : Ready qState 1 [1, 4] [] ∧ (qState.reg 1).toNat % 64 = 0 ∧ 1 ≤ (qState.reg 4).toNat ∧
    (qState.reg 4).toNat ≤ 65535 ∧ appendOk qState .cpe = true ∧ (∃ t, CanAppend qState .cpe t) ∧
    (let w := fun (i : Nat) => (issuer qState).wm.toList.getD i 0
     (w 0).getLsbD 63 = false ∧ (w 7).getLsbD 63 = true ∧ (w 7).toNat % 2 ^ 56 = 0x1000 ∧ (qState.reg 1).toNat > 0x1000 ∧
     (qState.reg 4).toNat ≤ 0x1000 ∧ (w 1).getLsbD 63 = true ∧ (w 1).toNat % 2 ^ 56 = 0x2000) := by
  refine ⟨⟨?_, ?_⟩, ?_, ?_, ?_, ?_, can_append ?_, ?_⟩ <;> decide +kernel

/-- A page of 2 MiB at 0x80200000 maps the vault of column 0; a watch descriptor at s1 names 64 bytes of it. -/
def watchState : State :=
  let s := setRegs ndPage [(1, 0x40001000), (2, 0x8877665544332211)]
  let d := toBytes 0x80200000#64 8 ++ [6, 0, 0, 0, 0, 0, 0, 0] ++ List.replicate 8 0 ++ toBytes 0x80#64 8
  { s with mem := memWrite (memWrite s.mem 0x30008 (toBytes 0x01000000001D#64 8)) 0x40001000 d }

/-- Entry `i` of the watch table of column 0, with `n` launches in progress. -/
def watchEnt (i n : Nat) : Watch := { newWatch r0 (r0.cx 0) [] 16 i 0x10000000000 with live := n }

/-- Its watch table is full. -/
def fullWatch : State := watchState.modPkg fun p => { p with watch := (List.range 64).map fun i => watchEnt i 0 }

/-- s3 to s5 hold the handles of entries 0, 1 and 63; the first has a launch in progress, the second is PENDING. -/
def armedWatch : State := setRegs (watchState.modPkg fun p =>
  { p with watch := [watchEnt 0 1, { watchEnt 1 0 with state := 2, cnt := 70000 }] }) [(3, 0x100000), (4, 0x100001), (5, 0x10003F)]

theorem witness_WatchInstructions : readOk watchState ((watchState.reg 1).setWidth 56) 6 = true ∧ Ready watchState 1 [3, 1] [] ∧
    (let u := fun (s : State) => readFill s ((watchState.reg 1).setWidth 56) (okOf (accCheck s 1 6 ((watchState.reg 1).setWidth 56)) noTr)
     isOk (watchRange (u watchState) 0 (bytesAt watchState 0x40001000 64)) 0x010000000000 = true ∧
     freeEntry (u watchState) 16 = some 0 ∧ freeEntry (u fullWatch) 16 = none ∧ freeEntry (u armedWatch) 16 = some 2) ∧
    watchTable 0x010000000000 = some 16 ∧ Ready armedWatch 1 [3] [] ∧ Ready armedWatch 1 [2, 5] [] ∧
    (∀ a ∈ [(3 : BitVec 6), 4, 5], (armedWatch.reg a).toNat < 2 ^ 24 ∧
      (armedWatch.reg a).toNat % 2 ^ 16 < watchSize ((armedWatch.reg a).toNat / 2 ^ 16 % 2 ^ 8)) ∧
    (let h := (armedWatch.reg 2).toNat
     ¬ (h < 2 ^ 24 ∧ h % 2 ^ 16 < watchSize (h / 2 ^ 16 % 2 ^ 8))) := by
  refine ⟨?_, ⟨?_, ?_⟩, ?_, ?_, ⟨?_, ?_⟩, ⟨?_, ?_⟩, ?_, ?_⟩ <;> decide +kernel

/-- Every slot and bank that `p` names is held by context 1. -/
def heldState (p : Nat → Bool) : State := openLine.modCore fun k => { k with
  slots := Vector.ofFn fun i => if p i.val then { Slot.reset with state := 1, own := 1 } else Slot.reset
  banks := Vector.ofFn fun i => if p i.val then { Bank.reset with state := 1, alc := 1 } else Bank.reset }

/-- A slot that CLAIM may take. -/
def freeSlot (s : State) (i : Nat) : Bool := (s.slot (BitVec.ofNat 6 i)).state == 0 && !(heldSlots s).getLsbD i

theorem witness_ClaimsTakeTheLowestFreeSlots : Ready openLine 1 [3] [] ∧ freeSlot openLine 0 = true ∧
    (let s := heldState fun i => decide (i < 63)
     Ready s 1 [3] [] ∧ freeSlot s 63 = true ∧ (∀ j < 63, freeSlot s j = false) ∧ ∀ i < 32, ¬ (freeSlot s (2 * i) ∧ freeSlot s (2 * i + 1))) ∧
    (let s := heldState fun i => decide (i < 62)
     Ready s 1 [3] [] ∧ freeSlot s 62 = true ∧ freeSlot s 63 = true ∧ ∀ j < 31, ¬ (freeSlot s (2 * j) ∧ freeSlot s (2 * j + 1))) ∧
    (let s := heldState fun _ => true
     (∀ i < 64, freeSlot s i = false) ∧ hazard s [3] [] = false) := by
  refine ⟨⟨?_, ?_⟩, ?_, ⟨⟨?_, ?_⟩, ?_⟩, ⟨⟨?_, ?_⟩, ?_⟩, ?_⟩ <;> decide +kernel

/-- Slots 0 (CLAIMED), 2 and 3 (a pair, FILLING), 62 and 63 (READY and IN-USE) of context 0, slot 5 of context 1; s1 to s7 hold
0, 2, 3, 62, 63, 5 and 1. -/
def relState : State := (setRegs openLine [(1, 0), (2, 2), (3, 3), (4, 62), (5, 63), (6, 5), (7, 1)]).modCore fun k => { k with
  slots := ((((((k.slots.set 0 { Slot.reset with state := 1 }).set 2 { Slot.reset with state := 2, pair := true }).set 3
    { Slot.reset with state := 2, pair := true }).set 62 { Slot.reset with state := 3, tag := 1 }).set 63
    { Slot.reset with state := 4 }).set 5 { Slot.reset with state := 1, own := 1 }) }

theorem witness_SlotReleaseAndState :
    (∀ e ∈ [((1 : BitVec 6), (0 : BitVec 6)), (2, 2), (4, 62), (5, 63)], (relState.reg e.1).toNat = e.2.toNat ∧
      hazard relState [3, e.1] [] = false ∧ hazard relState [e.1] [] = false ∧ (relState.slot e.2).state ≠ 0 ∧ (relState.slot e.2).own = 0 ∧
      ((relState.slot e.2).pair = false ∨ e.2.getLsbD 0 = false)) ∧ endFault relState 1 = none ∧
    (relState.reg 3).toNat = 3 ∧ (relState.slot 3).pair = true ∧ (relState.slot 3).own = 0 ∧ (relState.slot 3).state ≠ 0 ∧
    hazard relState [3] [] = false ∧ (relState.slot 5).own ≠ 0 ∧ (relState.reg 6).toNat = 5 ∧ (relState.slot 1).state = 0 ∧
    (relState.reg 7).toNat = 1 := by
  refine ⟨List.forall_mem_cons.2 ⟨⟨?_, ?_, ?_, ?_, ?_, ?_⟩, List.forall_mem_cons.2 ⟨⟨?_, ?_, ?_, ?_, ?_, ?_⟩,
    List.forall_mem_cons.2 ⟨⟨?_, ?_, ?_, ?_, ?_, ?_⟩, List.forall_mem_cons.2 ⟨⟨?_, ?_, ?_, ?_, ?_, ?_⟩, List.forall_mem_nil _⟩⟩⟩⟩,
    ?_, ?_, ?_, ?_, ?_, ?_, ?_, ?_, ?_, ?_⟩ <;> decide +kernel

/-- A bank that ABANK may take. -/
def freeBank (s : State) (i : Nat) : Bool := (s.bank (BitVec.ofNat 5 i)).state == 0 && !(heldBanks s).getLsbD i

theorem witness_AbankTakesTheLowestFreeBank : Ready openLine 1 [3] [] ∧ freeBank openLine 0 = true ∧
    (let s := heldState fun i => decide (i < 31)
     Ready s 1 [3] [] ∧ freeBank s 31 = true ∧ ∀ j < 31, freeBank s j = false) ∧
    (let s := heldState fun _ => true
     (∀ i < 32, freeBank s i = false) ∧ hazard s [3] [] = false) := by
  refine ⟨⟨?_, ?_⟩, ?_, ⟨⟨?_, ?_⟩, ?_⟩, ?_⟩ <;> decide +kernel

/-- Banks 0 and 31 are allocated by context 0 and 30 is FREEING; s1 to s6 hold 0, 31, 63, 3, 30 and an odd word; vector register
20 is pending when `b`. -/
def bankState (b : Bool) : State :=
  let s := setRegs openLine [(1, 0), (2, 31), (3, 63), (4, 3), (5, 30), (6, 0x40490FDB)]
  let s := s.modCore fun k => { k with banks := ((k.banks.set 0 { Bank.reset with state := 1 }).set 31
    { Bank.reset with state := 1, tag := 1 }).set 30 { Bank.reset with state := 2, rel := Vector.replicate 2 true } }
  if b then s.setEq 0 .vxe { s.eq 0 .vxe with pend := [{ Pend.plain with vregs := 0x100000 }] } else s

theorem witness_BankOwnershipAndLending :
    (∀ a ∈ [(1 : BitVec 6), 2], hazard (bankState false) [a] [] = false ∧ ((bankState false).reg a).toNat < 32 ∧
      ((bankState false).bank (((bankState false).reg a).setWidth 5)).state = 1 ∧
      ((bankState false).bank (((bankState false).reg a).setWidth 5)).alc = 0 ∧ hazard (bankState false) [4, a] [] = false) ∧
    ((bankState false).bank 30).state = 2 ∧ ((bankState false).bank 30).alc = 0 ∧ endFault (bankState false) 1 = none ∧
    ((bankState false).reg 3).toNat < 64 ∧ ((bankState false).reg 4).toNat < 4 ∧ ((bankState false).bank 31).owns 0 1 = true ∧
    ((bankState false).bank 0).owns 0 0 = true ∧ (issuer (bankState false)).reading = false ∧ hazard (bankState false) [3, 4] [] = false ∧
    (∀ r : BitVec 5, 16 ≤ r.toNat → (issuer (bankState false)).vpend.getLsbD r.toNat = false) ∧
    (issuer (bankState true)).vpend.getLsbD 20 = true ∧ (issuer (bankState false)).vunknown = false ∧
    (let s := (bankState false).setEq 0 .vxe { (bankState false).eq 0 .vxe with pend := [{ Pend.plain with tbl := some 1 }, { Pend.plain with runs := some 1 }] }
     (issuer s).vunknown = true ∧ ∀ r : BitVec 5, (issuer s).vpend.getLsbD r.toNat = false) := by
  refine ⟨?_, ?_, ?_, ?_, ?_, ?_, ?_, ?_, ?_, ?_, ?_, ?_, ?_, ?_⟩ <;> decide +kernel

theorem witness_TagAndScaleInstructions : (∀ t ∈ [(0 : BitVec 6), 31, 32, 63, 33], tagWaits (issuer (bankState false)) t = false) ∧
    Ready (bankState false) 1 [6] [] ∧ ((bankState false).bank 31).state ≠ 0 ∧ mayReadTag ((bankState false).bank 31) 0 = true ∧
    mayWriteTag ((bankState false).bank 31) 0 = true ∧ ((bankState false).bank 1).state = 0 ∧
    (let tag : BitVec 16 := ((bankState false).reg 4).setWidth 16
     tag.toNat < 2 ^ 12 ∧ tag.toNat % 2 ^ 5 ≤ 14) ∧ hazard (bankState false) [6] [] = false ∧
    (let s := (bankState false).modCore fun k => { k with banks := k.banks.set 5 { Bank.reset with state := 1, alc := 1, own := Vector.replicate 2 1 } }
     mayWriteTag (s.bank 5) 0 = false ∧ (s.bank 5).state ≠ 0 ∧ tagWaits (issuer s) 37 = false ∧ hazard s [6] [] = false) ∧
    (let tag : BitVec 16 := ((bankState false).reg 6).setWidth 16
     ¬ (tag.toNat < 2 ^ 12 ∧ tag.toNat % 2 ^ 5 ≤ 14)) := by
  refine ⟨?_, ⟨?_, ?_⟩, ?_, ?_, ?_, ?_, ?_⟩ <;> decide +kernel

/-- s1 to s3 hold 7, 8 and an address. -/
def cbState : State := setRegs qState [(1, 7), (2, 8), (3, 0x40001000)]

theorem witness_CbldAppendsItsEntry : Ready cbState 1 [1, 3] [] ∧ (cbState.reg 1).toNat < 8 ∧ (∃ t, CanAppend cbState .mxe t) ∧
    hazard cbState [2, 3] [] = false ∧ ringFull cbState .mxe = false ∧ 8 ≤ (cbState.reg 2).toNat := by
  refine ⟨⟨?_, ?_⟩, ?_, can_append ?_, ?_, ?_, ?_⟩ <;> decide +kernel

theorem witness_CombAndBankFrame : Ready relState 1 [3, 1, 2] [] ∧
    (∀ i ∈ [Instr.claim 3, .rels 1, .slotst 3 1, .abank 3, .lend 4, .tagget 3 1], gives (exec i relState)
      (fun t => (t.cx 0).issue == (issuer relState).issue + 1) = true) ∧
    (∀ i ∈ [Instr.afree 1, .aband 3 4, .arelb 3, .abst 5 1, .retBank 7, .tagset 63 4, .tscset 63 4], gives (exec i (bankState false))
      (fun t => (t.cx 0).issue == (issuer (bankState false)).issue + 1) = true) ∧ Ready (bankState false) 1 [5, 3, 4] [] := by
  refine ⟨⟨?_, ?_⟩, ?_, ?_, ⟨?_, ?_⟩⟩ <;> decide +kernel


/-! ### Witnesses: control registers, traps, system and task instructions -/

/-- No loop ends at the instruction. -/
theorem end_plain {c : Ctx} {pc next : VAddr} (h0 : ((c.loops.get 0).act && (c.loops.get 0).fin == pc) = false)
    (h1 : ((c.loops.get 1).act && (c.loops.get 1).fin == pc) = false) : endStep c pc next = (c, next, false) := by
  simp [endStep, h0, h1]

/-- s1 holds a register number, s2 a value. -/
def crState (n v : Word) : State := setRegs openLine [(1, n), (2, v)]

theorem witness_ControlRegisterReads : hazard (crState 0 0) [5, 1] [] = false ∧ endFault (crState 0 0) 1 = none ∧
    (∀ n ∈ [(0x000 : Nat), 0x009, 0x00A, 0x011, 0x036, 0x047, 0x04B, 0x08F, 0x09F, 0x0C9, 0x0CC, 0x0D7, 0x104, 0x00B, 0x0D8, 0x105, 4095, 4096],
      ((crState (BitVec.ofNat 64 n) 0).reg 1).toNat = n) := by
  refine ⟨?_, ?_, ?_⟩ <;> decide +kernel

theorem witness_ControlRegisterWrites : hazard (crState 0x004 5) [1, 2] [] = false ∧ endFault (crState 0x004 5) 1 = none ∧
    (∀ n ∈ [(0x000 : Nat), 0x04B, 0x087, 0x0C9, 0x0CC, 0x0D7, 0x101, 0x00A, 0x019, 0x0CA, 0x102, 0x0D8, 4096],
      ((crState (BitVec.ofNat 64 n) 5).reg 1).toNat = n) ∧
    (∀ n ∈ [(0x004 : Nat), 0x005, 0x006, 0x007, 0x008, 0x009], ((crState (BitVec.ofNat 64 n) 5).reg 1).toNat = n) ∧
    (∀ l : Fin 2, endStep { issuer openLine with loops := (issuer openLine).loops.set l.val ⟨true, 5, 0x40000010, 0x40000014⟩ }
      (curPc openLine) (slotAdd (curPc openLine) 1) =
      ({ issuer openLine with loops := (issuer openLine).loops.set l.val ⟨true, 5, 0x40000010, 0x40000014⟩ },
        slotAdd (curPc openLine) 1, false)) := by
  refine ⟨?_, ?_, ?_, ?_, fun l => end_plain ?_ ?_⟩
  case refine_5 | refine_6 => revert l; decide +kernel
  all_goals decide +kernel

/-- The handler's code and data are the page of the line, its stop records at 0x40000200. -/
def regionState (n v : Word) : State := ctx0 { crState n v with mem := watchState.mem } fun c =>
  { c with thcode := 0x40000001, thdata := 0x40000001, trec := 0x40000200 }

/-- s1 names QBASE of VXE, s2 the base of the vault. -/
def qbState : State := ctx0 (regionState 0x012 0x80200000) fun c => { c with task := none }

theorem witness_QueueBaseAndTrapVectorWrites : Ready qbState 1 [1, 2] [] ∧ (qbState.reg 1).toNat = 0x010 + engNum .vxe ∧
    (qbaseCheck qbState 0 0x80200000).isOk = true ∧ (qbState.eq 0 .vxe).quiet = true ∧
    (let t := okOf (qbaseCheck qbState 0 0x80200000) noTr
     let u := tlbFill qbState 0 0x80203FC0 { t with pa := t.pa + 0x3FC0 }
     sectionFor u 0 0x10000003FC0 = (u, true) ∧ t.pa = 0x10000000000 ∧ dwAll qbState 0x10000003FC0 64 false = [] ∧ (issuer qbState).passed = none) ∧
    accWaits (issuer qbState) (newAcc qbState (.write 0) 0x80200000 { okOf (qbaseCheck qbState 0 0x80200000) noTr with pa := 0x10000003FC0 } 3 false) 64 = false ∧
    ((regionState 0x041 0x40000000).reg 1).toNat = 0x041 ∧
    (let c := fun (v : Word) => { issuer (regionState 0x041 0) with tvec := v }
     (install (regionState 0x041 0) (c 0x40000000)).isOk = true ∧ (install (regionState 0x041 0) (c 0x40003F80)).isOk = true ∧
     (match install (regionState 0x041 0) (c 0x40004000) with | .ok _ => false | .error k => k == 1) = true) := by
  refine ⟨⟨?_, ?_⟩, ?_, ?_, ?_, ⟨section_free ?_ _, ?_, ?_, ?_⟩, ?_, ?_, ?_⟩ <;> decide +kernel

/-- Context 0 has a handler at 0x40000000; `r` is recorded, the line is `line`, and its engines have stopped if so. -/
def trapState (r : Option TrapReq) (line : Bool) : State := ctx0 (regionState 0 0) fun c =>
  { c with tvec := 0x40000000, tstat := 0x2, trap := r, line := line, q := c.q.map fun q => { q with stop := line } }

theorem witness_TrapEntry : (let s := trapState none false
      (s.cx 0).inst = true ∧ (s.cx 0).inh = false ∧ (s.cx 0).dying = false ∧ s.core.cur = 0 ∧ (s.cx 0).trap = none ∧ (s.cx 0).acc = [] ∧ endFault s 1 = none ∧
      isEvent 0x01 = false ∧ allStopped s 0 = false) ∧
    (let s := trapState (some ⟨0x17, 3, false, 9, 5⟩) true
     (s.cx 0).inst = true ∧ (s.cx 0).inh = false ∧ (s.cx 0).dying = false ∧ (s.cx 0).acc = [] ∧ (s.cx 0).saving = none ∧
     (s.cx 0).tstat.getLsbD 5 = false ∧ (s.cx 0).line = true ∧ allStopped s 0 = true) ∧
    (let s := trapState (some ⟨0x80, 0, true, 0, 0⟩) false
     (s.cx 0).inst = true ∧ (s.cx 0).inh = false ∧ (s.cx 0).dying = false ∧ (s.cx 0).acc = [] ∧ (s.cx 0).saving = none ∧
     (s.cx 0).tstat.getLsbD 5 = false ∧ isEvent 0x80 = true ∧ (s.cx 0).line = false) := by
  refine ⟨?_, ?_, ?_⟩ <;> decide +kernel

/-- Context 0 runs its handler, to return to `a`. -/
def handlerState (a : VAddr) : State := ctx0 (trapState none true) fun c => { c with tstat := 0x3, tpc := a }

theorem witness_TrapReturn : hazard (handlerState 0x40000008) [] [] = false ∧ (issuer (handlerState 0x40000008)).inh = true ∧
    2 ≤ (issuer (handlerState 0x40000008)).tpc.toNat / 4 % 32 ∧ (issuer (handlerState 0x40000008)).acc = [] ∧
    (∀ e ∈ engines, (handlerState 0x40000008).run 0 e = none) ∧
    (∀ y, y ≠ 0 → ((handlerState 0x40000008).cx y).inh = false ∧ ((handlerState 0x40000008).cx y).trap = none) ∧
    (∀ i, taskOf (handlerState 0x40000008) i = none) ∧
    (issuer (handlerState 0x40000008)).later = none ∧
    (let u := ctx0 (handlerState 0x40000008) fun c => { c with later := some ⟨0x80, 0, true, 0, 0⟩ }
     hazard u [] [] = false ∧ (issuer u).inh = true ∧ isEvent 0x80 = true) ∧ (issuer (trapState none false)).inh = false ∧ (issuer (handlerState 0x40000004)).tpc.toNat / 4 % 32 < 2 := by
  refine ⟨?_, ?_, ?_, ?_, ?_, ?_, fun i => rfl, ?_, ?_, ?_, ?_⟩ <;> decide +kernel

theorem witness_InvalidationInstructions : (issuer memState).acc = [] ∧ Ready memState 1 [1] [] ∧ Ready memState 1 [1, 2] [] ∧
    Ready memState 1 [2] [] ∧ endFault memState 1 = none ∧ (xlate memState 0 4 ((memState.reg 1).setWidth 56)).isOk = true ∧
    (xlate (setRegs openLine [(1, 0xFF000000000000)]) 0 4 0xFF000000000000).isOk = false ∧
    hazard (setRegs openLine [(1, 0xFF000000000000)]) [1] [] = false ∧
    ((setRegs openLine [(1, 0xFF000000000000)]).reg 1).setWidth 56 = 0xFF000000000000#56 := by
  refine ⟨?_, ⟨?_, ?_⟩, ⟨?_, ?_⟩, ⟨?_, ?_⟩, ?_, ?_, ?_, ?_, ?_⟩ <;> decide +kernel

/-- Context 0 is in world `w`; s1 holds `a`, s2 0x40001000, where a scan descriptor of `n` patterns stands. -/
def secState (w : Bool) (a : Word) (n : BitVec 32) : State :=
  let s := ctx0 (setRegs openLine [(1, a), (2, 0x40001000)]) fun c => { c with world := w }
  { s with mem := memWrite s.mem 0x40001000 (toBytes 0x1234567#64 8 ++ toBytes n 4 ++ [15, 0, 0, 0] ++ toBytes 0x99#64 8) }

/-- A scan in DRAIN of logical core `c`, of physical core `p`; its DONE post goes to the page. -/
def scanOn (c p : BitVec 9) : Scan :=
  { core := c, phys := p, seed := 1, npat := 8, prio := 0, expsig := 9, done := 0x40002000, root := 0x10001, world := true, state := 1, start := 0 }

/-- Core 1 and, where a task runs on context 0, core 0 are scanned. -/
def scanState : State := ctx0 ((secState true 1 1).modPkg fun p => { p with scans := [scanOn 1 1] }) fun c => c

/-- The core itself waits in DRAIN for the task of context 0. -/
def scanHere : State := ctx0 ((secState true 0 1).modPkg fun p => { p with scans := [scanOn 0 0] }) fun c => { c with task := some 0 }

theorem witness_SecureInstructions : (issuer (secState false 0 1)).world = false ∧ hazard (secState false 0 1) [5, 1] [] = false ∧
    hazard (secState false 0 1) [1, 2] [] = false ∧ (issuer (secState true 1 1)).world = true ∧ Ready (secState true 1 1) 1 [5, 1, 2] [] ∧
    (∀ a ∈ [(0x1000040 : Nat), 0x10000FF, 0x2000001, 0x2000003, 0x3000400, 0x3000FFF, 0x4000000, 0x400000F],
      ((secState true (BitVec.ofNat 64 a) 1).reg 1).toNat = a) ∧
    (∀ x : CtxId, x ≠ 0 → ((secState true 1 1).cx x).task = none) ∧ lmap (secState true 1 1) 1 = some 1 ∧ lmap (secState true 511 1) 511 = some 511 ∧
    (secState true 1 1).core.phys = 0 ∧ (secState true 1 1).pkg.scans = [] ∧
    (∀ n ∈ [(1 : Nat), 0x100000], (scanDesc (secState true 1 (BitVec.ofNat 32 n)) 0x40001000).isOk = true ∧
      ofBytes (((bytesAt (secState true 1 (BitVec.ofNat 32 n)) 0x40001000 32).drop 8).take 4) = n) ∧
    (scanOf scanState 1 = some (scanOn 1 1) ∧ (scanOn 1 1).phys ≠ scanState.core.phys ∧ (issuer scanState).world = true ∧
      (scanState.reg 1).setWidth 9 = 1#9 ∧ lmap scanState 1 = some 1) ∧
    (scanOf scanHere 0 = some (scanOn 0 0) ∧ (scanOn 0 0).state = 1 ∧ (issuer scanHere).task ≠ none ∧ (issuer scanHere).world = true ∧
      (scanHere.reg 1).setWidth 9 = 0#9 ∧ lmap scanHere 0 = some 0) ∧ Ready scanState 1 [5, 1, 2] [] ∧ Ready scanHere 1 [5, 1, 2] [] ∧
    (∀ i < 4, readOk (secState true 1 1) (0x40001000 + BitVec.ofNat 56 (8 * i)) 3 = true) := by
  refine ⟨?_, ?_, ?_, ?_, ⟨?_, ?_⟩, ?_, ?_, ?_, ?_, ?_, ?_, ?_, ?_, ?_, ⟨?_, ?_⟩, ⟨?_, ?_⟩, ?_⟩ <;> decide +kernel

/-- Launch 5, whose root maps the page. -/
def launch5 : Launch :=
  { lid := 5, done := 0x40002000, group := 0, world := false, arg := 0, root := 0x10001, stages := [], prio := none, trig := none,
    caps := [], watch := none, aborted := false, cores := [], next := [], since := 0, moved := [] }

/-- Task `id` of launch 5, RUNNING on context `x` of logical core 0; its loop record is at 0x40003000. -/
def task5 (id : Nat) (x : Option CtxId) : Task :=
  { id := id, lid := 5, stage := 0, num := id, state := .running, prio := 0, area := 0x40003000, trig := none, core := some 0,
    ctx := x, pin := none, readyAt := 0, placedAt := 0, chosen := none, heir := none, ackver := 0, cbar := 0, reissue := [],
    kept := none, uslots := [], ubanks := [] }

/-- Contexts 0 and 1 run tasks 0 and 1 of launch 5, context 0 in phase `ph`; the loop record has TRIP `n`, ITER 1, PERS `p`. -/
def taskState (ph : Phase) (n : Nat) (p : Bool) : State :=
  let s := setRegs openLine [(1, 0x123456789A)]
  let d := toBytes 0x40000100#64 8 ++ toBytes 0x40000200#64 8 ++ toBytes 0x40000300#64 8 ++ toBytes (BitVec.ofNat 64 n) 8 ++
    toBytes 1#64 8 ++ [0, 0, 0, 0, 0, if p then 1 else 0]
  let s := { s with mem := memWrite s.mem 0x40003000 d }
  let s := s.modPkg fun k => { k with launches := [launch5], tasks := [task5 0 (some 0), task5 1 (some 1)] }
  (s.modCx 1 fun c => { c with task := some 1, lid := 5 }).modCx 0 fun c => { c with task := some 0, lid := 5, phase := ph }

/-- Context 0 of a task state holds slot 3 and waits for an access. -/
def busyTask : State :=
  ctx0 ((taskState .ker 2 false).setSlot 3 { Slot.reset with state := 1 }) fun c => { c with acc := [pendingLoad] }

theorem witness_TaskInstructions :
    (∀ s ∈ [taskState .pro 1 false, taskState .pro 0 true, taskState .pro 0 false, taskState .epi 0 false, taskState .ker 3 false,
        taskState .ker 2 false, taskState .ker 0 true],
      ctxTask s 0 = some (task5 0 (some 0)) ∧ (issuer s).acc = [] ∧ (∀ e ∈ engines, ((issuer s).eq e).quiet = true) ∧
      (loopRecord s (task5 0 (some 0))).isOk = true ∧ saveDue s 0 = none ∧ endFault s 1 = none ∧
      (areaWrite s (task5 0 (some 0)) 32 (toBytes 2#64 8)).2 = none ∧
      saveDue (areaWrite s (task5 0 (some 0)) 32 (toBytes 2#64 8)).1 0 = none) ∧
    (issuer busyTask).acc ≠ [] ∧ ctxTask busyTask 0 = some (task5 0 (some 0)) ∧
    (let s := taskState .ker 2 false
     Ready s 1 [1] [] ∧ (accCheck s 2 2 0x40003028).isOk = true ∧ chainHit (issuer s) 0x40003028 4 = false ∧
     wmForbids (issuer s) 0x40003028 4 = false ∧ ndHold s 0x40003028 = false ∧ dwAll s 0x40003028 4 false = [] ∧ accFull s = false ∧
     (task5 0 (some 0)).heir = none ∧ canLeave (issuer s) = true ∧ (issuer s).ackrd = none ∧ hazard s [2] [] = false ∧
     (∃ j ∈ s.pkg.tasks, j.id ≠ 0 ∧ j.lid = 5 ∧ j.core = some 0)) ∧
    (∀ i ∈ [0, 1], let r : Option Word := if i = 0 then none else some 12
     let s := ctx0 (taskState .ker 2 false) fun c => { c with ackrd := some (3, r) }
     ctxTask s 0 = some (task5 0 (some 0)) ∧ endFault s 1 = none ∧ (issuer s).ackrd = some (3, r)) := by
  refine ⟨?_, ?_, ?_, ⟨⟨?_, ?_⟩, ?_⟩, ?_⟩ <;> decide +kernel

/-- Task 1 of the task state has executed `n` CBARs. -/
def barState (n : Nat) : State := modTask (taskState .ker 2 false) 1 fun t => { t with cbar := n }

theorem witness_ClusterRendezvous : (∀ n < 2, let s := barState n
      ctxTask s 0 = some (task5 0 (some 0)) ∧ endFault s 1 = none ∧ clusterOf s (lcore s) = 0 ∧ cbarDone s 5 0 = 0 ∧ (issuer s).cbar = 0 ∧
      task5 0 (some 0) ∈ members s 5 0 ∧ (issuer s).acc = []) ∧
    (∀ m ∈ members (barState 1) 5 0, m.id ≠ 0 → 0 < m.cbar) ∧ (∃ m ∈ members (barState 0) 5 0, m.id ≠ 0 ∧ m.cbar ≤ 0) ∧
    (∃ a ∈ (issuer busyTask).acc, a.done = false) := by
  refine ⟨?_, ?_, ?_, ?_⟩ <;> decide +kernel


/-! ### Witness: engine commands -/

/-- Context 0 waits for its VWAIT, entry 1; VXE has completed `n` entries; shadow sets below `k` are committed. -/
def waitState (n : Word) (k : Nat) : State := ctx0 qState fun c =>
  { (c.setEq .vxe { c.eq .vxe with qlast := 1, qseq := n }) with vwait := some 1, shadow := Vector.ofFn fun i => if i.val < k then some (c.mxc, 1) else none }

theorem witness_EngineCommandsAppendTheirEntry : (0 : BitVec 8).toNat < 0xD0 ∧ (0xCF : BitVec 8).toNat < 0xD0 ∧
    Ready qState 2 [1, 2, 4, 5] [] ∧ (∀ e ∈ engines, appendOk qState e = true ∧ appendOk (waitState 0 7) e = true) ∧
    (∃ t, CanAppend qState .cpe t) ∧ (issuer qState).vwait = none ∧ (∀ e ∈ engines, ringFull qState e = false) ∧
    (let ok := fun (y : Nat) (e : Eng) => ∀ i < 4, y / 16 ^ i % 16 = 15 ∨ (y / 16 ^ i % 16 ≤ 6 ∧ y / 16 ^ i % 16 ≠ engNum e)
     (∀ e ∈ engines, ok 0xFFFF e ∧ ok 0x00FF e) ∧ ok 0x6540 .cpe ∧ ok 0x6532 .mxe ∧ ¬ ok 0xFFF7 .cpe ∧ ¬ ok 0xEFFF .cpe ∧ ¬ ok 0xF3FF .cpe) ∧
    endFault (waitState 1 7) 2 = none ∧ (waitState 1 7).eq 0 .vxe = { qState.eq 0 .vxe with qlast := 1, qseq := 1 } ∧
    (issuer (waitState 0 7)).vwait = some 1 ∧ (issuer (waitState 0 7)).shadow.get 7 = none ∧
    (∀ j : Fin 8, j < 7 → (issuer (waitState 0 7)).shadow.get j ≠ none) ∧ Ready (waitState 0 7) 2 [1, 5] [] ∧
    (issuer qState).shadow.get 0 = none ∧ (∀ i : Fin 8, (issuer (waitState 0 8)).shadow.get i ≠ none) := by
  refine ⟨?_, ?_, ⟨?_, ?_⟩, ?_, can_append ?_, ?_, ?_, ?_, ?_, ?_, ?_, ?_, ?_, ⟨?_, ?_⟩, ?_, ?_⟩ <;> decide +kernel


/-! ### Witnesses: micro-orders -/

/-- A table run of context 0 is at step 0 of table 0; v4, v5 and v6 have the tags; m1 names lanes 0, 2 and 63. -/
def microState (ta tb td : BitVec 16) : State := ctx0 (r0.placeMicro 0) fun c =>
  { (((c.setVreg 4 { VReg.reset with data := 0x40A000003F800000, tag := ta }).setVreg 5 { VReg.reset with data := 8, tag := tb }).setVreg 6
      { VReg.reset with tag := td }) with v := { (((c.setVreg 4 { VReg.reset with data := 0x40A000003F800000, tag := ta }).setVreg 5
        { VReg.reset with data := 8, tag := tb }).setVreg 6 { VReg.reset with tag := td }).v with masks := c.v.masks.set 1 0x8000000000000005 } }

/-- The run of a micro state. -/
def microRun (s : State) : Run := (s.run 0 .vxe).getD
  ⟨0, 0, 0, 0, 0, 0, 0, 0, 0, 0, false, false, false, none, false, 0, 0, 0, false, 0, [], none, .plain⟩

/-- The parts of `InRun` at step 0 of table 0, as one test. -/
def inRunOk (s : State) (rs : List (BitVec 5)) : Bool :=
  decide (s.core.vx = 0) && (s.run 0 .vxe).isSome && decide ((microRun s).x = .table 0 0 false 0 0 [] []) &&
    (rs.find? (lentReg (runLent (s.cx 0) (microRun s)))).isNone && s.core.flaw.isNone

theorem in_run {s : State} {rs : List (BitVec 5)} (h : inRunOk s rs = true) : InRun s (microRun s) 0 0 rs := by
  simp only [inRunOk, Bool.and_eq_true, decide_eq_true_eq, Option.isNone_iff_eq_none] at h
  obtain ⟨⟨⟨⟨h0, h1⟩, h2⟩, h3⟩, h4⟩ := h
  refine ⟨?_, ⟨_, _, _, _, _, h2⟩, by rw [h0]; exact h3, h4⟩
  rw [h0]
  obtain ⟨r, hr⟩ := Option.isSome_iff_exists.mp h1
  simp [microRun, hr]

/-- The formats of the real class, of the integers, and the complex ones. -/
def plainFormats : List Nat := [1, 2, 3, 4, 5, 6, 7, 8, 9, 11, 12, 13, 14]

theorem witness_RealMicroOrders : InRun (microState 1 1 1) (microRun (microState 1 1 1)) 0 0 [6, 4, 5] ∧
    (∀ n ∈ plainFormats, (BitVec.ofNat 16 n).toNat % 2 ^ 5 = n ∧ ∀ i ∈ [5, 6, 11], (BitVec.ofNat 16 n).getLsbD i = false) ∧ Unscaled ((runner (microState 1 1 1)).vreg 4) 1 := by
  refine ⟨in_run ?_, ?_, ⟨?_, ?_⟩⟩ <;> decide +kernel

theorem witness_IntegerMicroOrders : InRun (microState 8 8 11) (microRun (microState 8 8 11)) 0 0 [6, 4, 5] ∧
    Unscaled ((runner (microState 8 8 11)).vreg 4) 8 ∧ Unscaled ((runner (microState 8 8 11)).vreg 5) 8 ∧
    Unscaled ((runner (microState 8 8 11)).vreg 6) 11 ∧ InRun (microState 11 11 11) (microRun (microState 11 11 11)) 0 0 [6, 4, 5] ∧
    Unscaled ((runner (microState 11 11 11)).vreg 4) 11 ∧ Unscaled ((runner (microState 11 11 11)).vreg 5) 11 := by
  refine ⟨in_run ?_, ⟨?_, ?_⟩, ⟨?_, ?_⟩, ⟨?_, ?_⟩, in_run ?_, ⟨?_, ?_⟩, ⟨?_, ?_⟩⟩ <;> decide +kernel

/-- Codebook 7 is loaded for the launch of the running context. -/
def bookState : State :=
  let s := microState 2 2 2
  { s with core := { s.core with cbs := s.core.cbs.set 7 ⟨5, some (s.cx 0).lid, []⟩ } }

theorem witness_ComplexAndConversionMicroOrders :
    (∀ n ∈ [13, 14], InRun (microState (BitVec.ofNat 16 n) (BitVec.ofNat 16 n) (BitVec.ofNat 16 n))
      (microRun (microState (BitVec.ofNat 16 n) (BitVec.ofNat 16 n) (BitVec.ofNat 16 n))) 0 0 [6, 4, 5]) ∧
    (∀ n ∈ plainFormats, (BitVec.ofNat 16 n).toNat % 2 ^ 5 = n ∧ (BitVec.ofNat 16 n).getLsbD 11 = false ∧ (BitVec.ofNat 16 n).getLsbD 5 = false) ∧
    partOk (fmtCount 1) (fmtCount 9) 0 = true ∧ partOk (fmtCount 9) (fmtCount 1) 7 = true ∧ (partOf 12).isSome = (partOf 14).isSome ∧
    partOk (fmtCount 14) (fmtCount 12) 0 = true ∧ partOf 12 = some 8 ∧ partOf 13 = some 2 ∧ partOf 14 = some 1 ∧
    InRun bookState (microRun bookState) 0 0 [6, 4, 5] ∧ books bookState (microRun bookState) 7 = some 5 ∧
    Unscaled ((runner bookState).vreg 4) 2 := by
  refine ⟨?_, ?_, ?_, ?_, ?_, ?_, ?_, ?_, ?_, in_run ?_, ?_, ⟨?_, ?_⟩⟩
  · intro n hn
    apply in_run
    revert n
    decide +kernel
  all_goals decide +kernel

theorem witness_MoveAndMaskMicroOrders : InRun (microState 11 11 11) (microRun (microState 11 11 11)) 0 0 [6, 4, 5] ∧
    ((runner (microState 11 11 11)).vreg 4).tag = ((runner (microState 11 11 11)).vreg 5).tag ∧
    ((runner (microState 11 11 11)).vreg 4).tag.getLsbD 5 = false ∧ (runner (microState 11 11 11)).mask 1 ≠ 0 ∧
    Unscaled ((runner (microState 11 11 11)).vreg 5) 11 ∧ Unscaled ((runner (microState 1 1 1)).vreg 4) 1 ∧
    Unscaled ((runner (microState 4 4 4)).vreg 4) 4 := by
  refine ⟨in_run ?_, ?_, ?_, ?_, ⟨?_, ?_⟩, ⟨?_, ?_⟩, ⟨?_, ?_⟩⟩ <;> decide +kernel

/-- The base is at `a` of the pinned page; the deferral ring is in the pinned page of the vault, HEAD 4, TAIL 6; two loop levels
are active as `l0` and `l1` say; the table has 8 steps. -/
def memMicro (a : VAddr) (l0 l1 : TLoop) : State :=
  let s := microState 1 11 1
  let s := { s with mem := memWrite (memWrite s.mem 0x40001000 [1, 2, 3, 4, 5, 6, 7, 8]) 0x10000000000 (toBytes 4#64 8 ++ toBytes 6#64 8) }
  ctx0 s fun c => { c with pins := [⟨0x40000000, 14, 0x40000000, 0x1D⟩, ⟨0x80200000, 14, 0x10000000000, 0x1D⟩], tstat := 2,
                           v := { c.v with dqbase := 0x80200000, loops := ⟨#[l0, l1], rfl⟩,
                                           tables := c.v.tables.set 0 { c.v.tables.get 0 with len := 8, bases := Vector.replicate 4 ⟨a, 4⟩ } } }

/-- No level is active. -/
def noLoop : TLoop := ⟨false, 0, 0, 0⟩

theorem witness_MemoryAndLoopMicroOrders : (let s := memMicro 0x40001000 noLoop noLoop
      inRunOk s [6, 4, 5] = true ∧ InRun s (microRun s) 0 0 [6, 4, 5] ∧
      (readRanges s 0 ((laneRuns (s.cx 0 |>.mask 1)).map fun e => (0x40001000 + BitVec.ofNat 56 (4 * e.1), 4 * e.2))).isOk = true ∧
      (writeRanges s 0 true 1 ((laneRuns (s.cx 0 |>.mask 1)).map fun e => (0x40001000 + BitVec.ofNat 56 (4 * e.1), List.replicate (4 * e.2) 7))).2 = none ∧
      (((s.cx 0).vreg 5).tag.toNat % 2 ^ 5 = 11 ∧ ((s.cx 0).vreg 5).tag.getLsbD 11 = false ∧
        ∀ l < 64, ((0x40001000 : VAddr) + BitVec.ofNat 56 (4 * (elemBits ((s.cx 0).vreg 5) 32 l).toNat)).toNat % 4 = 0) ∧
      (readRanges s 0 [(0x40001008, 4), (0x40001000, 4), (0x40001000, 4)]).isOk = true ∧ (readRanges s 0 [(0x40001000, 16)]).isOk = true ∧
      (writeRanges s 0 false 1 [(0x40001000, toBytes (0 : BitVec 32) 4)]).2 = none ∧
      (writeRanges s 0 false 1 [(0x40001000, toBytes (0 : BitVec 128) 16)]).2 = none ∧
      (match ringHeader s 0 with | .ok (_, h, t) => h == 4 && t == 6 | .error _ => false) = true ∧
      (runWrites s 0 1 [(0x80200000 + 64 + 32 * 6, List.replicate 32 1), (0x80200008, toBytes 7#64 8)]).2 = none ∧
      (31 : BitVec 5).toNat + (0 : BitVec 2).toNat < 32 ∧ (28 : BitVec 5).toNat + (3 : BitVec 2).toNat < 32 ∧
      (∀ r : BitVec 5, 28 ≤ r.toNat → lentReg (runLent (s.cx 0) (microRun s)) r = false) ∧ 0 < (7 : BitVec 8).toNat ∧
      (7 : BitVec 8).toNat < ((s.cx 0).v.tables.get 0).len ∧ (s.cx 0).mask 2 ≠ 0 ∧ (s.cx 0).v.rc = 0) ∧
    (let s := memMicro 0x40001000 noLoop ⟨true, 2, 0, 7⟩
     inRunOk s [6, 4, 5] = true ∧ ((s.cx 0).v.loops.get 1).act = true ∧ (5 : BitVec 8).toNat ≤ ((s.cx 0).v.loops.get 1).fin) ∧
    (let s := memMicro 0x40001000 ⟨true, 2, 0, 5⟩ noLoop
     inRunOk s [6, 4, 5] = true ∧ ((s.cx 0).v.loops.get 0).act = true ∧ ((s.cx 0).v.loops.get 0).fin ≤ (5 : BitVec 8).toNat) := by
  refine ⟨⟨?_, in_run ?_, ?_, ?_, ?_, ?_, ?_, ?_, ?_, ?_, ?_⟩, ?_, ?_⟩ <;> decide +kernel


/-! ### Witnesses: events of the engines -/

/-- The header of an entry: CODE, engine, SYNC. -/
def hdrOf (code : Nat) (e : Eng) (sync : Nat) : Word := BitVec.ofNat 64 (code + engNum e * 2 ^ 8 + sync * 2 ^ 12)

/-- Engine `e` of context 0 has one entry, number 1, in slot 0 of a ring at `a`: its header is `h`. -/
def withEntry (s : State) (e : Eng) (a : VAddr) (h : Word) : State :=
  let s := { s with mem := memWrite s.mem a.toNat (entryOf h 1 (toBytes 0x40000200#64 8 ++ toBytes 2#64 8)) }
  ctx0 s fun c => c.setEq e { EngQ.reset with
    qbase := a.setWidth 64, qhead := a.setWidth 64, qtail := 1, qlast := 1, pend := [{ Pend.plain with seq := 1 }] }

/-- A CPE head that pops two tokens of MXE, which are there; `k` is its code. -/
def startState (k : Nat) (b : Bool) : State :=
  ctx0 (withEntry openLine .cpe 0x40004000 (hdrOf k .cpe 0xF11F)) fun c =>
    let c := { c.setTokens 1 3 2 with kick := 1 }
    c.setEq .cpe { c.eq .cpe with forced := b }

/-- The parts of a start that may happen; `link` of a held link, `bad` of an entry whose header fails. -/
def mayStart (s : State) (link bad : Bool) : Bool :=
  let z := seeHead s 0 .cpe
  s.core.flaw.isNone && decide (z.eq 0 .cpe = s.eq 0 .cpe) &&
  (match headOf z 0 .cpe with
   | .entry va d _ => va == 0x40004000 && !(dfield d 0 8).testBit 31 && !(dfield d 0 8).testBit 29 &&
       (if link then entryCode d == 0xFE && (linkFault d).isNone else
         (headerFault (z.cx 0) .cpe false (headSeq (s.eq 0 .cpe) va d) d).isSome == bad)
   | _ => false) && (headFlag (engReady .cpe) z 0 .cpe).isNone && hasTurn (engReady .cpe) z 0 .cpe && (s.eq 0 .cpe).chain.isNone

/-- A context without a task takes no section action at its head. -/
theorem sections_free {s : State} {x : CtxId} (e : Eng) (h : actsFor s x = none) : ∀ n va, headSections s x e n va = s := by
  intro n
  induction n with
  | zero => intro va; rfl
  | succ n ih =>
    intro va
    unfold headSections
    split
    · rfl
    · simp only [section_free h]
      split
      · rfl
      · split
        · exact ih _
        · rfl

theorem see_free {s : State} {x : CtxId} (e : Eng) (h : actsFor s x = none) : seeHead s x e = s := by
  simp only [seeHead, sections_free e h]
  repeat' split
  all_goals rfl

/-- A held link at the head of a context that has no task. -/
def linkStart : State := ctx0 (startState 0xFE false) fun c => { c with task := none }

/-- A started entry on `e`: header `h`, done or not. -/
def withRun (s : State) (e : Eng) (h : Word) (b : Bool) : State := s.modEq 0 e fun q => { q with
  run := some ⟨1, h, 0x40004000, 0, 0, 0, 0, 0, 0, 0, b, false, true, none, false, 0, 0, BitVec.ofNat 16 (h.toNat / 2 ^ 12), false, 0, [], none, .plain⟩ }

/-- A performed GXE entry that pushes to the sequencer and writes s63, one that pushes to CLP, and one of VXE with the line high. -/
def doneState (push treg : Nat) : State := withRun openLine .gxe (hdrOf 0 .gxe (push * 2 ^ 12 + 0xFFF) + BitVec.ofNat 64 (treg * 2 ^ 48)) true

/-- Context 0 of a task state, with a handler installed. -/
def guarded (s : State) : State := ctx0 s fun c =>
  { c with tvec := 0x40000000, trec := 0x40000200, tstat := 0x2, hbeat := 5 }

/-- The premises on context 0 that every clause on a fault shares. -/
def unfaulted (s : State) : Bool :=
  let c := s.cx 0
  c.inst && !c.inh && c.trap.isNone && c.saving.isNone && !c.dying && s.pkg.hits.isEmpty && !allStopped s 0 && !c.line && !c.halted

theorem witness_EntriesStartCompleteAndStop : mayStart (startState 4 true) false false = true ∧
    mayStart (startState 4 false) false false = true ∧ mayStart linkStart true false = true ∧
    seeHead linkStart 0 .cpe = linkStart ∧ mayStart (guarded (startState 0x40 false)) false true = true ∧
    unfaulted (guarded (startState 0x40 false)) = true ∧
    (∀ p ∈ [(0, 63), (6, 1)], let s := doneState p.1 p.2
      ((s.run 0 .gxe).any fun r => r.done && r.fault.isNone && r.posts.isEmpty) = true ∧ s.pkg.hits = [] ∧ (s.eq 0 .gxe).stop = false ∧ (s.cx 0).line = false ∧ s.core.gate = .on) ∧
    (let s := withRun (trapState none true) .vxe (hdrOf 0 .vxe 0xFFFF) false
     let s := s.modEq 0 .vxe fun q => { q with stop := false }
     (s.eq 0 .vxe).stop = false ∧ (s.cx 0).line = true ∧ (s.cx 0).dying = false ∧ ((s.run 0 .vxe).all fun r => !isWaiting .vxe r) = true ∧
     (xlate s 0 2 ((s.cx 0).trec.setWidth 56 + 128)).isOk = true) := by
  refine ⟨?_, ?_, ?_, see_free _ ?_, ?_, ?_, ?_, ?_⟩ <;> decide +kernel

/-- MXE and CPE wait for a token of each other; VXE past its bound of 64 cycles. -/
def deadState : State :=
  let s := withEntry (withEntry (guarded openLine) .mxe 0x40004000 (hdrOf 0 .mxe 0xFFF3)) .cpe 0x40008000 (hdrOf 4 .cpe 0xFFF1)
  (withRun s .vxe (hdrOf 0 .vxe 0xFFFF + 0x100000000) false).modCore fun k => { k with cycle := 64 }

/-- The sequencer waits at TKWAIT for a token of MXE, and MXE for one of it. -/
def stallState : State :=
  let s := withEntry (guarded openLine) .mxe 0x40004000 (hdrOf 0 .mxe 0xFFF0)
  ctx0 { s with mem := memWrite s.mem 0x40000008 (toBytes 0xA0000100#32 4) } fun c => { c with wait := some 1 }

/-- A PERS task whose hang period of 1 µs has passed; bank 1 of near DRAM is its, and its refresh is late. -/
def lateState : State :=
  let s := setCtl (guarded (taskState .ker 0 true)) 0xF00008 1
  { s with pkg := { s.pkg with stroke := 4000 },
           core := { s.core with nd := s.core.nd.set 1 { s.core.nd.get 1 with holder := some 0, row := some 3 } } }

/-- An uncorrectable error in v4 meets the VMOV of a table run. -/
def flawState : State := (guarded (microState 1 1 1)).modCore fun k => { k with flaw := some (.vdata 0 4) }

/-- The cycle of pointers of context 0 has stood for 1024 cycles. -/
def stood (s : State) : State :=
  let s := s.modCore fun k => { k with cycle := 1024 }
  ctx0 s fun c => { c with dead := some (deadHeads s 0, 0) }

theorem witness_MachineFaultsAreRaised : unfaulted deadState = true ∧ unfaulted stallState = true ∧ unfaulted lateState = true ∧
    (((deadState.run 0 .vxe).any fun r => decide (r.fault = none) && !r.hdr.getLsbD 29 && decide (r.hdr.toNat / 2 ^ 32 % 2 ^ 16 = 1) &&
      decide (64 ≤ (deadState.core.cycle - r.cycle).toNat)) = true) ∧ (deadState.eq 0 .vxe).stop = false ∧
    (∀ k ∈ [(stood deadState, [1, 3]), (stood stallState, [0, 1])], deadlock (pointers k.1 0) = k.2 ∧ unfaulted k.1 = true ∧
      (k.1.cx 0).dead = some (deadHeads k.1 0, 0) ∧ 1024 ≤ (k.1.core.cycle - 0).toNat) ∧
    ((stood deadState).core.cycle - 1).toNat < 1024 ∧
    (match headOf deadState 0 .mxe with | .entry _ d _ => !(entryHdr d).getLsbD 29 | _ => false) = true ∧
    ctxTask lateState 0 = some (task5 0 (some 0)) ∧
    (match loopRecord lateState (task5 0 (some 0)) with | .ok d => recPers d | .error _ => false) = true ∧
    (ctl lateState 0xF00008).toNat % 2 ^ 32 = 1 ∧ 1000 ≤ (lateState.pkg.stroke - (lateState.cx 0).hbeat).toNat ∧
    (lateState.core.nd.get 1).holder = some 0 ∧ 3900 ≤ (lateState.pkg.stroke - (lateState.core.nd.get 1).refAt).toNat ∧
    (∃ a ∈ (pendState.cx 0).acc, a.id = 0) ∧ region r0 0x50000000 = .hbm 0 ∧ ownNd r0 0x50000000 = none ∧
    unfaulted flawState = true ∧ flawState.core.vx = 0 ∧ flawState.core.flaw = some (.vdata 0 4) ∧
    (flawState.run 0 .vxe).isSome = true ∧ (microRun flawState).x = .table 0 0 false 0 0 [] [] ∧
    [(6 : BitVec 5), 4].find? (lentReg (runLent (flawState.cx 0) (microRun flawState))) = none := by
  refine ⟨?_, ?_, ?_, ?_, ?_, ?_, ?_, ?_, ?_, ?_, ?_, ?_, ?_, ?_, ?_, ?_, ?_, ?_, ?_, ?_, ?_, ?_, ?_⟩ <;> decide +kernel

/-! ### Witnesses: events of the map, of power and of the boot -/

/-- Link 11 has trained; the map acknowledgement of context 0 is due at 5. -/
def linkState : State :=
  let s := setCtl (taskState .ker 1 false) (oLink 11) 1
  ctx0 s fun c => { c with ack := .due 5 }

/-- Idle for the gating time of 5. -/
def idleState (g : Gate) : State := (setCtl r0 0x200410 5).modCore fun k => { k with idle := 5, gate := g }

/-- The limit of timing repeats is 4, and `n` were counted after `m` windows over it. -/
def repeatState (n m : Nat) : State := (setCtl r0 0xF00010 4).modCore fun k => { k with repeats := n, overs := m }

/-- The power controller has `q` quiet windows and `b` in hold; the clock is the lowest, 600 MHz, if `b`. -/
def powerState (q : Nat) (b : Bool) : State := (setCtl r0 0x100018 (BitVec.ofNat 64 (if b then 7 else 0))).modPkg fun p => { p with quiet := q, hold := b }

/-- A scan of core 1 in `k`, its patterns done; or of the modelled core. -/
def scannedState (c : BitVec 9) (k : BitVec 3) : State := r0.modPkg fun p => { p with stroke := 100, scans :=
  [⟨c, c, 0, 1, 0, 0x99, 0, 0, false, k, 0⟩] }

/-- The boot has reached step `n`, and has decided every core if `b`. -/
def bootState (n : Nat) (b : Bool) : State := r0.modPkg fun p =>
  { p with boot := n, decided := if b then (List.range 512).map (fun i => (BitVec.ofNat 9 i, true)) else [] }

theorem witness_MapPowerAndBootEvents :
    (∀ g < 8, (ctl linkState (oHbm g)).getLsbD 0 = true) ∧ (ctl linkState (oCol 127)).getLsbD 17 = true ∧
    (ctl linkState (oCol 127)).getLsbD 18 = true ∧ (ctl linkState 0x100AC0).getLsbD 0 = true ∧ (ctl linkState 0x100B18).getLsbD 0 = true ∧
    linkState.pkg.changes = [] ∧ (∀ x : CtxId, colRunning linkState x = none) ∧ linkUp linkState 11 = true ∧ linkState.pkg.retired = [] ∧
    (let c := (taskState .ker 1 false).cx 0
     c.task ≠ none ∧ c.ack = .acked ∧ c.ackver ≠ 1 ∧ c.saving = none ∧ c.tctl.getLsbD 1 = false) ∧
    (∀ c ∈ [(1 : Nat), 511], lmap r0 c = some (BitVec.ofNat 9 c) ∧ logicalOf r0 (BitVec.ofNat 9 c) = some (BitVec.ofNat 9 c) ∧
      physBusy r0 (BitVec.ofNat 9 c) = false ∧ ∀ n ∈ sectionsOf c, secTag r0 n = none) ∧
    ((linkState.modPkg fun p => { p with stroke := 5 }).cx 0).ack = .due 5 ∧
    (let s := idleState .on
     s.core.gate = .on ∧ coreIdle s = true ∧ (ctl s 0x200410).toNat % 2 ^ 24 = 5 ∧ s.core.idle = 5 ∧ isMine s (lcore s) = true) ∧
    (idleState .gating).core.gate = .gating ∧ isMine (idleState .gated) (lcore (idleState .gated)) = true ∧
    (∀ n < 3, (ctl (repeatState 5 n) 0xF00010).toNat % 2 ^ 16 = 4 ∧ (repeatState 5 n).core.overs = n) ∧
    logicalOf (repeatState 5 2) (repeatState 5 2).core.phys = some 0 ∧ clockMhz (powerState 0 true) = 600 ∧ (∀ j : Fin 8, ∀ m ∈ clkEntry r0 j, 600 ≤ m ∧ (m < 2000 → m ≤ 1800)) ∧
    clkEntry (powerState 0 false) 1 = some 1800 ∧ clockMhz (powerState 0 false) = 2000 ∧ (powerState 0 true).pkg.hold = true ∧
    (powerState 1 false).pkg.quiet < 2 ∧ (bootState 1 false).pkg.boot = 1 ∧ (bootState 3 false).pkg.boot = 3 ∧
    (bootState 4 false).pkg.decided = [] ∧ lmap (bootState 4 false) 511 = some 511 ∧
    physBusy r0 0 = false ∧ r0.pkg.packets = [] ∧ (r0.spe 3).packet = none ∧
    (∀ c ∈ [(0 : Nat), 1], (scanOf (scannedState (BitVec.ofNat 9 c) 1) (BitVec.ofNat 9 c)).isSome ∧ drained (scannedState (BitVec.ofNat 9 c) 1) (BitVec.ofNat 9 c) = true) ∧
    (match scanOf (scannedState 1 2) 1 with
     | some k => k.state == 2 && decide (100 * k.npat.toNat ≤ ((scannedState 1 2).pkg.stroke - k.start).toNat) && k.phys != 0
     | none => false) = true := by
  refine ⟨?_, ?_, ?_, ?_, ?_, ?_, ?_, ?_, ?_, ?_, ?_, ?_, ?_, ?_, ?_, ?_, ?_, ?_, ?_, ?_, ?_, ?_, ?_, ?_, ?_, ?_, ?_, ?_, ?_, ?_, ?_, ?_⟩ <;> decide +kernel

/-- The change of core 0, which runs a task, is in progress. -/
def removalState : State := (taskState .ker 1 false).modPkg fun p => { p with changes := [.core 0], boot := 6 }

theorem witness_MapChangesInProgress : lmap removalState 0 = some 0 ∧ physBusy removalState 0 = true ∧
    removalState.pkg.changes.contains (.hbm 3) = false ∧ 4 ≤ removalState.pkg.boot ∧ (ctl removalState (0x100AC0 + 8 * 11)).getLsbD 0 = true ∧
    (5 : BitVec 7) ∉ removalState.pkg.retired ∧ (∃ r, removalState.pkg.routes[5]? = some r ∧ r.primary = 5) := by
  refine ⟨?_, ?_, ?_, ?_, ?_, ?_, ⟨_, rfl, ?_⟩⟩ <;> decide +kernel

/-- Every core has been decided. -/
theorem witness_boot_decided (c : BitVec 9) : ∃ e ∈ (bootState 4 true).pkg.decided, e.1 = c := by
  refine ⟨(c, true), ?_, rfl⟩
  simp only [bootState, State.modPkg, if_true, List.mem_map, List.mem_range]
  exact ⟨c.toNat, c.isLt, by simp⟩

/-! ### Witnesses: register writes as events, triggers -/

/-- PATCH.ADDR names word 0 of the code line; region 0 of PKG.RGN makes the control registers secure. -/
def patchState : State :=
  (setCtl (setCtl (setCtl openLine 0xF00200 0x40000008) (oRgn 0) 0x0F0000000001) (oRgn 0 + 8) 0x0F0010000001).modPkg fun p =>
    { p with boot := 4 }

/-- An attestation is in progress, and its turn comes. -/
def busyAttest : State := { setCtl (setCtl r0 0x5002C0 0x40001000) 0x5002C8 2 with agenda := [.auto .attest] }

theorem witness_ControlRegisterWriteEvents : released patchState .mgmt = true ∧ released patchState (.core true) = true ∧
    released patchState .console = true ∧ released patchState .host = false ∧
    (let s := patchState.modPkg fun p => { p with boot := 6 }
     released s .host = true ∧ agentSecure s .host = false ∧ worldOf s (ctlBase + 0x200000 + 8 * 127) = true) ∧
    (busyAttest.agenda = .auto .attest :: [] ∧ (ctl busyAttest 0x5002C8).getLsbD 1 = true ∧ busyAttest.pkg.stopLid = none) ∧
    agentSecure patchState .mgmt = true ∧ agentSecure patchState (.core true) = true ∧
    (7 : Word).toNat < 8 ∧ 8 ≤ (8 : Word).toNat ∧ (ctl patchState 0x5002C8).getLsbD 1 = false ∧ (4 : Word).toNat % 8 ≤ 4 ∧
    4 < (5 : Word).toNat % 8 ∧ (63 : Word).toNat < 64 ∧ stopState patchState = 0 ∧
    (let a := (ctl patchState 0xF00200).toNat % 2 ^ 52 / 4 * 4
     (ctl patchState 0xF00228).getLsbD 1 = false ∧ (ctl patchState 0xF00220).getLsbD 1 = false ∧ (ctl patchState 0xF00220).getLsbD 2 = false ∧
     8 ≤ a % 128 ∧ (wordAt patchState (a / 128 * 128)).toNat / 2 ^ 62 = 0) ∧
    agentSecure patchState .console = false ∧ worldOf patchState (ctlBase + 0x200000 + 8 * 127) = true ∧
    ((r0.modPkg fun p => { p with patch := some ⟨0x40000000, false, 0⟩ }).pkg.patch.map (·.pcnt)) = some 0 := by
  refine ⟨?_, ?_, ?_, ?_, ?_, ⟨rfl, ?_⟩, ?_, ?_, ?_, ?_, ?_, ?_, ?_, ?_, ?_, ?_, ?_, ?_, ?_⟩ <;> decide +kernel

/-- Trigger `i` is set for source 2, event 5, value 9, with action `a`. -/
def triggerState (i a : Nat) : State := setCtl r0 (0x800040 + 8 * i) (BitVec.ofNat 64 (5 + 16 * a + 2 * 2 ^ 16 + 9 * 2 ^ 32))

/-- The trigger of a trigger state fires with action `a`. -/
def firesWith (s : State) (i a : Nat) : Bool :=
  let t := (ctl s (0x800040 + 8 * i)).toNat
  decide (t % 8 = 5 ∧ t / 2 ^ 32 % 2 ^ 16 = 9 ∧ (t.testBit 15 = true ∨ t / 2 ^ 16 % 2 ^ 4 = 2) ∧ t / 2 ^ 4 % 4 = a)

/-- Bank 1 is held by context 0 and banks 0, 2 and 3 are automatic, all closed. -/
def ndHeld : State := ctx0 (ndState none) fun c => { c with ndman := 2 }

theorem witness_TriggersAndContextRegisterEvents : (5 : BitVec 3) ≠ 0 ∧
    (∀ i < 4, ∀ a < 3, firesWith (triggerState i a) i a = true ∧ ∀ j < 4, ∀ b < 4, firesWith (triggerState i a) j b = true → b = a) ∧
    (ctl (triggerState 3 0) 0x800060).getLsbD 34 = false ∧ (∀ j < 4, ∀ b < 4, firesWith r0 j b = false) ∧
    (qbaseCheck qbState 0 0x80200000).isOk = true ∧ (qbState.eq 0 .clp).quiet = true ∧
    (let t := okOf (qbaseCheck qbState 0 0x80200000) noTr
     let u := tlbFill qbState 0 0x80203FC0 { t with pa := t.pa + 0x3FC0 }
     sectionFor u 0 0x10000003FC0 = (u, true) ∧ dwAll qbState 0x10000003FC0 64 false = [] ∧ (qbState.cx 0).passed = none) ∧
    (install (regionState 0x041 0) { (regionState 0x041 0).cx 0 with tvec := 0x40000000 }).isOk = true ∧
    (∀ i : Fin 4, ((ndHeld.core.nd.get i).holder = none ∨ (ndHeld.core.nd.get i).holder = some 0) ∧ (ndHeld.core.nd.get i).row = none ∧
      (ndHeld.core.nd.get i).busy.toNat ≤ ndHeld.pkg.stroke.toNat ∧ bankIdle ndHeld i.val = true) ∧
    (let t := (ctl (setCtl r0 0x800040 0x20004) 0x800040).toNat
     t % 8 = 4 ∧ t / 2 ^ 16 % 2 ^ 4 = 2 ∧ t / 2 ^ 4 % 4 = 0) := by
  refine ⟨?_, ?_, ?_, ?_, ?_, ?_, ⟨section_free ?_ _, ?_⟩, ?_, ?_, ?_⟩ <;> decide +kernel


/-! ### Witnesses: accesses from outside -/

/-- The package has booted, link 2 is UP, and root port 3 has a translation root in use. -/
def outState : State :=
  let s := setCtl (setCtl openLine (oLink 2) 1) 0x700018 0x10001
  { s with mem := memWrite s.mem 0x50000000 (toBytes 0x1122334455667788#64 8), pkg := { s.pkg with boot := 6 } }

/-- A location is memory that a party may use, and no word of it is poisoned. -/
def openTo (s : State) (who : Agent) (a n : Nat) : Bool :=
  decide (a % n = 0) && decide (region s a ≠ .none) && (agentSecure s who || !worldOf s a) && (ndRefused s a).isNone &&
    (poisonAt s a n).isNone && (dwAll s a n false).isEmpty && (dwAll s a n true).isEmpty

theorem witness_OutsideAccesses : 6 ≤ outState.pkg.boot ∧ inBars 0x50000000 = true ∧ InMemory 0x50000000 ∧
    (∀ op ∈ [AtomOp.add, .swp, .cas], endpointOp ⟨0x50000000, 2, .atomic op 1 2⟩ = true) ∧ endpointOp ⟨0x50000000, 0, .read⟩ = true ∧
    endpointOp ⟨0x50000000, 3, .write 7⟩ = true ∧ endpointOp ⟨0x50000000, 1, .atomic .add 1 2⟩ = false ∧
    endpointOp ⟨0x50000000, 3, .atomic .xor 1 2⟩ = false ∧
    (∀ n ∈ [1, 2, 4, 8], openTo outState .host 0x50000000 n = true ∧ openTo outState (.peer 2) 0x50000000 n = true ∧
      openTo outState (.rootPort 3) 0x50000000 n = true) ∧
    0x50000001 % 2 ≠ 0 ∧ region outState 0xFFFFFFFFFFFF8 = .none ∧ agentSecure patchState .host = false ∧
    worldOf patchState ctlBase = true ∧ linkUp outState 2 = true ∧ r0.pkg.boot < 6 ∧ inBars 0x040000000000 = false ∧
    (match xlateRoot outState (ctl outState 0x700018) false 1 0x50000000 with | .ok t => decide (t.pa = 0x50000000) | .error _ => false) = true ∧
    (xlateRoot outState (ctl outState 0x700018) false 3 0x80000000).isOk = false ∧ r0.pkg.boot < 4 ∧ linkUp r0 2 = false ∧
    (ndRefused (ndState none) (okOf (xlate (ndState none) 0 1 0x80002800) noTr).pa.toNat).isSome = true := by
  refine ⟨?_, ?_, mem_of_hbm (g := 0) ?_, ?_, ?_, ?_, ?_, ?_, ?_, ?_, ?_, ?_, ?_, ?_, ?_, ?_, ?_, ?_, ?_, ?_, ?_⟩ <;> decide +kernel


/-! ### Witnesses: contract writes, collectives, watch tables -/

/-- Three bytes of a contract write are held until stroke 5; the stroke is `n`. -/
def contractState (n : Nat) : State := openLine.modPkg fun p => { p with
  contracts := [⟨0x50000001, [1, 2, 3], 5, 1, false, 0, [false, false, false], 0⟩], stroke := BitVec.ofNat 64 n }

/-- A descriptor (R191): 32 FP32 elements, NDEV 2, RANK 0, LNEXT 4, LPREV 7. -/
def collDesc : List Byte := List.replicate 24 0 ++ [32, 0, 0, 0, 1, 1, 1, 0, 2, 0, 4, 7] ++ List.replicate 28 0

/-- CLP of context 0 runs a reduce-scatter under it. -/
def collRun : Run :=
  ⟨1, hdrOf 2 .clp 0xFFFF, 0x40004000, 0, 0, 0, 0, 0, 0, 0, false, false, true, none, false, 0, 0, 0xFFFF, false, 0, [], none, .coll collDesc 0 [] [] (0, 0)⟩

def collState : State :=
  (withRun (guarded openLine) .clp (hdrOf 2 .clp 0xFFFF) false).modEq 0 .clp fun q => { q with run := some collRun }

/-- The same, marked NR as the collectives are (R190). -/
def collNrState : State :=
  collState.modEq 0 .clp fun q => { q with run := some { collRun with hdr := collRun.hdr ||| 0x20000000 } }

/-- A launch descriptor with one stage (R47), its template at 0x40006000 (R44). -/
def descBytes (st : Nat) : List Byte :=
  toBytes 0x40002000#64 8 ++ [0, 0, 1, 0, 0, 0, 0, 0] ++ toBytes 0x77#64 8 ++ List.replicate 8 0 ++ toBytes (BitVec.ofNat 64 st) 8 ++
    List.replicate 88 0

/-- The template: three segments, no counters, instances' areas from 0x40400000. -/
def tplBytes : List Byte :=
  toBytes 0x40000000#64 8 ++ toBytes 0x40000080#64 8 ++ toBytes 0x40000100#64 8 ++ toBytes 5#64 8 ++ List.replicate 16 0 ++
    toBytes 0x40400000#64 8 ++ List.replicate 72 0

/-- Memory holds the descriptor at 0x40005000 and the template; the images are in the first page, at 0x40000000. -/
def descState : State :=
  let m := memWrite openLine.mem 0x20000 (toBytes 0x4000001D#64 8)
  setCtl { openLine with mem := memWrite (memWrite m 0x40005000 (descBytes 0x40006000)) 0x40006000 tplBytes } oSpRoot 0x10001

/-- Entry 0 of the watch table of column 0, PENDING until stroke 100, for core 0. -/
def dueEnt : Watch := { watchEnt 0 0 with
  state := 2, due := 100, cnt := 3, bm := 1, ldesc := 0x40005000, root := 0x10001, group := 0, prio := 5, world := false }

/-- A state with the entry `w` at stroke `n`. -/
def dueState (w : Watch) (n : Nat) : State := descState.modPkg fun p => { p with watch := [w], stroke := BitVec.ofNat 64 n }

/-- A waggle message of entry `i` is on its way, with descriptor `d`; `b`: 64 launches are accepted. -/
def waggleState (i : Nat) (b : Bool) (d : List Byte) : State := (dueState { dueEnt with state := 1, fires := 1, live := 1 } 100).modPkg fun p =>
  { p with waggles := [⟨16, i, 3, 1, 1, 100, d⟩], launches := if b then (List.range 64).map fun n => { launch5 with lid := BitVec.ofNat 16 n } else [] }

theorem write_nowhere {s : State} {x : CtxId} {q : Word} {bs : List Byte} {f : Flt} (hl : bs.length = 128)
    (h : unitCheck s x 6 0 = .error f) : (engWriteAll s x .clp q 0 bs).1 = s := by
  have hp : pieces (bs.length / 64 + 2) (0 : VAddr).toNat bs.length = [(0, 64), (64, 64)] := by rw [hl]; rfl
  have he (u : Option Nat) : engPiece s x .clp q u (BitVec.ofNat 56 0) ((bs.drop (0 - (0 : VAddr).toNat)).take 64) = .error f := by
    have hn : ((bs.drop (0 - (0 : VAddr).toNat)).take 64).isEmpty = false := by
      cases bs with
      | nil => cases hl
      | cons _ _ => rfl
    have h0 : (BitVec.ofNat 56 0 : VAddr) = 0 := rfl
    simp only [engPiece, hn, h0, h, Bool.false_eq_true, if_false]
  have hc : (decide (Eng.clp = Eng.cpe) && !bs.isEmpty) = false := rfl
  simp only [engWriteAll, hp, hc, Bool.false_eq_true, if_false, List.foldl_cons, List.foldl_nil, he]

/-- Address 0, where DST lies, does not translate, so nothing of DST was written. -/
theorem coll_spoil {s : State} {r : Run} (hx : r.x = .coll collDesc 0 [] [] (0, 0)) (h1 : colKind r = 2)
    (hb : (match unitCheck s 0 6 0 with | .error _ => true | .ok _ => false) = true) : colSpoil s 0 r collDesc = s := by
  have h2 : colSize (colS collDesc) * (colPart collDesc false (colRank collDesc)).2 = 128 := by decide
  have h3 : BitVec.ofNat 56 (dfield collDesc 0 8 + colSize (colS collDesc) * 0) = (0 : VAddr) := by decide
  have h4 : dfield collDesc 8 8 = dfield collDesc 0 8 := by decide
  split at hb
  · rename_i f h
    simp only [colSpoil, hx, h1, if_true, List.range_one, List.foldl_cons, List.foldl_nil, h2, h3, h4]
    split
    · exact write_nowhere (by simp) h
    · rfl
  · cases hb

theorem witness_ContractsCollectivesAndWatches : (∀ n ∈ [4, 5, 6], (contractState n).pkg.contracts[0]?.map (·.t) = some 5) ∧
    (contractState 4).pkg.stroke.toNat < 5 ∧ 5 ≤ (contractState 5).pkg.stroke.toNat ∧ sectionOf 0x50000001 = none ∧
    dwAll (contractState 5) 0x50000001 3 false = [] ∧ colRunning openLine 0 = none ∧
    colRunning collState 0 = some (collRun, collDesc) ∧ colNext collDesc = 4 ∧ colPrev collDesc = 7 ∧ collRun.waits = false ∧
    (∀ next ∈ [true, false], if next then (4 : Fin 12).val = colNext collDesc ∧ 0 = (colOrd collRun).1 else (7 : Fin 12).val = colPrev collDesc ∧ 0 = (colOrd collRun).2) ∧
    collRun.hdr.getLsbD 29 = false ∧
    (let r := { collRun with hdr := collRun.hdr ||| 0x20000000 }
     colRunning collNrState 0 = some (r, collDesc) ∧ (colSpoil collNrState 0 r collDesc).run 0 .clp = some r ∧ r.hdr.getLsbD 29 = true) ∧
    (let u := colSpoil collState 0 collRun collDesc
     let c := u.cx 0
     u.run 0 .clp = some collRun ∧ c.inst = true ∧ c.inh = false ∧ c.trap = none ∧ c.saving = none ∧ c.dying = false ∧ allStopped u 0 = false) ∧
    watchAt (dueState dueEnt 100) 16 0 = some dueEnt ∧ dueEnt.state = 2 ∧ dueEnt.budget = 0 ∧ dueEnt.period = 0 ∧
    (dueState dueEnt 99).pkg.stroke.toNat < dueEnt.due.toNat ∧ dueEnt.due.toNat ≤ (dueState dueEnt 100).pkg.stroke.toNat ∧
    (let w : Watch := { dueEnt with budget := 2, used := 2 }
     watchAt (dueState w 100) 16 0 = some w ∧ w.period = 0 ∧ w.budget.toNat ≤ w.used) ∧ (ctl r0 oFlog).toNat % 2 ^ 52 / 2 ^ 12 = 0 ∧
    (let w : Watch := { dueEnt with period := 3, used := 2, start := 50 }
     watchAt (dueState w 7000) 16 0 = some w ∧ 1000 * w.period.toNat ≤ ((dueState w 7000).pkg.stroke - w.start).toNat) ∧
    watchAt (waggleState 1 false []) 16 1 = none ∧
    (∀ b ∈ [true, false], ∀ d ∈ [[], descBytes 0x40006000], let s := waggleState 0 b d
     let z : State := { s with pkg := { s.pkg with waggles := [] } }
     (watchAt s 16 0).any (fun w => !groupDead s w.group w.world && (wagRead z w).isOk && (b || (acceptLaunch z (descBytes 0x40006000) w.root
       w.world w.group (some w.prio) (some (3, 1, 0x100000000001)) (some (16, 0))).isSome)) = true ∧ (freeLid s).isNone = b) := by
  refine ⟨?_, ?_, ?_, ?_, ?_, ?_, rfl, ?_, ?_, ?_, ?_, ?_,
    (by intro r; rw [coll_spoil rfl (by decide) (by decide +kernel)]; exact ⟨rfl, rfl, by decide +kernel⟩),
    (by rw [coll_spoil rfl (by decide) (by decide +kernel)]; exact ⟨rfl, rfl, rfl, rfl, rfl, rfl, by decide +kernel⟩), ?_, ?_, ?_, ?_, ?_, ?_, ?_, ?_, ?_, ?_, ?_⟩ <;> decide +kernel


/-! ### Witnesses: the schedulers -/

/-- A SUBMIT packet with CPL and COMPL 0x40002008, whose descriptor is at `a`. -/
def submitPacket (a : Nat) : Packet :=
  ⟨17, 0, 0, false, 0x10001, [1, 0, 0, 0, 0, 1, 0, 0] ++ toBytes 0x40002008#64 8 ++ toBytes (BitVec.ofNat 64 a) 8 ++ List.replicate 40 0,
   0, false, [], none, none⟩

/-- The launch service holds such a packet, checked if `b`; `full`: 64 launches are accepted. -/
def submitState (a : Nat) (b full : Bool) : State := descState.modPkg fun p =>
  { p with submit := some (let k := submitPacket a; { k with done := b, bytes := if b then k.bytes ++ descBytes 0x40006000 else k.bytes }),
           launches := if full then (List.range 64).map fun n => { launch5 with lid := BitVec.ofNat 16 n } else [] }

/-- Launch 5 with the tasks `ks`; the record at 0x40003000 waits until the counter at 0x40007000 is `m` (R44), at iteration `i`. -/
def taskList (l : Launch) (ks : List Task) (m i : Nat) : State :=
  let d := (tplBytes.take 32) ++ toBytes (BitVec.ofNat 64 i) 8 ++ [0, 0, 0, 0, 0, 0, 1, 0] ++ (tplBytes.drop 48).take 8 ++ toBytes 0x99#64 8 ++
    toBytes 0x40007000#64 8 ++ toBytes (BitVec.ofNat 64 m) 8
  let s := { descState with mem := memWrite (memWrite descState.mem 0x40003000 d) 0x40007000 [2] }
  s.modPkg fun p => { p with launches := [l], tasks := ks, boot := 6, stroke := 2000000 }

/-- A task of launch 5 that waits in state `st`. -/
def waitingTask (n : Nat) (st : TaskState) : Task := { task5 n none with state := st, core := none }

/-- Launch 5 for group `g`, of one stage. -/
def launchOn (g : BitVec 16) : Launch := { launch5 with group := g, stages := [0x40006000] }

/-- Context 0 runs task 0, which has the context since stroke `n`; task 1 is READY. -/
def turnState (n : Nat) : State :=
  ctx0 (taskList (launchOn 0) [{ task5 0 (some 0) with placedAt := BitVec.ofNat 64 n }, waitingTask 1 .ready] 2 0) fun c =>
    { c with task := some 0, lid := 5 }

/-- Cores 0 and 1 work on stage 1 of two, core 0 with task 0; task 2 of stage 0 is SUSPENDED. -/
def stageState : State :=
  let l : Launch := { launch5 with stages := [0x40006000, 0x40006000], cores := [(0, 1), (1, 1)], caps := [0], next := [1, 2], group := 2 }
  taskList l [{ task5 0 (some 0) with stage := 1, pin := some 0 }, waitingTask 2 .suspended] 2 0

/-- Context 0 is being saved, with accesses `l`. -/
def savingState (l : List Acc) : State :=
  ctx0 (taskList (launchOn 0) [{ task5 0 (some 0) with state := .saving }] 2 0) fun c =>
    { c with task := some 0, lid := 5, saving := some .rot, acc := l }

/-- A volatile load. -/
def volLoad : Acc := { pendingLoad with vol := true }

/-- Both tasks of launch 5 have executed one CBAR. -/
def metState : State := modTask (barState 1) 0 fun t => { t with cbar := 1 }

/-- Bank 3 is FREEING, both bands released. -/
def freeingState : State := r0.setBank 3 { r0.bank 3 with state := 2, rel := Vector.replicate 2 true }

/-- A RUNNING counter of a task's readiness. -/
def readyNow (s : State) (m : Nat) : Bool :=
  match taskOf s 1 with
  | none => false
  | some k => k.state == .created && (match loopRecord s k with
    | .ok d => counters d == [(0x40007000, m)] && (match rootRead s 0x10001 false 0x40007000 8 with | .ok v => ofBytes v == 2 | .error _ => false)
    | .error _ => false)

theorem witness_SchedulerEvents :
    (submitRead (submitState 0x40005000 false false) (submitPacket 0x40005000)).isOk = true ∧
    (match submitRead (submitState 0x40005008 false false) (submitPacket 0x40005008) with | .ok _ => false | .error f => f != heldFlt) = true ∧ 0 ∈ groupCores descState 0 false ∧
    (∀ b ∈ [true, false], (acceptLaunch (submitState 0x40005000 true b) (descBytes 0x40006000) 0x10001 false 0 none none none).isSome = !b) ∧
    (submitPacket 0).cpl = true ∧ (postRoot r0 0x10001 false 0x40002008 1).isOk = false ∧
    (postRoot descState 0x10001 false 0x40002008 1).isOk = true ∧
    (∀ n < 64, ∃ l ∈ (submitState 0x40005000 true true).pkg.launches, l.lid.toNat % 64 = n) ∧
    (let s := taskList launch5 [] 2 0
     launchOf s 5 = some launch5 ∧ (postRoot s launch5.root launch5.world launch5.done 1).isOk = true ∧ s.pkg.tasks = []) ∧
    (∃ k ∈ (turnState 0).pkg.tasks, k.lid = 5) ∧ readyNow (taskList launch5 [waitingTask 1 .created] 2 0) 2 = true ∧
    readyNow (taskList launch5 [waitingTask 1 .created] 3 0) 3 = true ∧ r0.pkg.boot < 6 ∧ r0.pkg.boot ≠ 4 ∧
    (powerState 1 true).pkg.hold = true := by
  refine ⟨?_, ?_, ?_, ?_, ?_, ?_, ?_, ?_, ⟨?_, ?_, ?_⟩, ?_, ?_, ?_, ?_, ?_, ?_⟩ <;> decide +kernel

theorem witness_SchedulerEvents_placement : (∀ g ∈ [(0 : Nat), 8], ∀ i < 2, let s := taskList (launchOn (BitVec.ofNat 16 g)) [waitingTask 1 .ready] 2 i
      s.pkg.hold = false ∧ 6 ≤ s.pkg.boot ∧ offers s = [(0, waitingTask 1 .ready)] ∧ pickPlace s 0 (waitingTask 1 .ready) = some (BitVec.ofNat 9 (g / 8), 0) ∧
      taskOf s 1 = some (waitingTask 1 .ready) ∧ scanOf s (BitVec.ofNat 9 (g / 8)) = none ∧ (loopRecord s (waitingTask 1 .ready)).isOk = true ∧
      isMine s (BitVec.ofNat 9 (g / 8)) = (g == 0)) := by
  decide +kernel

theorem witness_SchedulerEvents_turns : (∀ n ∈ [(0 : Nat), 1999500], let s := turnState n
      let k : Task := { task5 0 (some 0) with placedAt := BitVec.ofNat 64 n }
      ctxTask s 0 = some k ∧ quantum s ≤ 2000000 ∧ 500 < quantum s ∧ leastBy waitKey (s.pkg.tasks.filter fun t =>
        isWaitingTask s t && taskGroup s t == taskGroup s k && k.core.any ((coresFor s t).contains ·)) = some (waitingTask 1 .ready) ∧
        k.state = .running ∧ k.chosen = none) ∧
    (let s := stageState
     ∃ l ∈ s.pkg.launches, launchOf s 5 = some l ∧ 1 < l.stages.length ∧ l.aborted = false ∧ stageDue s l 0 = true ∧
       (match (List.range l.stages.length).mapM (need s l) with
        | .ok ns => extreme true ns == 0 && extreme false ns == 1 && !fracLt (let p := ns.getD 0 (0, 1); let q := ns.getD 1 (0, 1)
            (p.1 * (q.2 : Int) - q.1 * (p.2 : Int), p.2 * q.2)) (1, 2)
        | .error _ => false) = true ∧ (∀ j ∈ l.cores, clusterOf s j.1 = 0) ∧ l.cores.filter (fun j => decide (j.2 = 1)) = [(0, 1), (1, 1)] ∧
       (let ts := s.pkg.tasks.filter fun t => t.lid == l.lid && t.stage == 0 && t.state == .suspended && !s.pkg.tasks.any (·.heir == some t.id)
        (ts.find? (·.pin.isNone)).or ts.head? = some (waitingTask 2 .suspended)) ∧
       ∃ m, s.pkg.tasks.find? (fun t => t.lid == l.lid && t.stage == 1 && t.pin == some 0) = some m ∧ m.state = .running) ∧
    launch5.stages.length ≤ 1 ∧ (r0.cx 0).saving = none ∧
    (let s := savingState []
     ctxTask s 0 = some { task5 0 (some 0) with state := .saving } ∧ (∀ e ∈ engines, s.run 0 e = none) ∧ launchOf s 5 ≠ none) ∧
    ((savingState [volLoad]).cx 0).acc ≠ [] ∧
    members metState 5 0 ≠ [] ∧ (∀ m ∈ members metState 5 0, cbarDone metState 5 0 < m.cbar) ∧
    (let b := freeingState.bank 3
     b.state = 2 ∧ b.rel.get 0 = true ∧ b.rel.get 1 = true ∧ (∀ p ∈ (freeingState.eq b.alc .mxe).records, b.upto.toNat < p.seq.toNat ∨ p.names.getLsbD 3 = false) ∧
     (let z := freeingState.setEq b.alc .mxe { freeingState.eq b.alc .mxe with pend := [{ Pend.plain with seq := 0, names := 8 }] }
      ∃ p ∈ (z.eq b.alc .mxe).records, p.seq.toNat ≤ (z.bank 3).upto.toNat ∧ p.names.getLsbD 3 = true)) ∧
    (∃ k ∈ (turnState 0).pkg.tasks, k.core = some 0 ∧ k.ctx ≠ none) ∧
    (∀ k ∈ (turnState 0).pkg.tasks, k.core = some 0 → k.ctx ≠ none → launchOf (turnState 0) k.lid ≠ none) := by
  refine ⟨?_, ⟨{ launch5 with stages := [0x40006000, 0x40006000], cores := [(0, 1), (1, 1)], caps := [0], next := [1, 2], group := 2 }, ?_, ?_,
    ?_, ?_, ?_, ?_, ?_, ?_, ?_, ⟨{ task5 0 (some 0) with stage := 1, pin := some 0 }, ?_, ?_⟩⟩, ?_, ?_, ⟨?_, ?_, ?_⟩, ?_, ?_, ?_, ?_, ?_, ?_⟩ <;> decide +kernel


/-- Launch 5, aborted, whose task runs on context 0, with accesses `l`. -/
def abortedState (l : List Acc) : State :=
  ctx0 (taskList { launchOn 0 with aborted := true } [task5 0 (some 0), waitingTask 1 .ready] 2 0) fun c =>
    { c with task := some 0, lid := 5, acc := l }

theorem witness_SchedulerEvents_aborted : (∀ l ∈ [[], [{ pendingLoad with op := .write 5 }]], let s := abortedState l
      launchOf s 5 = some { launchOn 0 with aborted := true } ∧ elsewhere s 5 = [] ∧ (0 : CtxId) ∈ ctxsOf s 5 ∧
      (s.cx 0).storesLeft = !l.isEmpty ∧ ∀ x ∈ ctxsOf s 5, x = 0) ∧
    (let s := taskList { launchOn 0 with stages := [0, 0], since := 2000000 } [] 2 0
     ∃ l ∈ s.pkg.launches, launchOf s 5 = some l ∧ ∀ k < 16, stageDue s l k = false) ∧ elsewhere (turnState 0) 5 = [] := by
  refine ⟨?_, ⟨{ launchOn 0 with stages := [0, 0], since := 2000000 }, ?_, ?_⟩, ?_⟩ <;> decide +kernel

/-- Context 0 of a task of core 0 is being saved for a map acknowledgement, with nothing outstanding. -/
def quietSave : State :=
  ctx0 (taskList (launchOn 0) [{ task5 0 (some 0) with state := .saving }] 2 0) fun c => { c with task := some 0, lid := 5, saving := some .map }

/-! ### Witnesses: consumers and optical engines -/

/-- Queue 3 of consumer `n` has its control block at 0x40008000, RIDX 0x12345, its slots at 0x40009000; the packet there begins
with VALID and `b`. -/
def queueState (n : Nat) (b : List Byte) : State :=
  let cb := List.replicate 8 0 ++ toBytes 0x12345#64 8 ++ toBytes 0x40009000#64 8 ++ [4]
  let s := { openLine with mem := memWrite (memWrite openLine.mem 0x40008000 cb) 0x40009140 (toBytes 0x2346#32 4 ++ b) }
  let s := setCtl (setCtl s (oQcb n 3) 0x8000000040008000) (oQroot n 3) 0x10001
  { s with pkg := { s.pkg with boot := 6 } }

/-- The queue's turn has the packet, and it may be taken. -/
def takes (s : State) (n : Nat) (bad : Packet → Option Flt) : Bool :=
  nextQueue s n == some 3 && (match queueTurn s n 3 with
    | .ready ix va v => ix == 0x12345 && (match qRead s (ctl s (oQroot n 3)) (qWorld s n 3) (va + 4) 60 with
      | .ok bs =>
        let p : Packet := ⟨n, 3, ix, qWorld s n 3, ctl s (oQroot n 3), toBytes (BitVec.ofNat 32 v) 4 ++ bs.map (·.1), 0, false, [], none, none⟩
        bs.all (·.2.isNone) && !p.cpl && (commonFault p).isNone && (bad p).isNone
      | .error _ => false)
    | _ => false) && ((List.range 16).all fun j => match queueTurn s n j with | .stuck _ _ => false | _ => true) &&
    (dwAll s (qAddr s n 3 + 8) 8 false).isEmpty && decide (rowOf (qAddr s n 3 + 8) = .hbm 0)

/-- A hub packet of CODE `k`: SRC 0x40000000, DST 0x40010040, 100 bytes or for COPY2D rows of 100 bytes, two of them. -/
def hubPacket (k n : Nat) (b : Bool) : Packet :=
  ⟨2, 0, 0, false, 0x10001, [1, 0, 0, 0, BitVec.ofNat 8 k, 0, 0, 0] ++ toBytes 0x40002008#64 8 ++ toBytes 0x40000000#64 8 ++
    toBytes 0x40010040#64 8 ++ toBytes (if k = 3 then 0x0003000200020064#64 else 100#64) 8 ++ List.replicate 24 0, n, b, [], none, none⟩

/-- Hub 2 works on such a packet, behind one of hub 1. -/
def hubState (k n : Nat) (b : Bool) : State := openLine.modPkg fun p =>
  { p with packets := [{ hubPacket 1 0 true with cons := 1 }, hubPacket k n b] }

/-- Unit `n` of the packet may be read and written. -/
def unitOk (s : State) (p : Packet) : Bool :=
  let c := dfield p.bytes 32 8
  let len := if p.code = 3 then c % 2 ^ 16 else c % 2 ^ 32
  let per := (len + 63) / 64
  let o := p.prog % per * 64
  let place := fun (stride : Nat) => if p.code = 3 then p.prog / per * (64 * stride) + o else 64 * p.prog
  let size := if p.code = 3 then min 64 (len - o) else min 64 (len - 64 * p.prog)
  let src : VAddr := BitVec.ofNat 56 (dfield p.bytes 16 8 + place (c / 2 ^ 32 % 2 ^ 16))
  let dst : VAddr := BitVec.ofNat 56 (dfield p.bytes 24 8 + place (c / 2 ^ 48))
  decide (p.prog < hubUnits p) && (qWriteFault s p.root p.world dst size).isNone &&
    (match qRead s p.root p.world src size with
     | .ok l => l.all (·.2.isNone) && (qWrite s p.root p.world none deviceWriter dst (l.map (·.1))).2.isNone
     | .error _ => false)

/-- An optical packet of CODE `k` for engine 1, PADDR 0, MADDR 0x48000000. -/
def opticPacket (k : Nat) : Packet :=
  ⟨16, 0, 0, false, 0x10001, [1, 0, 0, 0, BitVec.ofNat 8 k, 0, 0, 0] ++ List.replicate 8 0 ++
    toBytes (if k = 2 then 0x48000000#64 else 0#64) 8 ++ [5] ++ List.replicate 39 0, 0, false, [], none, some 1⟩

/-- Engine 1 is in state `st` with packet `p`; a packet of CODE `k` waits for it. -/
def speumState (st : SpeState) (p : Option Packet) (k : Nat) : State :=
  let s := openLine.modPkg fun q => { q with packets := [opticPacket k] }
  s.modSpe 1 fun e => { e with state := st, packet := p, profile := List.replicate 5184 0, calst := 0x500000001, calt := 7, calg := 0x1234000000000000 }

theorem witness_ConsumerAndOpticalEvents_posts :
    (let p : Packet := { hubPacket 1 2 true with bytes := (hubPacket 1 2 true).bytes.set 5 1 }
     let s := openLine.modPkg fun q => { q with packets := [{ p with cons := 1 }, p] }
     let z : State := { s with pkg := { s.pkg with packets := [{ p with cons := 1 }] } }
     p.cpl = true ∧ p.done = true ∧ p.posts = [] ∧ (postRoot z p.root p.world p.compl 1).isOk = true ∧ qHeld s p.root p.world 6 p.compl 8 = false ∧
     (postRoot z p.root p.world p.compl 0x8000000000000001).isOk = true) ∧
    (let s := (speumState .shot (some (opticPacket 1)) 1).modSpe 1 fun e => { e with due := true }
     (s.spe 1).due = true ∧ (s.spe 1).state = .shot ∧ (s.spe 1).packet = some (opticPacket 1)) := by
  refine ⟨?_, ?_⟩ <;> decide +kernel

theorem witness_ConsumerAndOpticalEvents :
    takes (queueState 2 (((hubPacket 1 0 false).bytes.drop 4))) 2 hubFault = true ∧
    takes (queueState 15 (((hubPacket 3 0 false).bytes.drop 4))) 15 hubFault = true ∧
    takes (queueState 17 ([1, 0, 0, 0] ++ List.replicate 8 0 ++ toBytes 0x40005000#64 8)) 17 submitFault = true ∧
    (∀ k ∈ [1, 2, 3], ∀ n < 2, let s := hubState k n false
      s.pkg.packets.find? (fun q => q.cons == 2 && !q.done && decide (q.code = k)) = some (hubPacket k n false) ∧
      unitOk s (hubPacket k n false) = true) ∧ unitOk (hubState 3 3 false) (hubPacket 3 3 false) = true ∧
    (postRoot (hubState 1 2 true) 0x10001 false 0x40002008 1).isOk = true ∧ (hubState 1 2 true).pkg.packets[1]? = some (hubPacket 1 2 true) ∧ (hubPacket 1 2 true).cpl = false ∧ (hubPacket 1 2 true).err = none ∧
    (∀ k ∈ [1, 2, 3], let s := speumState .idle none k
      (s.spe 1).state = .idle ∧ blockChanging s (.spe 1) = false ∧ s.pkg.hold = false ∧
      s.pkg.packets.find? (waitsFor s 1) = some (opticPacket k) ∧ (opticPacket k).code = k ∧ speServes s (opticPacket k).world 1 = true ∧
      (opticPacket k).cpl = false) ∧
    dfield (opticPacket 3).bytes 16 8 = 0 ∧ ((speumState .cal (some (opticPacket 3)) 1).spe 1).profile ≠ [] ∧
    (∀ st ∈ [SpeState.shot, .mask, .cal, .meas], ((speumState st none 1).spe 1).state = st) ∧
    ((speumState .idle none 1).spe 1).calst ≠ 0 ∧ (ctl (speumState .idle none 1) (oSpe 1)).getLsbD 0 = true ∧
    (ctl (setCtl openLine (oSpe 1) 0) (oSpe 1)).getLsbD 0 = false ∧
    (List.replicate 5184 (0 : Byte)).length = 5184 := by
  refine ⟨?_, ?_, ?_, ?_, ?_, ?_, ?_, ?_, ?_, ?_, ?_, ?_, ?_, ?_, ?_, ?_, List.length_replicate⟩ <;> decide +kernel


/-- Engine 1 writes a mask store whose 65536 elements are in empty memory from 0x48000000. -/
def maskReadState : State := speumState .mask (some (opticPacket 2)) 2

/-- The page at 1 GiB is mapped to itself, no region is secure and no watchpoint is set. -/
structure Paged (s : State) : Prop where
  wf : memWf s.mem = true
  e1 : wordAt s 0x10000 = 0x20003
  e2 : wordAt s 0x20008 = 0x4000001D
  rgn : ∀ i < 32, bit (ctl s (oRgn i)) 0 = false
  hbm : bit (ctl s (oHbm 0)) 0 = true
  dwp : ∀ w < 16, bit (ctl s (oDwp w)) 0 = false

theorem Paged.world {s : State} (h : Paged s) {a : Nat} (hr : rowOf a = .hbm 0) : worldOf s a = false := by
  have : (List.range 32).find? (fun i => let b := ctl s (oRgn i)
      bit b 0 && decide (fldN b 14 38 * 0x4000 ≤ a) && decide (a < fldN (ctl s (oRgn i + 8)) 14 38 * 0x4000)) = none := by
    apply List.find?_eq_none.mpr
    intro i hi
    simp only [h.rgn i (List.mem_range.mp hi), Bool.false_and, Bool.false_eq_true, not_false_eq_true]
  simp only [worldOf]
  rw [this]
  simp only [hr]

theorem Paged.here {s : State} (h : Paged s) {a : Nat} (hr : rowOf a = .hbm 0) : region s a = .hbm 0 := by
  simp only [region, hr, h.hbm, if_true]

theorem Paged.watched {s : State} (h : Paged s) (a n : Nat) : dwAll s a n false = [] := by
  simp only [dwAll, List.flatMap_eq_nil_iff, List.map_eq_nil_iff, dwHits, List.filter_eq_nil_iff, List.mem_range]
  intro _ _ w hw
  simp only [Bool.false_eq_true, if_false, h.dwp w hw, Bool.false_and, not_false_eq_true]

/-- A write above the tables keeps them. -/
theorem Paged.store {s : State} (h : Paged s) {a : Nat} (ha : 0x40000000 ≤ a) (bs : List Byte) : Paged (rawStore s a bs) := by
  have get : ∀ q, q < 0x40000000 → memGet (memWrite s.mem a bs) q = memGet s.mem q := fun q hq =>
    memGet_memWrite_out h.wf (.inl (by omega))
  have words : ∀ q, q + 8 ≤ 0x40000000 → wordAt (rawStore s a bs) q = wordAt s q := by
    intro q hq
    simp only [wordAt, numAt, bytesAt, rawStore_mem, memRead, get q (by omega), get (q + 1) (by omega), get (q + 1 + 1) (by omega),
      get (q + 1 + 1 + 1) (by omega), get (q + 1 + 1 + 1 + 1) (by omega), get (q + 1 + 1 + 1 + 1 + 1) (by omega),
      get (q + 1 + 1 + 1 + 1 + 1 + 1) (by omega), get (q + 1 + 1 + 1 + 1 + 1 + 1 + 1) (by omega)]
  exact ⟨rawStore_wf h.wf a bs, by rw [words _ (by decide)]; exact h.e1, by rw [words _ (by decide)]; exact h.e2, h.rgn, h.hbm, h.dwp⟩

theorem page_walk {s : State} (p : Paged s) (k : Nat) (va : VAddr) (h : va.toNat / 2 ^ 30 = 1) :
    walk s 0x10001 false k va = .ok ⟨BitVec.ofNat 52 (0x40000000 + va.toNat % 2 ^ 30), 30, 0x1D⟩ := by
  have f1 : fldN va 43 13 = 0 := by
    simp only [fldN, fld, BitVec.extractLsb'_toNat, Nat.shiftRight_eq_div_pow]
    omega
  have f2 : fldN va 30 13 = 1 := by
    simp only [fldN, fld, BitVec.extractLsb'_toNat, Nat.shiftRight_eq_div_pow]
    omega
  have a0 : bit (0x10001 : Word) 0 = true := by decide
  have r1 : rowOf 0x10000 = .hbm 0 := by decide
  have r2 : rowOf 0x20000 = .hbm 0 := by decide
  have r3 : rowOf 0x20008 = .hbm 0 := by decide
  have a1 : inHbm s 0x10000 = true := by simp only [inHbm, p.here r1]
  have a2 : inHbm s 0x20000 = true := by simp only [inHbm, p.here r2]
  have b1 := p.world r1
  have b2 := p.world r3
  have e1 := p.e1
  have e2 := p.e2
  have c1 : bit (0x20003 : Word) 0 = true ∧ bit (0x20003 : Word) 1 = true ∧ entryBad 0x20003 16 = false ∧ fldN (0x20003 : Word) 10 42 * 1024 = 0x20000 := by decide
  have c2 : bit (0x4000001D : Word) 0 = true ∧ bit (0x4000001D : Word) 1 = false ∧ entryBad 0x4000001D 30 = false ∧
    (fld (0x4000001D : Word) 7 2 == 3) = false ∧ pageOk 0x40000000 (2 ^ 30) = true ∧ fld (0x4000001D : Word) 0 10 = 0x1D ∧
    fldN (0x4000001D : Word) 10 42 * 1024 = 0x40000000 := by decide +kernel
  have r : fldN (0x10001 : Word) 16 36 * 0x10000 = 0x10000 := by decide
  simp only [walk, a0, r, levels, walkFrom, f1, f2, a1, Nat.mul_zero, Nat.add_zero, b1, e1, c1, a2, Nat.mul_one, b2, e2, c2,
    Nat.reduceAdd, Bool.not_true, Bool.not_false, Bool.false_eq_true, if_false, if_true, Bool.and_false, Bool.or_self]

theorem pieces_in (k : Nat) : ∀ (va n : Nat), ∀ p ∈ pieces k va n, va ≤ p.1 ∧ p.1 + p.2 ≤ va + n := by
  induction k with
  | zero => intro va n p h; cases h
  | succ k ih =>
    intro va n p h
    simp only [pieces] at h
    split at h
    · cases h
    · simp only [List.mem_cons] at h
      obtain rfl | h := h
      · exact ⟨Nat.le_refl _, by simp only; omega⟩
      · have := ih _ _ p h
        omega

theorem memGet_past {m : List Host.Cell} {a : Nat} (h : ∀ e ∈ m, e.1 < a) : memGet m a = 0 := by
  induction m with
  | nil => rfl
  | cons e m ih =>
    have h1 := h e List.mem_cons_self
    simp only [memGet, if_neg (Nat.ne_of_gt h1), if_neg (Nat.lt_asymm h1)]
    exact ih fun x hx => h x (List.mem_cons_of_mem _ hx)

theorem memRead_past {m : List Host.Cell} {a : Nat} (h : ∀ e ∈ m, e.1 < a) (n : Nat) : ∀ b ∈ memRead m a n, b = 0 := by
  induction n generalizing a with
  | zero => intro b hb; cases hb
  | succ n ih =>
    intro b hb
    simp only [memRead, List.mem_cons] at hb
    obtain rfl | hb := hb
    · exact memGet_past h
    · exact ih (fun e he => Nat.lt_succ_of_lt (h e he)) b hb

theorem page_xlate {s : State} (p : Paged s) {k : Nat} (hk : permOk k (0x1D : BitVec 10) = true) (va : VAddr) (h : va.toNat / 2 ^ 30 = 1) :
    ∃ t, xlateRoot s 0x10001 false k va = .ok t ∧ t.pa.toNat = va.toNat ∧ rowOf t.pa.toNat = .hbm 0 := by
  have hpa : (BitVec.ofNat 52 (0x40000000 + va.toNat % 2 ^ 30)).toNat = va.toNat := by
    rw [BitVec.toNat_ofNat, Nat.mod_eq_of_lt] <;> omega
  have hrow : rowOf va.toNat = .hbm 0 := by
    have h1 : va.toNat < 0x8000000000 := by omega
    have h2 : va.toNat % 0x1000000000 < 0xC00000000 := by omega
    have h3 : va.toNat / 0x1000000000 = 0 := by omega
    rw [rowOf, if_pos h1, if_pos h2, h3]
  refine ⟨⟨BitVec.ofNat 52 (0x40000000 + va.toNat % 2 ^ 30), 30, 0x1D⟩, ?_, hpa, by simp only [hpa]; exact hrow⟩
  simp only [xlateRoot, page_walk p k va h, checkTr, hk, Bool.not_true, Bool.false_eq_true, if_false, hpa, p.here hrow, p.world hrow,
    Bool.and_false]
  have hW : (⟨BitVec.ofNat 52 (0x40000000 + va.toNat % 2 ^ 30), 30, 0x1D⟩ : Tr).world = false := by
    simp only [Tr.world]; decide
  simp only [hW, Bool.false_and, Bool.false_eq_true, if_false, reduceCtorEq, ndRefused, ownNd, hpa, hrow]

theorem mask_paged : Paged maskReadState := by
  refine ⟨?_, ?_, ?_, ?_, ?_, ?_⟩ <;> decide +kernel

/-- Bytes written into the page reach memory without a fault, and leave the tasks and launches. -/
theorem page_write {s : State} (p : Paged s) {va : VAddr} {bs : List Byte} (h0 : 0x40000000 ≤ va.toNat)
    (h1 : va.toNat + bs.length ≤ 0x80000000) : ∃ y, rootWrite s 0x10001 false va bs = (y, none) ∧ Paged y ∧
      y.pkg.tasks = s.pkg.tasks ∧ y.pkg.launches = s.pkg.launches := by
  have cuts : ∀ k a n, a + n ≤ 0x80000000 → 0x40000000 ≤ a → ∀ q ∈ pageCuts k a n, 0x40000000 ≤ q.1 ∧ q.1 < 0x80000000 := by
    intro k
    induction k with
    | zero => intro a n _ _ q hq; cases hq
    | succ k ih =>
      intro a n h2 h3 q hq
      simp only [pageCuts] at hq
      split at hq
      · cases hq
      · simp only [List.mem_cons] at hq
        obtain rfl | hq := hq
        · exact ⟨h3, by simp only; omega⟩
        · exact ih _ _ (by omega) (by omega) q hq
  have steps : ∀ (l : List (Nat × Nat)) (z : State), (∀ q ∈ l, 0x40000000 ≤ q.1 ∧ q.1 < 0x80000000) → Paged z →
      ∃ y, l.foldl (fun r p => match r with
        | (s, some f) => (s, some f)
        | (s, none) =>
          match xlateRoot s 0x10001 false 2 (BitVec.ofNat 56 p.1) with
          | .error f => (s, some f)
          | .ok t =>
            let b := (bs.drop (p.1 - va.toNat)).take p.2
            (devStore s t.world t.pa.toNat b, none)) (z, none) = (y, none) ∧ Paged y ∧
          y.pkg.tasks = z.pkg.tasks ∧ y.pkg.launches = z.pkg.launches := by
    intro l
    induction l with
    | nil => intro z _ hp; exact ⟨z, rfl, hp, rfl, rfl⟩
    | cons q l ih =>
      intro z hl hp
      have hq := hl q List.mem_cons_self
      have hv : (BitVec.ofNat 56 q.1).toNat = q.1 := by rw [BitVec.toNat_ofNat, Nat.mod_eq_of_lt]; omega
      obtain ⟨t, hx, hpa, hrow⟩ := page_xlate hp (k := 2) (by decide) (BitVec.ofNat 56 q.1) (by rw [hv]; omega)
      have hs := hp.store (a := t.pa.toNat) (by omega) ((bs.drop (q.1 - va.toNat)).take q.2)
      obtain ⟨y, h2, h3, h4, h5⟩ := ih _ (fun r hr => hl r (List.mem_cons_of_mem _ hr)) hs
      refine ⟨y, ?_, h3, h4, h5⟩
      rw [← h2]
      have hd : ∀ n, dwCheck (rawStore z t.pa.toNat ((bs.drop (q.1 - va.toNat)).take q.2)) t.pa.toNat n deviceWriter = _ :=
        fun n => dwCheck_none (hs.watched t.pa.toNat n)
      simp only [List.foldl_cons, hx, devStore, homeStore, hrow, hd]
  exact steps _ s (cuts _ _ _ h1 h0) p

theorem mem_below : ∀ e ∈ maskReadState.mem, e.1 < 0x48000000 := by
  have : (maskReadState.mem.all fun e => decide (e.1 < 0x48000000)) = true := by decide +kernel
  exact fun e he => of_decide_eq_true (List.all_eq_true.mp this e he)

theorem zeros_qRead : ∃ out, qRead maskReadState 0x10001 false 0x48000000 262144 = .ok out ∧ ∀ e ∈ out, e = (0, none) := by
  have hp : maskReadState.pkg.poison = [] := by decide +kernel
  have h0 : (0x48000000 : VAddr).toNat = 0x48000000 := by decide
  have hl : ∀ p ∈ pieces (262144 / 64 + 2) (0x48000000 : VAddr).toNat 262144, 0x48000000 ≤ p.1 ∧ p.1 + p.2 ≤ 0x48040000 := by
    intro p hp
    have := pieces_in _ _ _ p hp
    rw [h0] at this
    exact ⟨this.1, Nat.le_trans this.2 (by decide)⟩
  unfold qRead
  generalize pieces (262144 / 64 + 2) (0x48000000 : VAddr).toNat 262144 = l at hl ⊢
  have hb : ∀ e ∈ ([] : List (Byte × Option Nat)), e = (0, none) := by intro e he; cases he
  generalize ([] : List (Byte × Option Nat)) = bs at hb ⊢
  induction l generalizing bs with
  | nil => exact ⟨bs, rfl, hb⟩
  | cons p l ih =>
    have hr := hl p List.mem_cons_self
    have hv : (BitVec.ofNat 56 p.1).toNat = p.1 := by rw [BitVec.toNat_ofNat, Nat.mod_eq_of_lt]; omega
    obtain ⟨t, ht, hpa, hrow⟩ := page_xlate mask_paged (k := 5) (by decide) (BitVec.ofNat 56 p.1) (by rw [hv]; omega)
    have hn : ndHold maskReadState t.pa.toNat = false := by simp only [ndHold, ownNd, hrow]
    simp only [List.foldl_cons, xlateUnit, ht, hn, Bool.false_eq_true, if_false]
    apply ih (fun q hq => hl q (List.mem_cons_of_mem _ hq))
    intro e he
    rcases List.mem_append.mp he with h | h
    · exact hb e h
    · obtain ⟨x, hx, rfl⟩ := List.mem_map.mp h
      have hx1 : x.1 ∈ homeBytes maskReadState t.pa.toNat p.2 := by
        obtain ⟨_, _, h3⟩ := List.mem_zipIdx hx
        rw [h3]; exact List.getElem_mem _
      have : x.1 = 0 := by
        simp only [homeBytes, hrow, bytesAt] at hx1
        exact memRead_past (fun e he => by have := mem_below e he; omega) _ _ hx1
      simp [this, hp]

theorem strict_of_zeros {s : State} {root : Word} {w : Bool} {va : VAddr} {n : Nat} {out : List (Byte × Option Nat)}
    (hq : qRead s root w va n = .ok out) (h2 : ∀ e ∈ out, e = (0, none)) :
    ∃ bs, qReadStrict s root w va n = .ok bs ∧ ∀ b ∈ bs, b = 0 := by
  refine ⟨out.map (·.1), ?_, ?_⟩
  · simp only [qReadStrict, hq]
    have : (out.zipIdx.findSome? fun e => e.1.2.map fun u => (u, e.2)) = none := by
      apply List.findSome?_eq_none_iff.mpr
      intro e he
      obtain ⟨_, _, h3⟩ := List.mem_zipIdx he
      rw [h3, h2 _ (List.getElem_mem _)]; rfl
    rw [this]
  · intro b hb
    obtain ⟨e, he, rfl⟩ := List.mem_map.mp hb
    rw [h2 e he]

theorem zeros_read : ∃ bs, qReadStrict maskReadState 0x10001 false 0x48000000 262144 = .ok bs ∧ ∀ b ∈ bs, b = 0 := by
  obtain ⟨out, hq, h2⟩ := zeros_qRead
  exact strict_of_zeros hq h2

theorem dfield_zeros {bs : List Byte} (h : ∀ b ∈ bs, b = 0) (o n : Nat) : dfield bs o n = 0 := by
  have : ∀ l : List Byte, (∀ b ∈ l, b = 0) → ofBytes l = 0 := by
    intro l
    induction l with
    | nil => intro _; rfl
    | cons b l ih => intro hl; rw [ofBytes, ih (fun c hc => hl c (List.mem_cons_of_mem _ hc)), hl b List.mem_cons_self]; rfl
  exact this _ fun b hb => h b (List.mem_of_mem_drop (List.mem_of_mem_take hb))

theorem witness_ConsumerAndOpticalEvents_mask : (maskReadState.spe 1).packet = some (opticPacket 2) ∧ (maskReadState.spe 1).state = .mask ∧
    (opticPacket 2).cpl = false ∧ (opticPacket 2).err = none ∧ BitVec.ofNat 56 (dfield (opticPacket 2).bytes 16 8) = (0x48000000 : VAddr) ∧
    ∃ bs, qReadStrict maskReadState (opticPacket 2).root (opticPacket 2).world 0x48000000 262144 = .ok bs ∧
      ∀ i < 65536, Parts.finite (decodeElem 0 13 (dfield bs (4 * i) 4)) = true := by
  refine ⟨rfl, rfl, by decide, rfl, by decide, ?_⟩
  obtain ⟨bs, h, hz⟩ := zeros_read
  refine ⟨bs, h, fun i _ => ?_⟩
  simp only [dfield_zeros hz]
  decide +kernel

theorem length_toBytes {w : Nat} (v : BitVec w) (n : Nat) : (toBytes v n).length = n := by
  induction n generalizing w with
  | zero => rfl
  | succ n ih => simp only [toBytes, List.length_cons, ih]

theorem quiet_paged : Paged (releaseNd quietSave 0) := by
  refine ⟨?_, ?_, ?_, ?_, ?_, ?_⟩ <;> decide +kernel

theorem area_write {s : State} {k : Task} (h : launchRoot s k.lid = (0x10001, false)) (off : Nat) (bs : List Byte) :
    areaWrite s k off bs = rootWrite s 0x10001 false (k.area + BitVec.ofNat 56 off) bs := by
  simp only [areaWrite, h]

theorem flat_length {α : Type} (l : List α) (f : α → List Byte) (n : Nat) (h : ∀ a, (f a).length = n) : (l.flatMap f).length = l.length * n := by
  induction l with
  | nil => simp
  | cons a l ih => rw [List.flatMap_cons, List.length_append, ih, h, List.length_cons, Nat.add_mul, Nat.add_comm, Nat.one_mul]
theorem flat_bytes {α : Type} {w : Nat} (l : List α) (f : α → BitVec w) (n : Nat) : (l.flatMap fun a => toBytes (f a) n).length = l.length * n :=
  flat_length l _ n fun a => length_toBytes (f a) n

theorem length_w64 (n : Nat) : (w64 n).length = 8 := length_toBytes _ _

/-- Bytes 0x88 to 0x44FF of a save area without slots and banks (R289, R290). -/
theorem image_length {u : State} {x : CtxId} (hs : slotsOwned u x = []) (hb : banksOwned u x = []) : (saveImage u x).length = 17528 := by
  have h1 : ∀ f : Eng → Option Run, (engines.flatMap fun e => match f e with
      | some r => w64 ((if r.fault.isSome then 2 ^ 63 else 0) + (progressOf u e r).toNat) | none => w64 0).length = 48 := fun f =>
    flat_length _ _ 8 fun e => by split <;> exact length_w64 _
  have h2 : ∀ o : Option (Fin 16 × Word × List Byte), (match o with
      | some (i, n, _) => w64 (2 ^ 63 + i.val) ++ toBytes n 8 | none => w64 0 ++ w64 0).length = 16 := fun o => by
    split <;> simp only [List.length_append, length_w64, length_toBytes]
  have h3 : ∀ v : Vector (Option (Vector Word 10 × Word)) 8, (v.toList.flatMap fun h => match h with
      | some (cfg, _) => cfg.toList.flatMap (toBytes · 8) | none => List.replicate 80 0).length = 8 * 80 := fun v => by
    rw [flat_length _ _ 80, Vector.length_toList]
    intro h
    split
    · rw [flat_bytes, Vector.length_toList]
    · exact List.length_replicate
  have h4 : ∀ v : Vector Table 4, (v.toList.flatMap fun t => t.bases.toList.flatMap fun b => toBytes b.addr 8 ++ toBytes b.tag 8).length = 4 * 64 := fun v => by
    rw [flat_length _ _ 64, Vector.length_toList]
    intro t
    rw [flat_length _ _ 16, Vector.length_toList]
    intro b
    rw [List.length_append, length_toBytes, length_toBytes]
  have h5 : ∀ v : Vector Table 4, (v.toList.flatMap fun t => t.code.toList.flatMap (toBytes · 4)).length = 4 * 1024 := fun v => by
    rw [flat_length _ _ 1024, Vector.length_toList]
    intro t
    rw [flat_bytes, Vector.length_toList]
  have h6 : ∀ v : Vector VReg 32, (v.toList.flatMap fun r => toBytes r.tag 2 ++ [0, 0] ++ toBytes r.ts 4 ++ w64 0 ++ toBytes r.bs 16).length = 32 * 32 :=
    fun v => by
    rw [flat_length _ _ 32, Vector.length_toList]
    intro r
    simp only [List.length_append, length_toBytes, length_w64, List.length_cons, List.length_nil]
  have h7 : ∀ (m : Nat → Bool) (f : Nat → BitVec 256), ((List.range 8).flatMap fun i => if m i then toBytes (f i) 32 else List.replicate 32 0).length = 8 * 32 :=
    fun m f => by
    rw [flat_length _ _ 32, List.length_range]
    intro i
    split
    · exact length_toBytes _ _
    · exact List.length_replicate
  have h8 : ∀ v : Vector TLoop 2, (v.toList.flatMap (·.image)).length = 2 * 16 := fun v => by
    rw [flat_length _ _ 16, Vector.length_toList]
    intro l
    rw [TLoop.image, List.length_append, length_toBytes, length_toBytes]
  have h9 : ((List.range 49).filter fun i => i / 7 ≠ i % 7).length = 42 := by decide
  have h10 : ∀ v : Vector Table 4, (v.toList.flatMap fun t => w64 t.len).length = 4 * 8 := fun v => by
    rw [flat_length _ _ 8 fun _ => length_w64 _, Vector.length_toList]
  unfold saveImage
  dsimp only
  simp only [List.length_append, hs, hb, List.flatMap_nil, List.length_nil, flat_bytes, length_toBytes, length_w64, List.length_replicate, h4, h5, h6, h7, h8, h10, List.length_map, h9, Vector.length_toList, List.length_range]
  erw [h2 ((u.cx x).eq .opp).claim, h1 fun e => ((u.cx x).eq e).run, h3 (u.cx x).shadow]

theorem witness_SchedulerEvents_save : let s := quietSave
    let k : Task := { task5 0 (some 0) with state := .saving }
    ctxTask s 0 = some k ∧ (s.cx 0).saving = some .map ∧ (∀ e ∈ engines, s.run 0 e = none) ∧ (s.cx 0).acc = [] ∧ k.heir = none ∧
    s.core.flaw = none ∧ k.core ≠ none ∧
    (let u := releaseNd s 0
     ∃ y z, areaWrite u k 0x88 (saveImage u 0) = (y, none) ∧
       areaWrite y k 0x80 (toBytes (BitVec.ofNat 64 (1 + 256 * SaveReason.map.code)) 8) = (z, none) ∧ taskOf z k.id = some k) := by
  refine ⟨by decide +kernel, by decide +kernel, by decide +kernel, by decide +kernel, by decide +kernel, by decide +kernel,
    by decide +kernel, ?_⟩
  have hr : ∀ y : State, y.pkg.launches = (releaseNd quietSave 0).pkg.launches → launchRoot y 5 = (0x10001, false) := by
    intro y h
    have : launchRoot (releaseNd quietSave 0) 5 = (0x10001, false) := by decide +kernel
    simp only [launchRoot, launchOf] at this ⊢
    rw [h]; exact this
  have hl : (saveImage (releaseNd quietSave 0) 0).length = 17528 := image_length (by decide +kernel) (by decide +kernel)
  dsimp only
  generalize saveImage (releaseNd quietSave 0) 0 = img at hl ⊢
  obtain ⟨y, e1, p1, t1, l1⟩ := page_write quiet_paged (va := 0x40003000 + BitVec.ofNat 56 0x88) (bs := img) (by decide)
    (by rw [show (0x40003000 + BitVec.ofNat 56 0x88 : VAddr).toNat = 0x40003088 from by decide]; omega)
  obtain ⟨z, e2, _, t2, _⟩ := page_write p1 (va := 0x40003000 + BitVec.ofNat 56 0x80) (bs := toBytes (BitVec.ofNat 64 (1 + 256 * SaveReason.map.code)) 8)
    (by decide) (by rw [length_toBytes]; decide)
  refine ⟨y, z, ?_, ?_, ?_⟩
  · exact (area_write (hr _ rfl) _ _).trans e1
  · exact (area_write (hr _ l1) _ _).trans e2
  · have : taskOf (releaseNd quietSave 0) 0 = some { task5 0 (some 0) with state := .saving } := by decide +kernel
    simp only [taskOf] at this ⊢
    rw [t2, t1]; exact this

/-- Engine 1 ends a shot of one 2 × 2 aperture from 0x48000000 to 0x48001000, with DG = 1 and no valid calibration. -/
def shotEndPacket : Packet :=
  ⟨16, 0, 0, false, 0x10001, [1, 0, 0, 0, 1, 0, 0, 0] ++ List.replicate 8 0 ++ toBytes 0x48000000#64 8 ++ toBytes 0x48001000#64 8 ++
    toBytes 0x000100000D680011#64 8 ++ toBytes 0x3F80#64 8 ++ List.replicate 16 0, 0, false, [], none, some 1⟩

def shotEndState : State := speumState .shot (some shotEndPacket) 1

theorem ok_of_toOption {α β : Type} {r : Except α β} {v : β} (h : r.toOption = some v) : r = .ok v := by
  cases r with
  | error _ => cases h
  | ok w => exact congrArg _ (Option.some.inj h)

theorem witness_ShotsMeasureTheirTransform :
    (let y : List Parts := [(Num.ofInt 1, Num.ofInt (-1)), (.zero, .zero)]
     let raw : List Parts := [(Num.ofInt 2, Num.ofInt (-1)), (.zero, .zero)]
     let sum := List.zipWith Parts.add raw [(.zero, .zero), (.zero, .zero)]
     let fs := Num.fin false 3 0
     let l : Limits := ⟨fs, some (Num.ofInt 1), Num.ofInt 9, y, 2⟩
     let beyond7 := fun (v : List Parts) => ((List.zipWith Parts.sub v y).filter fun e => ((Num.ofInt 9).scale (-14)).lt e.abs2).length
     (measured 0x11 true l raw []).2 = false ∧ (∀ v ∈ y, Parts.finite v = true) ∧ ((Num.ofInt 9).scale (-14)).lt .zero = false ∧
     (Num.ofInt 1).lt .zero = false ∧ neverClamps 0x11 = true ∧ neverClamps 0x1000000000011 = false ∧ raw.any (beyond fs) = false ∧
     sum.any (beyond fs) = false ∧ (Num.ofInt 1).lt (sumAbs2 (List.zipWith Parts.sub raw y)) = false ∧
     (Num.ofInt 1).lt (sumAbs2 (List.zipWith Parts.sub sum y)) = false ∧ beyond7 raw ≤ 2 ∧ beyond7 sum ≤ 2) ∧
    (let p := shotEndPacket
     let s := shotEndState
     let w := shotWord p
     let e := (s.spe 1).check (now s)
     let mask := e.masks.toList.getD ((w.toNat / 2 ^ 12) % 8) ⟨[], 0, false⟩
     (s.spe 1).state = .shot ∧ (s.spe 1).packet = some p ∧ (s.spe 1).due = false ∧ p.cpl = false ∧ dfield p.bytes 48 8 = 0 ∧
     ∃ bs, qReadStrict s p.root p.world (BitVec.ofNat 56 (dfield p.bytes 16 8))
         (fmtWidth (fldN w 19 5) / 8 * 2 ^ shotLogN w * (fldN w 32 14 + 1)) = .ok bs ∧
       (∀ l ∈ shotInput w bs, ∀ v ∈ l, Parts.finite v = true) ∧
       (let z := shotAll s w (e.calv && e.calst.getLsbD 0) (decodeReal 0 1 (dfield p.bytes 40 4)) mask (ofBytes bs) (shotInput w bs)
        (qWrite z.1 p.root p.world none deviceWriter (BitVec.ofNat 56 (dfield p.bytes 24 8))
          (z.2.flatMap fun o => o.out.flatMap (shotBytes w))).2 = none)) := by
  refine ⟨by decide +kernel, by decide +kernel, by decide +kernel, by decide +kernel, by decide +kernel, by decide +kernel,
    List.replicate 16 0, ok_of_toOption ?_, ?_, ?_⟩ <;> decide +kernel

/-- Worked by hand from R261: FWD of the 2 × 2 aperture (1, 2; 3, 4 + i) is (10 + i, −2 − i; −4 − i, i) / 2. -/
theorem test_shot_forward :
    let n := fun (i : Int) => Num.ofInt i
    (shotExact 0x11 [] 0 [(n 1, .zero), (n 2, .zero), (n 3, .zero), (n 4, n 1)]).map (fun v => ((v.1.scale 1).cmp (n 0), rne 1 (v.1.scale 1), rne 1 (v.2.scale 1))) =
      [(some .gt, 0x41200000, 0x3F800000), (some .lt, 0xC0000000, 0xBF800000), (some .lt, 0xC0800000, 0xBF800000), (some .eq, 0, 0x3F800000)] := by
  decide +kernel


/-! ### Witnesses of single clauses -/

/-- Word 1 of the line, the target of BR or CALL with off20 1, is no branch target. -/
theorem witness_TransfersOfControl_failing : hazard closedLine [] [0] = false ∧ hazard closedLine [63] [0] = false ∧
    closedLine.pred 0 ≠ (0#1 == 1) ∧
    targetCheck closedLine 0 (slotAdd (curPc closedLine) ((1 : BitVec 20).toInt)) = some ⟨0x03, 1#8 ++ 0x4000000C#56⟩ := by
  refine ⟨?_, ?_, ?_, ?_⟩ <;> decide +kernel

/-- A load that waits for flag 15 and one that waits for flag 9: its destination is pending and channel 7 keeps its range. -/
def pendingWm : State := ctx0 qState fun c => { c with acc := [{ pendingLoad with dest := some 5 }] }

theorem witness_PendingOperands_loads : hazard pendState [1, 2] [] = true ∧ hazard pendState [1] [] = true ∧
    hazard pendingWm [5, 1] [] = true ∧ hazard pendingWm [1] [] = false ∧ wmStall (issuer pendingWm) 0x1000 8 = true := by
  refine ⟨?_, ?_, ?_, ?_, ?_⟩ <;> decide +kernel

theorem witness_AtomicPerformed_home : let s := accState (.atomic .max 5 0)
    portOf (((s.cx 1).acc.find? (·.id == 7)).getD pendingLoad).home = none := by decide +kernel

/-- The access of an `accState` is performed and goes to row `r`. -/
def landState (r : Option (Option (Fin 16))) : State :=
  (accState .read).modCx 1 fun c => c.modAcc 7 fun a => { a with done := true, val := 0x80000000, row := r }

theorem witness_LoadLanding_rows : ∀ r ∈ [none, some none, some (some (3 : Fin 16))],
    ((landState r).cx 1).acc.find? (·.id == 7) = some { ((((landState none).cx 1).acc.find? (·.id == 7)).getD pendingLoad) with row := r } ∧
    ((landState r).cx 1).acc.any (fun a => a.done && a.dest == some 5 && a.test.isNone && a.due.isNone) = true := by decide +kernel

/-- The control registers that are computed, and the numbers at the ends of those of no register. -/
theorem witness_ControlRegisterReads_numbers :
    (∀ n ∈ [(0x051 : Nat), 0x056, 0x0CA, 0x102], ((crState (BitVec.ofNat 64 n) 0).reg 1).toNat = n) ∧
    (∀ n ∈ [(0x00B : Nat), 0x010, 0x017, 0x04D, 0x050, 0x057, 0x0BF, 0x0D8, 0x0FF, 0x105, 4095, 4096],
      ((crState (BitVec.ofNat 64 n) 0).reg 1).toNat = n ∧ ¬ CrListed n) ∧
    (∀ e ∈ engines, 0x051 ≤ 0x050 + engNum e ∧ 0x050 + engNum e ≤ 0x056) ∧
    (∀ k ∈ r0.pkg.scans, ¬ (k.phys = r0.core.phys ∧ k.state = 2)) ∧
    (let s := setRegs (scannedState 0 2) [(1, 0x102)]
     hazard s [5, 1] [] = false ∧ endFault s 1 = none ∧ (s.reg 1).toNat = 0x102 ∧ ∃ k, s.pkg.scans = [k] ∧ k.phys = s.core.phys ∧ k.state = 2) := by
  refine ⟨?_, ?_, ?_, ?_, ?_, ?_, ?_, ⟨_, rfl, ?_, ?_⟩⟩
  case refine_2 =>
    intro n hn
    refine ⟨by revert n; decide +kernel, ?_⟩
    unfold CrListed
    revert n
    decide
  all_goals decide +kernel

/-- s1 names NDMAN, s2 holds `v`; bank 1 is manual for context `y`, if any. -/
def ndmanState (v : Word) (y : Option CtxId) : State :=
  (crState 0x002 v).modCore fun k => { k with nd := k.nd.set 1 { k.nd.get 1 with holder := y } }

theorem witness_ControlRegisterWrites_ndman :
    (∀ y ∈ [(none : Option CtxId), some 0], let s := ctx0 (ndmanState 0x5 y) fun c => { c with ndman := if y = none then 0 else 2 }
      hazard s [1, 2] [] = false ∧ endFault s 1 = none ∧ (s.reg 1).toNat = 2 ∧ ndmanWaits s 0 5 = false ∧
      ∀ i : Fin 4, (s.reg 2).getLsbD i.val = true → ∀ z, (ndBank s i.val).holder = some z → z = 0) ∧
    (let s := ndmanState 0x3 (some 3)
     hazard s [1, 2] [] = false ∧ (s.reg 2).getLsbD 1 = true ∧ (ndBank s 1).holder = some 3 ∧ (ndBank s 0).holder = none) ∧
    (∀ n ∈ [(0x00A : Nat), 0x019, 0x036, 0x046, 0x047, 0x051, 0x056, 0x08F, 0x091, 0x09F, 0x0CA, 0x102, 0x104], CrReadOnly n) ∧
    (∀ n ∈ [(0x00B : Nat), 0x0D8, 0x105, 4095], ¬ CrListed n) := by
  refine ⟨?_, ?_, ?_, ?_⟩
  case refine_3 => unfold CrReadOnly; decide
  case refine_4 => unfold CrListed; decide
  all_goals decide +kernel

theorem witness_TrapEntry_running : (∀ r ∈ [none, some ⟨0x17, 3, false, 9, 5⟩, some ⟨0x80, 0, true, 0, 0⟩], ∀ l ∈ [true, false],
    ((trapState r l).cx 0).halted = false) := by decide +kernel

/-- The scan of core 1 has run for one pattern of its eight, or for all. -/
def runningScan (n : Nat) : State :=
  (secState true 1 1).modPkg fun p => { p with scans := [{ scanOn 1 1 with state := 2 }], stroke := BitVec.ofNat 64 n }

theorem witness_SecureInstructions_scans : (∀ n ∈ [(799 : Nat), 800], scanOf (runningScan n) 1 = some { scanOn 1 1 with state := 2 } ∧
      scanOver (runningScan n) { scanOn 1 1 with state := 2 } = (n == 800)) ∧ scanOver scanState (scanOn 1 1) = false ∧
    wmStall (issuer (secState true 1 1)) 0x40001000 8 = false := by
  refine ⟨?_, ?_, ?_⟩ <;> decide +kernel

/-- Commands with a SYNC that names the engine itself. -/
theorem witness_EngineCommands_sync : (hazard qState [1, 2, 4, 5] [] = false ∧ hazard qState [1, 5] [] = false ∧
      ringFull qState .vxe = false ∧ ringFull qState .mxe = false ∧ (issuer qState).vwait = none ∧ (issuer qState).shadow.get 0 = none) ∧
    (∃ w0 w1, encode (.vstop 0xFFF5 1 2 4 5 0) = [w0, w1]) ∧ (∃ w0 w1, encode (.vwait 0xFFF5 0 0 0 5 0) = [w0, w1]) ∧
    (∃ w0 w1, encode (.mgo 0xFFF3 1 5 0) = [w0, w1]) ∧
    (let ok := fun (y : Nat) (e : Eng) => ∀ i < 4, y / 16 ^ i % 16 = 15 ∨ (y / 16 ^ i % 16 ≤ 6 ∧ y / 16 ^ i % 16 ≠ engNum e)
     ∀ e ∈ engines, ¬ ok (0xFFF0 + engNum e) e) := by
  refine ⟨?_, ⟨_, _, rfl⟩, ⟨_, _, rfl⟩, ⟨_, _, rfl⟩, ?_⟩ <;> decide +kernel

theorem witness_ConversionMicroOrders_quantise :
    (∀ sf ∈ [(1 : Nat), 2, 3, 4], ∀ n ∈ [(5 : Nat), 6, 7, 8, 9], InRun (microState (BitVec.ofNat 16 sf) 1 (BitVec.ofNat 16 n))
        (microRun (microState (BitVec.ofNat 16 sf) 1 (BitVec.ofNat 16 n))) 0 0 [6, 4, 5] ∧ (BitVec.ofNat 16 sf).getLsbD 11 = false ∧
        partOk (fmtCount sf) (fmtCount n) 0 = true) := by
  intro sf hs n hn
  refine ⟨in_run ?_, ?_⟩ <;> revert sf n <;> decide +kernel

/-- A table run whose v4 and v5 have format `sf`; m2 names no lane. -/
def reduceState (sf : Nat) : State :=
  ctx0 (microState (BitVec.ofNat 16 sf) (BitVec.ofNat 16 sf) 1) fun c => { c with v := { c.v with masks := c.v.masks.set 2 0 } }

/-- A reduction with active elements (under m1) and one with none (under m2), of each source format. -/
theorem witness_MoveAndMask_reductions : (∀ sf ∈ [(1 : Nat), 2, 3, 4, 11],
      let s := reduceState sf
      InRun s (microRun s) 0 0 [6, 4, 5] ∧ (runner s).mask 2 = 0 ∧ active ((runner s).mask 1) (fmtWidth sf) 0 = true ∧
      ∀ v ∈ [(runner s).vreg 4, (runner s).vreg 5], v.tag.toNat % 2 ^ 5 = sf ∧ ∀ i ∈ [5, 6, 11], v.tag.getLsbD i = false) := by
  intro sf hs
  refine ⟨in_run ?_, ?_⟩ <;> revert sf <;> decide +kernel


/-! ### Witnesses: the work of engine entries -/

/-- An entry of context 0 of `s` that has begun on `e`: its operands, its progress, and what else it holds. -/
def workState (s : State) (e : Eng) (code : Nat) (a b c : Word) (n : Nat) (x : RunX) : State := s.modEq 0 e fun q => { q with
  run := some { seq := 1, hdr := hdrOf code e 0xFFFF, addr := 0x40004000, a := a, b := b, c := c, b40 := 0, prog := n, cycle := 0, stroke := 0,
                done := false, waits := false, begun := true, fault := none, early := false, fmtst := 0, accf := 0, sync := 0xFFFF,
                npdone := false, rebuilt := 0, posts := [], pend := none, x := x } }

/-- The entry that runs on `e`. -/
def theRun (s : State) (e : Eng) : Run := (s.run 0 e).getD collRun

/-- The state in which a unit of it is done. -/
def inWork (s : State) (e : Eng) : State :=
  (takeEngine s 0 e).modCore ({ · with asWorld := some ((theRun s e).hdr.getLsbD 11) })

/-- The parts of `WorksIn` for `inWork`, and that no poison and no hit stands, as one test. -/
def worksOk (s : State) (e : Eng) : Bool :=
  (s.run 0 e).any (·.begun) && mayWork s 0 e && engineFree s 0 e && s.core.flaw.isNone && s.pkg.poison.isEmpty && s.pkg.hits.isEmpty

theorem works_in {s : State} {e : Eng} (h : worksOk s e = true) :
    WorksIn s 0 e (theRun s e) (inWork s e) ∧ s.pkg.poison = [] ∧ s.pkg.hits = [] := by
  simp only [worksOk, Bool.and_eq_true, List.isEmpty_iff, Option.isNone_iff_eq_none] at h
  obtain ⟨⟨⟨⟨⟨h1, h2⟩, h3⟩, h4⟩, h5⟩, h6⟩ := h
  refine ⟨⟨?_, ?_, h2, h3, h4, rfl⟩, h5, h6⟩
  · cases hr : s.run 0 e with
    | none => simp [hr] at h1
    | some r => simp [theRun, hr]
  · cases hr : s.run 0 e with
    | none => simp [hr] at h1
    | some r => simpa [theRun, hr] using h1

/-- The parts of `UnitWrite`, for memory of an HBM stack or of a vault, as one test. -/
def unitAt (z : State) (kind : Nat) (va : VAddr) (n : Nat) : Bool :=
  decide (0 < n) && decide (va.toNat % 64 + n ≤ 64) && (actsFor z 0).isNone &&
  match unitCheck z 0 kind va with
  | .ok t => (dwAll z t.pa.toNat n false).isEmpty && (match rowOf t.pa.toNat with | .hbm _ | .vault _ => true | _ => false)
  | .error _ => false

theorem unit_of {z : State} {kind : Nat} {va : VAddr} {n : Nat} {t : Tr} (h : unitAt z kind va n = true)
    (ht : unitCheck z 0 kind va = .ok t) : UnitAt z 0 kind va n t ∧ dwAll z t.pa.toNat n false = [] := by
  simp only [unitAt, Bool.and_eq_true, decide_eq_true_eq, Option.isNone_iff_eq_none, ht, List.isEmpty_iff] at h
  obtain ⟨⟨⟨h1, h2⟩, h3⟩, h4, h5⟩ := h
  refine ⟨⟨h1, h2, ht, ?_, ?_⟩, h4⟩
  · intro m l _ hl
    rw [h3] at hl
    cases hl
  · split at h5
    · rename_i g hg
      exact mem_of_hbm hg
    · rename_i g hg
      refine ⟨?_, ?_, ?_⟩ <;> simp [hg]
    · cases h5

theorem unit_at {z : State} {kind : Nat} {va : VAddr} {n : Nat} (h : unitAt z kind va n = true) :
    ∃ t, UnitAt z 0 kind va n t ∧ dwAll z t.pa.toNat n false = [] := by
  cases ht : unitCheck z 0 kind va with
  | ok t => exact ⟨t, unit_of h ht⟩
  | error f => simp [unitAt, ht] at h

/-- `z` once the unit at `va` is translated. -/
def seen (z : State) (va : VAddr) : State := tlbFill z 0 va (okOf (unitCheck z 0 5 va) noTr)

theorem copy_units {z : State} {src dst : VAddr} {n : Nat} (h : (unitAt z 5 src n && unitAt (seen z src) 6 dst n) = true) :
    ∃ u, UnitAt z 0 5 src n u ∧ ∃ v, UnitWrite (tlbFill z 0 src u) 0 dst n v := by
  simp only [Bool.and_eq_true] at h
  cases ht : unitCheck z 0 5 src with
  | ok t => exact ⟨t, (unit_of h.1 ht).1, unit_at (by simpa [seen, ht, okOf] using h.2)⟩
  | error f => simp [unitAt, ht] at h

/-- The page of the code, and at 0x80200000 the vault of column 0, without a task. -/
def freeState : State := ctx0 { ndPage with mem := memWrite watchState.mem 0x40001000 ((List.range 256).map fun i => BitVec.ofNat 8 (i * 7 + 3)) } fun c => { c with task := none }

/-- Unit `n` of a FILL, of a CPY, and of a CPY2D of two rows, each of 100 bytes. -/
def fillWork (n : Nat) : State := workState freeState .cpe 4 0x40002000 0x1122334455667788 100 n .plain

/-- A CPY. -/
def cpyWork (n : Nat) : State := workState freeState .cpe 0 0x40001000 0x80202000 100 n .plain

/-- A CPY2D. -/
def rowsWork (n : Nat) : State := workState freeState .cpe 1 0x40001000 0x80202000 0x0003000200020064 n .plain

/-- A CPOST. -/
def postWork : State := workState freeState .cpe 6 0x40001008 5 0 0 .plain

theorem witness_Work_copies :
    (∀ n < 2, let s := fillWork n
      (WorksIn s 0 .cpe (theRun s .cpe) (inWork s .cpe) ∧ s.pkg.poison = [] ∧ s.pkg.hits = []) ∧
      ∃ v, UnitWrite (inWork s .cpe) 0 (0x40002000 + BitVec.ofNat 56 (64 * n)) (min 64 (100 - 64 * n)) v) ∧
    (∀ n < 2, let s := cpyWork n
      (WorksIn s 0 .cpe (theRun s .cpe) (inWork s .cpe) ∧ s.pkg.poison = [] ∧ s.pkg.hits = []) ∧
      ∃ u, UnitAt (inWork s .cpe) 0 5 (0x40001000 + BitVec.ofNat 56 (64 * n)) (min 64 (100 - 64 * n)) u ∧
        ∃ v, UnitWrite (tlbFill (inWork s .cpe) 0 (0x40001000 + BitVec.ofNat 56 (64 * n)) u) 0 (0x80202000 + BitVec.ofNat 56 (64 * n))
          (min 64 (100 - 64 * n)) v) ∧
    (∀ n < 4, let s := rowsWork n
      let o := 64 * (n % 2)
      (WorksIn s 0 .cpe (theRun s .cpe) (inWork s .cpe) ∧ s.pkg.poison = [] ∧ s.pkg.hits = []) ∧
      ∃ u, UnitAt (inWork s .cpe) 0 5 (0x40001000 + BitVec.ofNat 56 (128 * (n / 2) + o)) (min 64 (100 - o)) u ∧
        ∃ v, UnitWrite (tlbFill (inWork s .cpe) 0 (0x40001000 + BitVec.ofNat 56 (128 * (n / 2) + o)) u) 0
          (0x80202000 + BitVec.ofNat 56 (192 * (n / 2) + o)) (min 64 (100 - o)) v) ∧
    (WorksIn postWork 0 .cpe (theRun postWork .cpe) (inWork postWork .cpe) ∧ postWork.pkg.poison = [] ∧ postWork.pkg.hits = []) ∧
    ∃ v, UnitAt (inWork postWork .cpe) 0 3 0x40001008 8 v ∧ dwAll (inWork postWork .cpe) v.pa.toNat 8 false = [] := by
  refine ⟨fun n hn => ⟨works_in ?_, unit_at ?_⟩, fun n hn => ⟨works_in ?_, copy_units ?_⟩, fun n hn => ⟨works_in ?_, copy_units ?_⟩,
    works_in ?_, unit_at ?_⟩
  case refine_7 | refine_8 => decide +kernel
  all_goals (revert n; decide +kernel)

/-- A GATH (2) or GSCAT (3) of two elements of 8 bytes, indices 1 and 5: the table in the pinned page, the list in the vault. -/
def gathWk (code n : Nat) : State :=
  workState (ctx0 { freeState with mem := memWrite freeState.mem 0x40003000 [1, 0, 0, 0, 5] } fun c =>
    { c with pins := [⟨0x40000000, 14, 0x40000000, 0x1D⟩], tstat := 2 }) .gxe code 0x40003100 0 0 n
    (.desc (toBytes 0x40001000#64 8 ++ toBytes 0x40003000#64 8 ++ toBytes 0x80202000#64 8 ++ [2, 0, 0, 0, 3, 0, 0, 0]))

/-- The address of the index, of the element of the table and of that of the list. -/
def gathAt (n k : Nat) : VAddr :=
  if k = 0 then 0x40003000 + BitVec.ofNat 56 (4 * n) else if k = 1 then 0x40001000 + 8 * (if n = 0 then 1 else 5) else 0x80202000 + BitVec.ofNat 56 (8 * n)

theorem witness_Work_gathers : ∀ c ∈ [(2 : Nat), 3], ∀ n < 2, let s := gathWk c n
    (WorksIn s 0 .gxe (theRun s .gxe) (inWork s .gxe) ∧ s.pkg.poison = [] ∧ s.pkg.hits = []) ∧
    (∃ u, UnitAt (inWork s .gxe) 0 5 (gathAt n 0) 4 u ∧ dwAll (inWork s .gxe) u.pa.toNat 4 false = []) ∧
    ∃ u, UnitAt (seen (inWork s .gxe) (gathAt n 0)) 0 5 (gathAt n (c - 1)) 8 u ∧
      ∃ v, UnitWrite (tlbFill (seen (inWork s .gxe) (gathAt n 0)) 0 (gathAt n (c - 1)) u) 0 (gathAt n (4 - c)) 8 v := by
  intro c hc n hn
  refine ⟨works_in ?_, unit_at ?_, copy_units ?_⟩ <;> (revert c n; decide +kernel)

/-- Slot 3 is being filled by a CPS, at unit `n`. -/
def cpsWk (n : Nat) : State := workState (freeState.setSlot 3 { Slot.reset with state := 2 }) .cpe 2 0x40001000 3 2 n .plain

/-- A tile of 4-bit elements without live octets, sparse or not, has been read for slot 3. -/
def tileWork (sparse : Bool) : State :=
  let h : List Byte := [1, 7, if sparse then 1 else 0] ++ List.replicate 27 0
  let dir := toBytes 0x40010000#64 8 ++ toBytes 4#32 4 ++ toBytes 4#32 4 ++ toBytes 0x3F800000#32 4 ++ List.replicate 44 0 ++
    toBytes (BitVec.ofNat 64 (32 * 2 ^ 40)) 8
  workState (freeState.setSlot 3 { Slot.reset with state := 2, data := 0x1234 }) .gxe 0 0x40001000 3 0 0 (.tile (dir ++ h ++ toBytes (crc16 h) 2))

/-- The tile that such an entry has. -/
def tileGot (s : State) : Bool := match (theRun s .gxe).x with
  | .tile g => match tileStep (theRun s .gxe) g (fun _ _ => none) with
    | .got ⟨some (k, _), _⟩ => k.live == 0 && octets k.fmt == 32 && (pairMisuse s 3 k.fmt k.bsp).isNone
    | _ => false
  | _ => false

theorem witness_Work_fills : (∀ n ∈ [(0 : Nat), 127], let s := cpsWk n
      (WorksIn s 0 .cpe (theRun s .cpe) (inWork s .cpe) ∧ s.pkg.poison = [] ∧ s.pkg.hits = []) ∧
      ∃ u, UnitAt (inWork s .cpe) 0 5 (0x40001000 + BitVec.ofNat 56 (64 * n)) 64 u ∧ dwAll (inWork s .cpe) u.pa.toNat 64 false = []) ∧
    ∀ b ∈ [true, false], let s := tileWork b
      (WorksIn s 0 .gxe (theRun s .gxe) (inWork s .gxe) ∧ s.pkg.poison = [] ∧ s.pkg.hits = []) ∧ tileGot s = true ∧
      (s.slot 3).state = 2 ∧ (oddMisuse s 3).isNone = true := by
  refine ⟨fun n hn => ⟨works_in ?_, unit_at ?_⟩, fun b hb => ⟨works_in ?_, ?_⟩⟩
  case refine_1 | refine_2 => revert n; decide +kernel
  all_goals (revert b; decide +kernel)

/-- Bank 3 is in state `st`, with row 6 of some numbers. -/
def rowsBank (st : BitVec 2) : State :=
  freeState.setBank 3 { freeState.bank 3 with state := st, tag := 1, ts := 0x40000000, rows := (freeState.bank 3).rows.set 6 0x40A000003F800000 }

/-- An AREAD of its rows 5 and 6 into v30 and v31, at row `n`. -/
def areadWk (st : BitVec 2) (n : Nat) : State := workState (rowsBank st) .mxe 1 (BitVec.ofNat 64 (3 + 5 * 32 + 2048)) 30 0 n .plain

/-- An ADRAIN of four columns of them to the vault, in format `f` with rounding `rm`. -/
def adrainWk (st : BitVec 2) (n f rm : Nat) : State := workState (rowsBank st) .cpe 3 (BitVec.ofNat 64 (3 + 5 * 32 + 2048 + 3 * 65536))
  0x80201000 (BitVec.ofNat 64 (f + rm * 32 + 128 + 256 + 64 * 2 ^ 32)) n .plain

theorem witness_Work_banks : (∀ st ∈ [(0 : BitVec 2), 1], ∀ n < 2, let s := areadWk st n
      WorksIn s 0 .mxe (theRun s .mxe) (inWork s .mxe) ∧ s.pkg.poison = [] ∧ s.pkg.hits = []) ∧
    (∀ st ∈ [(0 : BitVec 2), 1], ∀ n < 2, ∀ f ∈ [(1 : Nat), 2, 6], let s := adrainWk st n f 2
      (WorksIn s 0 .cpe (theRun s .cpe) (inWork s .cpe) ∧ s.pkg.poison = [] ∧ s.pkg.hits = []) ∧ drainSize f ≠ 0 ∧
      (∃ v, UnitWrite (inWork s .cpe) 0 (0x80201000 + BitVec.ofNat 56 (64 * n)) (4 * drainSize f) v) ∧
      (match unitCheck (inWork s .cpe) 0 6 (0x80201000 + BitVec.ofNat 56 (64 * n)) with
       | .ok t => decide (rowOf t.pa.toNat = .vault 0) | .error _ => false) = true) := by
  refine ⟨fun st hs n hn => works_in ?_, fun st hs n hn f hf => ⟨works_in ?_, ?_, unit_at ?_, ?_⟩⟩
  case refine_1 => revert st n; decide +kernel
  all_goals (revert st n f; decide +kernel)

/-- A nest of two steps along K, octet unit `u` of step `k`: slots 0 and 1 by slots 8 and 9 into bank 3, EOP `e`, bias v7. -/
def nestState (e k u : Nat) : State :=
  let v : Slot := { Slot.reset with state := 4, tag := 2, ts := 0x40000000, live := 0xFF, data := 0x3C003C00 }
  let s := freeState.modCore fun c => { c with
    slots := (((c.slots.set 0 v).set 1 v).set 8 v).set 9 v
    banks := c.banks.set 3 { c.banks.get 3 with state := 1, tag := 1, ts := 0x40800000 } }
  let s := ctx0 s fun c => c.setVreg 7 { VReg.reset with tag := 1, data := 0xBF800000 }
  let c : NestCfg := ⟨#[0x30001010002, 1, 1, 1, 1, 1, 0x30800, 0x202, 0, BitVec.ofNat 64 (e + 0x700)], rfl⟩
  workState (setCtl s 0xF00000 0) .mxe 0 0 0 0 k (.nest c u none none)

theorem witness_Work_nests : (∀ p ∈ [(0, 0, 0), (0, 0, 7), (1, 1, 8), (2, 1, 8), (3, 0, 8)], let s := nestState p.1 p.2.1 p.2.2
      (WorksIn s 0 .mxe (theRun s .mxe) (inWork s .mxe) ∧ s.pkg.poison = [] ∧ s.pkg.hits = []) ∧ susAct s = 0 ∧
      (match (theRun s .mxe).x with
       | .nest c u _ _ => ((stepOps s c p.2.1).live s).length == 8 && u == p.2.2 && (u != 0 || (stepFault s 0 c p.2.1).isNone)
       | _ => false) = true) := by
  intro p hp
  refine ⟨works_in ?_, ?_⟩ <;> (revert p; decide +kernel)

/-- A collective of kind `k` at step `n`, rank `r` of two, of 40 elements; a chunk `b` has arrived. -/
def ringState (k r n : Nat) (b : List Byte) : State :=
  let d : List Byte := toBytes 0x40001000#64 8 ++ toBytes 0x40002000#64 8 ++ toBytes 0x40003000#64 8 ++
    [40, 0, 0, 0, 2, 1, 1, 0, 2, BitVec.ofNat 8 r, 4, 7] ++ List.replicate 28 0
  let acc := [List.replicate 32 0x3F800000, List.replicate 8 0xBF800000]
  (workState (setCtl (setCtl freeState (oLink 4) 1) (oLink 7) 1) .clp k 0x40003F00 0 0 n (.coll d n acc [[], []] (3, 5))).modPkg fun p =>
    { p with rx := if b.isEmpty then [] else [(7, 5, b)] }

/-- The chunk that such a collective takes next has the length of its part. -/
def chunkFits (s : State) (c : Nat) : Bool := match (theRun s .clp).x with
  | .coll d _ _ _ _ => (rxHead s (theRun s .clp) d).any (fun b => b.length == wireBytes (colW d) (colPart d false c).2)
  | _ => false

theorem witness_Work_collectives : (∀ k ∈ [(1 : Nat), 2], ∀ r < 2, ∀ e ∈ [((0 : Nat), ([] : List Byte)), (1, List.replicate (if r = 0 then 128 else 32) 5), (2, [])],
      let s := ringState k r e.1 e.2
      (WorksIn s 0 .clp (theRun s .clp) (inWork s .clp) ∧ s.pkg.poison = [] ∧ s.pkg.hits = []) ∧ (colRunning s 0).isSome = true ∧
      (match (theRun s .clp).x with | .coll d _ _ _ _ => (colDown s d).isNone | _ => false) = true ∧
      (e.1 = 1 → chunkFits s r = true)) ∧
    (∃ v, UnitWrite (inWork (ringState 2 1 2 []) .clp) 0 0x40002000 16 v) ∧
    ∃ v, UnitWrite (inWork (ringState 2 0 2 []) .clp) 0 0x40002000 64 v := by
  refine ⟨fun k hk r hr e he => ⟨works_in ?_, ?_⟩, unit_at ?_, unit_at ?_⟩
  case refine_3 | refine_4 => decide +kernel
  case refine_1 | refine_2 =>
    have hr : r = 0 ∨ r = 1 := by omega
    rcases hr with rfl | rfl <;> (revert k e; decide +kernel)


/-! ### Witnesses: clauses on events -/

theorem witness_EntriesStop_record : let s := (withRun (trapState none true) .vxe (hdrOf 0 .vxe 0xFFFF) false).modEq 0 .vxe fun q => { q with stop := false }
    ∃ w, xlate s 0 2 ((s.cx 0).trec.setWidth 56 + 128) = .ok w ∧ OwnSection s 0 w.pa.toNat ∧ InMemory w.pa.toNat ∧
      dwAll s w.pa.toNat 64 false = [] := by
  refine ⟨⟨0x40000280, 30, 0x1D⟩, of_isOk (by decide +kernel), own_of_none (by decide +kernel), mem_of_hbm (g := 0) (by decide +kernel),
    by decide +kernel⟩

theorem witness_MachineFaults_clauses : (let s := ctx0 lateState fun c => { c with beat := some 7 }
      unfaulted s = true ∧ (s.cx 0).beat = some 7 ∧ (s.cx 0).halted = false ∧ (s.cx 0).line = false) ∧
    (∃ a ∈ (pendState.cx 0).acc, a.id = 0) ∧ (lateState.cx 0).task.isSome = true ∧ (r0.cx 0).task.isSome = false ∧
    ((deadState.run 0 .vxe).any fun r => r.begun && !r.done) = true ∧ ((deadState.run 0 .gxe).any fun r => r.begun && !r.done) = false ∧
    region r0 0x50000000 = .hbm 0 ∧ region r0 0x10000000000 = .vault 0 ∧ region r0 0x20020000000 = .ndram 2 ∧
    ownNd r0 0x20020000000 = none := by
  refine ⟨?_, ?_, ?_, ?_, ?_, ?_, ?_, ?_, ?_, ?_⟩ <;> decide +kernel

/-- GATING since cycle 100; the cycle is `n`. -/
def gatingAt (n : Nat) : State := (idleState .gating).modCore fun k => { k with gateAt := 100, cycle := BitVec.ofNat 64 n }

/-- The launch A(3) of the boot was accepted at stroke 5; it is stroke `n`, and the DONE words at 0x50000000 are `a`, `b`. -/
def decideState (n : Nat) (a b : Word) : State :=
  { (bootState 4 false).modPkg fun p => { p with bootA := [(3, 5)], stroke := BitVec.ofNat 64 n } with
    mem := memWrite [] 0x50000000 (toBytes a 8 ++ toBytes b 8) }

theorem witness_MapPowerAndBoot_clauses : removalState.pkg.changes.contains (.elevator 5) = false ∧
    (∀ n ∈ [(100 : Nat), 163], ((gatingAt n).core.cycle - (gatingAt n).core.gateAt).toNat < 64 ∧ (gatingAt n).core.gate = .gating ∧
      isMine (gatingAt n) (lcore (gatingAt n)) = true) ∧ 64 ≤ ((gatingAt 164).core.cycle - (gatingAt 164).core.gateAt).toNat ∧
    (let late := fun (s : State) => (s.pkg.bootA.find? (·.1 == (3 : BitVec 9))).any fun e => decide (1000000000 ≤ (s.pkg.stroke - e.2).toNat)
     late (decideState 1000000005 1 1) = true ∧ late (decideState 1000000004 1 1) = false ∧ (decideState 1000000004 1 1).pkg.boot = 4 ∧
     (decideState 7 1 1).pkg.decided = [] ∧
     wordAt (decideState 7 1 0) 0x50000000 ≠ 0 ∧ wordAt (decideState 7 1 0) 0x50000008 = 0 ∧
     wordAt (decideState 7 1 0x8000000000000001) 0x50000008 ≠ 0 ∧ lmap (decideState 7 1 1) 3 = some 3) := by
  refine ⟨?_, ?_, ?_, ?_⟩ <;> decide +kernel

theorem witness_AttestReport : InMemory ((ctl busyAttest 0x5002C0).toNat % 2 ^ 52 / 32 * 32) := mem_of_hbm (g := 0) (by decide +kernel)

/-- Three bytes of a contract write across two sections of launch 5. -/
def sectionContract : State := openLine.modPkg fun p => { p with
  contracts := [⟨0x1000000FFFF, [1, 2, 3], 5, 1, false, 5, [false, false, false], 0⟩], stroke := 5, sectags := [(0, 5), (1, 5)] }

theorem witness_ContractsAndAborts : (contractState 5).pkg.hits = [] ∧ sectionOf (0x50000001 + 3 - 1) = none ∧ sectionContract.pkg.hits = [] ∧
    (∀ a ∈ [0x1000000FFFF, 0x10000010001], ∀ n, sectionOf a = some n → secTag sectionContract n = some 5) ∧
    sectionOf 0x1000000FFFF = some 0 ∧ sectionOf 0x10000010001 = some 1 ∧ dwAll sectionContract 0x1000000FFFF 3 false = [] ∧
    openLine.run 0 .clp = none ∧ colRunning openLine 0 = none ∧ (3 : Fin 12).val ≠ colNext collDesc ∧ (3 : Fin 12).val ≠ colPrev collDesc ∧
    collRun.fault = none ∧ collState.run 0 .clp = some collRun ∧ collState.pkg.colAborts = [] := by
  refine ⟨?_, ?_, ?_, ?_, ?_, ?_, ?_, ?_, ?_, ?_, ?_, ?_, ?_, ?_⟩ <;> decide +kernel

theorem witness_LaunchAccept_post : (match acceptLaunch (submitState 0x40005000 true false) (descBytes 0x40006000) 0x10001 false 0 none none none with
    | some u => (postRoot (noteBoot { u with pkg := { u.pkg with submit := none } } 0) 0x10001 false 0x40002008 1).isOk
    | none => false) = true ∧ ((savingState [pendingLoad]).cx 0).acc ≠ [] ∧ ((savingState [pendingLoad]).cx 0).saving ≠ none := by
  refine ⟨?_, ?_, ?_⟩ <;> decide +kernel

/-- The shot of `shotEndState`, whose input begins with a NaN. -/
def nanShot : State := { shotEndState with mem := memWrite shotEndState.mem 0x48000000 [0xC0, 0x7F] }

/-- Bytes that a shot packet of engine 1 reads. -/
def shotSource (s : State) (p : Packet) : Except Flt (List Byte) :=
  qReadStrict s p.root p.world (BitVec.ofNat 56 (dfield p.bytes 16 8))
    (fmtWidth (fldN (shotWord p) 19 5) / 8 * 2 ^ shotLogN (shotWord p) * (fldN (shotWord p) 32 14 + 1))

/-- A shot whose source is at 0x80000000, which its root does not map. -/
def lostShot : Packet := { shotEndPacket with bytes := shotEndPacket.bytes.take 16 ++ toBytes 0x80000000#64 8 ++ shotEndPacket.bytes.drop 24 }

theorem witness_OpticalEvents_clauses : (let s := speumState .shot (some lostShot) 1
      (s.spe 1).state = .shot ∧ shotHeld s lostShot = false ∧
      (match shotSource s lostShot with | .ok _ => false | .error f => f != heldFlt) = true) ∧
    (shotHeld nanShot shotEndPacket = false ∧ (match shotSource nanShot shotEndPacket with
      | .ok bs => (shotInput (shotWord shotEndPacket) bs).any fun l => l.any fun v => !Parts.finite v
      | .error _ => false) = true) ∧
    shotHeld shotEndState shotEndPacket = false ∧ shotEndPacket.err = none ∧
    (let p : Packet := { hubPacket 1 2 true with bytes := (hubPacket 1 2 true).bytes.set 5 1, err := some ⟨0x11, 5⟩ }
     let s := openLine.modPkg fun q => { q with packets := [p] }
     let z : State := { s with pkg := { s.pkg with packets := [] } }
     p.cpl = true ∧ p.done = true ∧ p.posts = [] ∧ p.err ≠ none ∧ qHeld s p.root p.world 6 p.compl 8 = false ∧
     (postRoot z p.root p.world p.compl 0x8000000000000001).isOk = true) ∧
    (ctl (setCtl (speumState .idle none 1) (oSpe 1) 0) (oSpe 1)).getLsbD 0 = false := by
  refine ⟨?_, ?_, ?_, ?_, ?_, ?_⟩ <;> decide +kernel


/-! ### Witnesses: the step, the encoding, the invariant -/

/-- The parts of `Fetched` as one test, and its state. -/
def fetched (s : State) (i : Instr) : Bool :=
  let x : CtxId := 0
  let u := (tick s).modCore fun k => { k with cur := x }
  let b := u.modCx x fun c =>
    { c with first := false, beat := c.beat.or (some (now u)), hbeat := if c.beat.isNone then now u else c.hbeat }
  let pc := (u.cx x).pc
  let k := wordOf pc
  decide (s.agenda = []) && (chooseCtx (tick s) == some x) && (u.cx x).acc.isEmpty && (leftLoads u x).isEmpty && !(u.cx x).first && !(u.cx x).tstat.getLsbD 2 &&
    (match fetchAt b x pc with
     | .ok t =>
       let a := t.line
       match sectionFor (tlbFill b x pc t) x a.toNat with
       | (v, ok) =>
         let l := lineSeen v a
         ok && !ndHold v a.toNat && (linePoison v a).isNone && !fetchBad l k &&
         (match modeTurn (keepLine v a l) x ((header l).getLsbD 30) with
          | none => false
          | some z => (meets z x i).isNone &&
            (match decode (lineWord l k) (if isLong (lineWord l k) then lineWord l (k + 1) else 0) with | .ok j => j == i | .error _ => false))
     | _ => false)

theorem of_fetched {s : State} {i : Instr} (h : fetched s i = true) : ∃ z, Fetched s i z := by
  simp only [fetched, Bool.and_eq_true, Bool.not_eq_true', decide_eq_true_eq, beq_iff_eq, List.isEmpty_iff] at h
  obtain ⟨⟨⟨⟨⟨⟨h1, h2⟩, h3⟩, h3'⟩, h4⟩, h5⟩, h6⟩ := h
  split at h6
  case h_2 => cases h6
  rename_i t e1
  simp only [Bool.and_eq_true, Bool.not_eq_true'] at h6
  obtain ⟨⟨⟨⟨k1, k2⟩, k3⟩, k4⟩, k5⟩ := h6
  split at k5
  case h_1 => cases k5
  rename_i z e2
  simp only [Bool.and_eq_true] at k5
  obtain ⟨k6, k7⟩ := k5
  split at k7
  case h_2 => cases k7
  rename_i j e3
  have : j = i := by simpa using k7
  exact ⟨z, 0, t, _, h1, h2, h3, h3', h4, h5, e1, Prod.ext rfl k1, k2, Option.isNone_iff_eq_none.mp k3, k4, e2, this ▸ e3,
    Option.isNone_iff_eq_none.mp k6⟩

theorem witness_StepRunsTheDecodedInstruction : (∃ z, Fetched openLine .nop z) ∧ (∃ z, Fetched (State.reset.placeCode 0xFC500000 0x000F4240) (.li 5 1000000) z) ∧
    (∃ z, Fetched (State.reset.placeCode 0x04518700 0) (.add 5 6 7) z) ∧ isEventInstr .waggleMessage = true ∧ mapDue openLine 0 = false ∧
    (match decodeMicro 0x10220C08 with | .ok i => decide (i = .vadd 2 4 3 0 1 0 0) | .error _ => false) = true := by
  refine ⟨of_fetched ?_, of_fetched ?_, of_fetched ?_, ?_, ?_, ?_⟩ <;> decide +kernel

theorem witness_DecodeUndoesEncode : Instr.wf (.add 5 63 0) = true ∧ encode (.add 5 63 0) ≠ [] ∧
    Instr.wf (.li 5 (-1)) = true ∧ encode (.li 5 (-1)) ≠ [] ∧ (∃ w, encodeMicro (.vadd 2 4 3 0 1 0 0) = some w) ∧
    Instr.wf (.vadd 2 4 3 0 1 0 0) = true := by
  refine ⟨?_, ?_, ?_, ?_, ⟨0x10220C08, ?_⟩, ?_⟩ <;> decide +kernel

theorem witness_EveryStepKeepsMemory : Memory.wf openLine = true ∧ ∃ t, step openLine = .next t := by
  refine ⟨by decide +kernel, ?_⟩
  have : gives (step openLine) (fun _ => true) = true := by decide +kernel
  revert this
  unfold gives
  split
  · rename_i t h; exact fun _ => ⟨t, h⟩
  · intro h; cases h


/-! ### Words written out from the spec's encodings (R136 to R147 and the opcode table) -/

/-- The instruction of a word or of two words. -/
def reads (w : IWord × IWord) : Option Instr := match decode w.1 w.2 with | .ok i => some i | .error _ => none

/-- The micro-order of a word. -/
noncomputable def readsMicro (w : IWord) : Option Instr := match decodeMicro w with | .ok i => some i | .error _ => none

theorem test_decode_long_form :
    ([(0xFE5002A5, 0xDEADBEEF), (0xFE5586A5, 0xDEADBEEF), (0xFE558800, 0x002DBEEF)] : List (IWord × IWord)).map reads =
    [some (.li 0x25 0x2A5DEADBEEF), some (.addli 0x25 0x16 0x2A5DEADBEEF), some (.liu 0x25 0x16 0x2DBEEF)] := by decide +kernel

theorem test_decode_engine_commands :
    ([(0x81801F32, 0xD9A9AC5A), (0x81811F32, 0xD9A9AC5A), (0x81821F32, 0xD9A9AC5A), (0x81831F32, 0xD9A9AC5A),
    (0x81841F32, 0xD9A9AC5A), (0x81851F32, 0xD9A9AC5A), (0x81861F32, 0xD9A9AC5A), (0x81871F32, 0xD9A9AC5A),
    (0x86001F32, 0xD9A9AC5A), (0x86011F32, 0xD9A9AC5A), (0x86021F32, 0xD9A9AC5A), (0x86031F32, 0xD9A9AC5A),
    (0x97001F32, 0xD9A9AC5A), (0x97011F32, 0xD9A9AC5A), (0x97021F32, 0xD9A9AC5A), (0x97031F32, 0xD9A9AC5A)] : List (IWord × IWord)).map reads =
    [some (.cpy 0x1F32 0x36 0x1A 0x26 0x2C 0x5A), some (.cpy2d 0x1F32 0x36 0x1A 0x26 0x2C 0x5A),
     some (.cps 0x1F32 0x36 0x1A 0x26 0x2C 0x5A), some (.adrain 0x1F32 0x36 0x1A 0x26 0x2C 0x5A),
     some (.fill 0x1F32 0x36 0x1A 0x26 0x2C 0x5A), some (.cmc 0x1F32 0x36 0x1A 0x26 0x2C 0x5A),
     some (.cpost 0x1F32 0x36 0x1A 0x26 0x2C 0x5A), some (.cwait 0x1F32 0x36 0x1A 0x26 0x2C 0x5A),
     some (.gexp 0x1F32 0x36 0x1A 0x26 0x2C 0x5A), some (.gexpv 0x1F32 0x36 0x1A 0x26 0x2C 0x5A),
     some (.gath 0x1F32 0x36 0x1A 0x26 0x2C 0x5A), some (.gscat 0x1F32 0x36 0x1A 0x26 0x2C 0x5A),
     some (.lsend 0x1F32 0x36 0x1A 0x26 0x2C 0x5A), some (.colar 0x1F32 0x36 0x1A 0x26 0x2C 0x5A),
     some (.colrs 0x1F32 0x36 0x1A 0x26 0x2C 0x5A), some (.colag 0x1F32 0x36 0x1A 0x26 0x2C 0x5A)] := by decide +kernel

theorem test_decode_engine_commands_more :
    ([(0x88801F32, 0xD8002C5A), (0x88811F32, 0xD9A9AC5A), (0x8D001F32, 0xD9A9AC5A), (0x8D011F32, 0xD9A9AC5A),
    (0x8D021F32, 0xD9A9AC5A), (0x8D031F32, 0xD9A9AC5A), (0x8D041F32, 0xD9A9AC5A), (0x92801F32, 0xD9A9AC5A),
    (0x92811F32, 0xD9A9AC5A), (0x92821F32, 0xD9A9AC5A)] : List (IWord × IWord)).map reads =
    [some (.mgo 0x1F32 0x36 0x2C 0x5A), some (.aread 0x1F32 0x36 0x1A 0x26 0x2C 0x5A),
     some (.vrun 0x1F32 0x36 0x1A 0x26 0x2C 0x5A), some (.vstop 0x1F32 0x36 0x1A 0x26 0x2C 0x5A),
     some (.vbase 0x1F32 0x36 0x1A 0x26 0x2C 0x5A), some (.vwait 0x1F32 0x36 0x1A 0x26 0x2C 0x5A),
     some (.vtld 0x1F32 0x36 0x1A 0x26 0x2C 0x5A), some (.oshot 0x1F32 0x36 0x1A 0x26 0x2C 0x5A),
     some (.omask 0x1F32 0x36 0x1A 0x26 0x2C 0x5A), some (.ocal 0x1F32 0x36 0x1A 0x26 0x2C 0x5A)] := by decide +kernel

theorem test_decode_sequencer_1 :
    ([(0x00000000, 0), (0x02500001, 0), (0x065D9A00, 0), (0x065D9A01, 0), (0x065D9A02, 0), (0x065D9A03, 0), (0x065D9A04, 0),
    (0x065D9A05, 0), (0x065D9A06, 0), (0x065D9A07, 0), (0x065D9A08, 0), (0x065D9A09, 0), (0x065D9A0A, 0), (0x065D9A0B, 0),
    (0x065D9A0C, 0), (0x065D9A0D, 0), (0x065D9A0E, 0), (0x065D9A0F, 0)] : List (IWord × IWord)).map reads =
    [some .nop, some (.rdstr 0x25), some (.add 0x25 0x36 0x1A), some (.sub 0x25 0x36 0x1A), some (.and 0x25 0x36 0x1A),
     some (.or 0x25 0x36 0x1A), some (.xor 0x25 0x36 0x1A), some (.andn 0x25 0x36 0x1A), some (.sll 0x25 0x36 0x1A),
     some (.srl 0x25 0x36 0x1A), some (.sra 0x25 0x36 0x1A), some (.ror 0x25 0x36 0x1A), some (.min 0x25 0x36 0x1A),
     some (.max 0x25 0x36 0x1A), some (.minu 0x25 0x36 0x1A), some (.maxu 0x25 0x36 0x1A), some (.addw 0x25 0x36 0x1A),
     some (.subw 0x25 0x36 0x1A)] := by decide +kernel

theorem test_decode_sequencer_2 :
    ([(0x065D9A10, 0), (0x065D9A11, 0), (0x0A5D9A00, 0), (0x0A5D9A01, 0), (0x0A5D9A02, 0), (0x0A5D9A03, 0), (0x0A5D9A04, 0),
    (0x0A5D9A05, 0), (0x0A5D9A06, 0), (0x0A5D9A07, 0), (0x0E5D8000, 0), (0x0E5D8001, 0), (0x0E5D8002, 0), (0x0E5D8003, 0),
    (0x0E5D8004, 0), (0x0E5D8005, 0), (0x0E5D8006, 0), (0x0E5D8007, 0)] : List (IWord × IWord)).map reads =
    [some (.adds 0x25 0x36 0x1A), some (.subs 0x25 0x36 0x1A), some (.mul 0x25 0x36 0x1A), some (.mulh 0x25 0x36 0x1A),
     some (.mulhu 0x25 0x36 0x1A), some (.mulhsu 0x25 0x36 0x1A), some (.div 0x25 0x36 0x1A), some (.divu 0x25 0x36 0x1A),
     some (.rem 0x25 0x36 0x1A), some (.remu 0x25 0x36 0x1A), some (.clz 0x25 0x36), some (.ctz 0x25 0x36),
     some (.popc 0x25 0x36), some (.sextb 0x25 0x36), some (.sexth 0x25 0x36), some (.sextw 0x25 0x36),
     some (.zextw 0x25 0x36), some (.bswap 0x25 0x36)] := by decide +kernel

theorem test_decode_sequencer_3 :
    ([(0x10559A00, 0), (0x10559A01, 0), (0x10559A02, 0), (0x10559A03, 0), (0x12558008, 0), (0x105D8009, 0), (0x1250000A, 0),
    (0x100D800B, 0), (0x125D9AFE, 0), (0x225DA5D6, 0), (0x265DA5D6, 0), (0x2A5DA5D6, 0), (0x2E5DA5D6, 0), (0x325D8016, 0),
    (0x365D8016, 0), (0x3A5D8016, 0), (0x3E5DA5D6, 0), (0x43DD9AA3, 0)] : List (IWord × IWord)).map reads =
    [some (.pand 5 0x16 0x1A), some (.por 5 0x16 0x1A), some (.pxor 5 0x16 0x1A), some (.pandn 5 0x16 0x1A),
     some (.ptos 0x25 0x16), some (.stop 5 0x36), some (.prd 0x25), some (.pwr 0x36), some (.sel 0x25 0x36 0x1A 0x1E),
     some (.addi 0x25 0x36 0x25D6), some (.andi 0x25 0x36 0x25D6), some (.ori 0x25 0x36 0x25D6),
     some (.xori 0x25 0x36 0x25D6), some (.slli 0x25 0x36 0x16), some (.srli 0x25 0x36 0x16), some (.srai 0x25 0x36 0x16),
     some (.muli 0x25 0x36 0x25D6), some (.cmp 0x1E 1 0x36 0x1A 0xA 3)] := by decide +kernel

theorem test_decode_sequencer_4 :
    ([(0x47DD96A3, 0), (0x4BDD9AA3, 0), (0x4FDD96A3, 0), (0x53D9B7D3, 0), (0x57D9B7D3, 0), (0x580D8000, 0), (0x5A5D8001, 0),
    (0x5C1D95A6, 0), (0x6256B7D3, 0), (0x66C6B7D3, 0), (0x6A56B7D3, 0), (0x6EC6B7D3, 0), (0x725D9A00, 0), (0x725D9A01, 0),
    (0x725D9A02, 0), (0x725D9A03, 0), (0x72CD9A08, 0), (0x72CD9A09, 0)] : List (IWord × IWord)).map reads =
    [some (.cmpi 0x1E 1 0x36 0x16 0xA 3), some (.cmpw 0x1E 1 0x36 0x1A 0xA 3), some (.cmpwi 0x1E 1 0x36 0x16 0xA 3),
     some (.br 0x1E 1 0x9B7D3), some (.call 0x1E 1 0x9B7D3), some (.jmp 0x36), some (.jalr 0x25 0x36),
     some (.loop 1 0x36 0x15A6), some (.ldd 0x25 0x1A 0x37D3), some (.std 0x2C 0x1A 0x37D3), some (.ldw 0x25 0x1A 0x37D3),
     some (.stw 0x2C 0x1A 0x37D3), some (.vldb 0x25 0x36 0x1A), some (.vldh 0x25 0x36 0x1A), some (.vldw 0x25 0x36 0x1A),
     some (.vldd 0x25 0x36 0x1A), some (.vstb 0x2C 0x36 0x1A), some (.vsth 0x2C 0x36 0x1A)] := by decide +kernel

theorem test_decode_sequencer_5 :
    ([(0x72CD9A0A, 0), (0x72CD9A0B, 0), (0x765D9A80, 0), (0x765D9A81, 0), (0x765D9A82, 0), (0x765D9A83, 0), (0x765D9A84, 0),
    (0x765D9A85, 0), (0x765D9A86, 0), (0x765D9A87, 0), (0x765D9A88, 0), (0x765D9A89, 0), (0x7A5D9A00, 0), (0x7A5D9A01, 0),
    (0x7A5D9A02, 0), (0x7A5D9A03, 0), (0x7A5D9A04, 0), (0x7A5D9A05, 0)] : List (IWord × IWord)).map reads =
    [some (.vstw 0x2C 0x36 0x1A), some (.vstd 0x2C 0x36 0x1A), some (.aswp 0x25 0x36 0x1A 1), some (.aadd 0x25 0x36 0x1A 1),
     some (.aand 0x25 0x36 0x1A 1), some (.aor 0x25 0x36 0x1A 1), some (.axor 0x25 0x36 0x1A 1),
     some (.amax 0x25 0x36 0x1A 1), some (.amin 0x25 0x36 0x1A 1), some (.amaxu 0x25 0x36 0x1A 1),
     some (.aminu 0x25 0x36 0x1A 1), some (.acas 0x25 0x36 0x1A 1), some (.ldbx 0x25 0x36 0x1A),
     some (.ldbux 0x25 0x36 0x1A), some (.ldhx 0x25 0x36 0x1A), some (.ldhux 0x25 0x36 0x1A), some (.ldwx 0x25 0x36 0x1A),
     some (.ldwux 0x25 0x36 0x1A)] := by decide +kernel

theorem test_decode_sequencer_6 :
    ([(0x7ACD9A08, 0), (0x7ACD9A09, 0), (0x7ACD9A0A, 0), (0x7C000500, 0), (0x7C000001, 0), (0xA0000300, 0), (0xA0000301, 0),
    (0xA25D9A02, 0), (0xA40D9A00, 0), (0xA40D9A01, 0), (0xA5ED9A02, 0), (0xA40D9A03, 0), (0xA40D8004, 0), (0xA80D8600, 0),
    (0xA8000601, 0), (0xAE5D8000, 0), (0xAC0D8001, 0), (0xAE5D8002, 0)] : List (IWord × IWord)).map reads =
    [some (.stbx 0x2C 0x36 0x1A), some (.sthx 0x2C 0x36 0x1A), some (.stwx 0x2C 0x36 0x1A), some (.mark 5), some .cbar,
     some (.tkwait 3), some (.tksend 3), some (.tkcnt 0x25 0x36 0x1A), some (.scpost 0x36 0x1A), some (.scwait 0x36 0x1A),
     some (.sctest 0x1E 0x36 0x1A), some (.clink 0x36 0x1A), some (.ckick 0x36), some (.wmwait 0x36 6), some (.wmdis 6),
     some (.wset 0x25 0x36), some (.wdis 0x36), some (.wstat 0x25 0x36)] := by decide +kernel

theorem test_decode_sequencer_7 :
    ([(0xB2500000, 0), (0xB2500001, 0), (0xB00D8002, 0), (0xB25D8003, 0), (0xB6500000, 0), (0xB40D8001, 0), (0xB40D9A02, 0),
    (0xB40D8003, 0), (0xB65D8004, 0), (0xB8000600, 0), (0xB8000601, 0), (0xBC0D9A00, 0), (0xC25B0000, 0), (0xC2C01A01, 0),
    (0xC25B0002, 0), (0xC2C01A03, 0), (0xD0000000, 0), (0xD0000001, 0)] : List (IWord × IWord)).map reads =
    [some (.claim 0x25), some (.claimp 0x25), some (.rels 0x36), some (.slotst 0x25 0x36), some (.abank 0x25),
     some (.afree 0x36), some (.aband 0x36 0x1A), some (.arelb 0x36), some (.abst 0x25 0x36), some (.lend 6),
     some (.retBank 6), some (.cbld 0x36 0x1A), some (.tagget 0x25 0x2C), some (.tagset 0x2C 0x1A), some (.tscget 0x25 0x2C),
     some (.tscset 0x2C 0x1A), some .halt, some .yield] := by decide +kernel

theorem test_decode_sequencer_8 :
    ([(0xD00D8002, 0), (0xD0000003, 0), (0xD2500004, 0), (0xE25D8000, 0), (0xE00D9A01, 0), (0xE4002600, 0), (0xE4000001, 0),
    (0xE40D8002, 0), (0xE4000003, 0), (0xE40D9A04, 0), (0xE4001A05, 0), (0xE4000006, 0), (0xEA5D8000, 0), (0xE80D9A01, 0),
    (0xE80D9A04, 0), (0xE80D8005, 0), (0xEA5D8006, 0), (0xF00D8000, 0)] : List (IWord × IWord)).map reads =
    [some (.estim 0x36), some .hbeat, some (.ackmap 0x25), some (.crr 0x25 0x36), some (.crw 0x36 0x1A), some (.trap 0x26),
     some .tret, some (.icinv 0x36), some .icinva, some (.tlbi 0x36 0x1A), some (.tlbia 0x1A), some .tlbiall,
     some (.drd 0x25 0x36), some (.dwr 0x36 0x1A), some (.scango 0x36 0x1A), some (.scanab 0x36), some (.scanst 0x25 0x36),
     some (.act 0x36)] := by decide +kernel

theorem test_decode_sequencer_9 :
    ([(0xF40D8000, 0), (0xF80D8000, 0)] : List (IWord × IWord)).map reads =
    [some (.pre 0x36), some (.ref 0x36)] := by decide +kernel

theorem test_decode_micro_orders_1 :
    ([0x00000000, 0x025B0280, 0x045002C8, 0x065002C8, 0x085002DD, 0x0A5B6A80, 0x105B6AB5, 0x125B6AB5, 0x145B6AB5, 0x165B6A9D,
    0x185B6AB5, 0x1A5B6AB5, 0x1C5B6AB1, 0x1E5B6AB1, 0x205B02B0, 0x225B02B0, 0x245B029D, 0x265B029D] : List IWord).map readsMicro =
    [some .vnop, some (.vmov 5 0x16 5), some (.vspl 5 5 9), some (.vzero 5 5 9), some (.vidx 5 5 2 1),
     some (.vsel 5 0x16 0x1A 5), some (.vadd 5 0x16 0x1A 5 6 2 1), some (.vsub 5 0x16 0x1A 5 6 2 1),
     some (.vmul 5 0x16 0x1A 5 6 2 1), some (.vdiv 5 0x16 0x1A 5 3 2 1), some (.vfma 5 0x16 0x1A 5 6 2 1),
     some (.vfnma 5 0x16 0x1A 5 6 2 1), some (.vmin 5 0x16 0x1A 5 6 1), some (.vmax 5 0x16 0x1A 5 6 1),
     some (.vabs 5 0x16 5 6), some (.vneg 5 0x16 5 6), some (.vsqrt 5 0x16 5 3 2 1), some (.vrsq 5 0x16 5 3 2 1)] := by decide +kernel

theorem test_decode_micro_orders_2 :
    ([0x285B029D, 0x2A5B029D, 0x2C5B029D, 0x2E5B02B4, 0x305B02B0, 0x325B02B0, 0x345B6AA0, 0x365B6AA0, 0x385B6AA0, 0x505B6AC1,
    0x525B6AC1, 0x545B6AC1, 0x565B6AC0, 0x585B6AC0, 0x5A5B6AC0, 0x5C5B6AC0, 0x5E5B6AC0, 0x605B6AC0] : List IWord).map readsMicro =
    [some (.vrcp 5 0x16 5 3 2 1), some (.vexp2 5 0x16 5 3 2 1), some (.vlog2 5 0x16 5 3 2 1), some (.vrint 5 0x16 5 6 2),
     some (.vfloor 5 0x16 5 6), some (.vrelu 5 0x16 5 6), some (.vcmpeq 5 0x16 0x1A 5 4), some (.vcmplt 5 0x16 0x1A 5 4),
     some (.vcmple 5 0x16 0x1A 5 4), some (.viadd 5 0x16 0x1A 5 8 1), some (.visub 5 0x16 0x1A 5 8 1),
     some (.vimul 5 0x16 0x1A 5 8 1), some (.vimin 5 0x16 0x1A 5 8), some (.vimax 5 0x16 0x1A 5 8),
     some (.viand 5 0x16 0x1A 5 8), some (.vior 5 0x16 0x1A 5 8), some (.vixor 5 0x16 0x1A 5 8), some (.visll 5 0x16 0x1A 5 8)] := by decide +kernel

theorem test_decode_micro_orders_3 :
    ([0x625B6AC0, 0x645B6AC0, 0x665B6AD9, 0x685B6AD8, 0x6A5B6AD8, 0x705B6AF5, 0x725B6AF5, 0x745B6AF5, 0x765B6AF5, 0x785B6AF5,
    0x7A5B02F0, 0x7C5B02F5, 0x7E5B0EF0, 0x905B3AED, 0x925B3ABD, 0x945B5AD5, 0x965B6AE0, 0x985B0295] : List IWord).map readsMicro =
    [some (.visrl 5 0x16 0x1A 5 8), some (.visra 5 0x16 0x1A 5 8), some (.vidot 5 0x16 0x1A 5 0xB 1),
     some (.vicmpeq 5 0x16 0x1A 5 0xB), some (.vicmplt 5 0x16 0x1A 5 0xB), some (.vcadd 5 0x16 0x1A 5 0xE 2 1),
     some (.vcsub 5 0x16 0x1A 5 0xE 2 1), some (.vcmul 5 0x16 0x1A 5 0xE 2 1), some (.vcmulj 5 0x16 0x1A 5 0xE 2 1),
     some (.vcfma 5 0x16 0x1A 5 0xE 2 1), some (.vconj 5 0x16 5 0xE), some (.vcabs2 5 0x16 5 0xE 2 1),
     some (.vcrot 5 0x16 3 5 0xE), some (.vcvt 5 0x16 0xE 5 0xD 2 1), some (.vqnt 5 0x16 0xE 5 7 2),
     some (.vcvtcb 5 0x16 2 6 5 2 1), some (.vcpk 5 0x16 0x1A 5 0xC), some (.vcre 5 0x16 5 2 2 1)] := by decide +kernel

theorem test_decode_micro_orders_4 :
    ([0x9A5B0295, 0xB05B02A1, 0xB25B02A1, 0xB45B02A1, 0xB65B02A1, 0xB85B6AA1, 0xC05B6A80, 0xC25B02AB, 0xC45B6A80, 0xC65B6A80,
    0xC85B6A80, 0xCA5B6A80, 0xCC5B02AB, 0xD0530A80, 0xD2530A80, 0xD4530A80, 0xD6530A80, 0xD8530280] : List IWord).map readsMicro =
    [some (.vcim 5 0x16 5 2 2 1), some (.vrsum 5 0x16 5 4 1), some (.vrmax 5 0x16 5 4 1), some (.vrmin 5 0x16 5 4 1),
     some (.vramax 5 0x16 5 4 1), some (.vrdot 5 0x16 0x1A 5 4 1), some (.vperm 5 0x16 0x1A 5), some (.vrot 5 0x16 5 0x2B),
     some (.vzipl 5 0x16 0x1A 5), some (.vziph 5 0x16 0x1A 5), some (.vuzpe 5 0x16 0x1A 5), some (.vuzpo 5 0x16 0x1A 5),
     some (.vbcst 5 0x16 5 0x2B), some (.mand 5 6 2 5), some (.mor 5 6 2 5), some (.mxor 5 6 2 5), some (.mandn 5 6 2 5),
     some (.mnot 5 6 5)] := by decide +kernel

theorem test_decode_micro_orders_5 :
    ([0xDA5002AB, 0xDC530280, 0xDE5B0280, 0xE0533ED3, 0xE2C33ED3, 0xE4516680, 0xE6C16680, 0xE8533C53, 0xEAC33ED3, 0xF05B36F4,
    0xF3EB6A82, 0xF5A70980, 0xF6000280] : List IWord).map readsMicro =
    [some (.mfirst 5 5 0x2B), some (.vmpop 5 6 5), some (.mfromv 5 0x16 5), some (.vld 5 1 2 0x7D3 5),
     some (.vst 0xC 1 2 0x7D3 5), some (.vldg 5 2 0x19 5), some (.vsct 0xC 2 0x19 5), some (.vldbs 5 1 2 0x7D3),
     some (.vstbs 0xC 1 2 0x7D3 5), some (.vtwid 5 0x16 0xD 5 0xE 1), some (.vdefer 0x1E 0x16 0x1A 5 2),
     some (.vloop 1 0xA7 0x26), some (.vend 5)] := by decide +kernel


/-! ### Ill-formed terms are refused (R373, R383) -/

theorem test_illformed_scalar :
    ([.cmp 1 0 2 3 12 0, .cmp 1 0 2 3 0 4, .cmpi 1 0 2 3 15 0, .cmpw 1 0 2 3 0 15, .cmpwi 1 0 2 3 12 3, .loop 0 1 0, .loop 0 1 8192,
      .mark 6, .wmwait 1 8, .wmdis 63, .lend 3, .lend 8, .retBank 0] : List Instr).all (fun i => !i.wf) = true := by decide +kernel

theorem test_illformed_bound_codes :
    ([.cpy 0 1 2 3 4 0xD0, .cpy2d 0 1 2 3 4 0xFF, .cps 0 1 2 3 4 0xE0, .adrain 0 1 2 3 4 0xD1, .fill 0 1 2 3 4 0xDF, .cmc 0 1 0 0 4 0xD0,
      .cpost 0 1 2 0 4 0xF0, .cwait 0 1 2 0 4 0xD0, .gexp 0 1 2 3 4 0xD0, .gexpv 0 1 2 3 4 0xD0, .gath 0 1 0 0 4 0xD0,
      .gscat 0 1 0 0 4 0xD0, .lsend 0 1 2 3 4 0xD0, .colar 0 1 0 0 4 0xD0, .colrs 0 1 0 0 4 0xD0, .colag 0 1 0 0 4 0xD0,
      .mgo 0 1 4 0xD0, .aread 0 1 2 3 4 0xD0, .vrun 0 1 2 3 4 0xD0, .vstop 0 1 0 0 4 0xD0, .vbase 0 1 2 3 4 0xD0, .vwait 0 0 0 0 4 0xD0,
      .vtld 0 1 2 0 4 0xD0, .oshot 0 1 2 3 4 0xD0, .omask 0 1 2 3 4 0xD0, .ocal 0 1 2 3 4 0xD0] : List Instr).all (fun i => !i.wf) = true ∧
    Instr.wf (.cpy 0 1 2 3 4 0xCF) = true ∧ Instr.wf (.vrunDrain 0 1 2 3 4 0xD0) = false ∧ Instr.wf (.vbaseDq 0 1 2 3 4 0xD0) = false := by
  decide +kernel

theorem test_illformed_micro_orders :
    ([.vspl 1 0 15, .vzero 1 0 0, .vidx 1 0 3 0, .vadd 1 2 3 0 7 0 0, .vsub 1 2 3 0 4 3 0, .vmul 1 2 3 0 8 0 0, .vfma 1 2 3 0 9 0 0,
      .vfnma 1 2 3 0 4 3 0, .vdiv 1 2 3 0 5 0 0, .vdiv 1 2 3 0 4 3 0, .vmin 1 2 3 0 7 0, .vmax 1 2 3 0 11 0, .vabs 1 2 0 8, .vneg 1 2 0 0,
      .vfloor 1 2 0 12, .vrelu 1 2 0 13, .vrint 1 2 0 4 3, .vsqrt 1 2 0 5 0 0, .vrsq 1 2 0 4 3 0, .vrcp 1 2 0 6 0 0, .vexp2 1 2 0 8 0 0,
      .vlog2 1 2 0 4 3 0] : List Instr).all (fun i => !i.wf) = true ∧
    ([.vcmpeq 1 2 3 0 2, .vcmplt 1 2 3 0 11, .vcmple 1 2 3 0 8, .viadd 1 2 3 0 4 0, .visub 1 2 3 0 9 0, .vimul 1 2 3 0 10 0, .vimin 1 2 3 0 4,
      .vimax 1 2 3 0 12, .viand 1 2 3 0 1, .vior 1 2 3 0 0, .vixor 1 2 3 0 15, .visll 1 2 3 0 9, .visrl 1 2 3 0 4, .visra 1 2 3 0 1,
      .vidot 1 2 3 0 8 0, .vicmpeq 1 2 3 0 8, .vicmplt 1 2 3 0 4] : List Instr).all (fun i => !i.wf) = true ∧
    ([.vcadd 1 2 3 0 12 0 0, .vcsub 1 2 3 0 14 3 0, .vcmul 1 2 3 0 4 0 0, .vcmulj 1 2 3 0 12 0 0, .vcfma 1 2 3 0 13 3 0, .vconj 1 2 0 12,
      .vcabs2 1 2 0 12 0 0, .vcrot 1 2 1 0 4, .vcvt 1 2 0 0 10 0 0, .vcvt 1 2 0 0 4 3 0, .vqnt 1 2 0 0 4 0, .vqnt 1 2 0 0 10 0,
      .vcvtcb 1 2 0 0 0 3 0, .vcpk 1 2 3 0 4, .vcre 1 2 0 4 0 0, .vcim 1 2 0 8 3 0, .vrsum 1 2 0 2 0, .vrmax 1 2 0 8 0, .vrmin 1 2 0 3 0,
      .vramax 1 2 0 13 0, .vrdot 1 2 3 0 8 0, .mfirst 1 0 65, .vtwid 1 2 0 0 14 0, .vtwid 1 2 17 0 14 0, .vtwid 1 2 4 0 12 0] : List Instr).all
        (fun i => !i.wf) = true := by decide +kernel

theorem test_illformed_words : ([(0x40610584, 0), (0x406105C0, 0), (0x5C110000, 0), (0x7C000600, 0), (0x81800000, 0x000000D0), (0x04000012, 0),
    (0x7C000002, 0), (0xFC003000, 0)] : List (IWord × IWord)).map reads = [none, none, none, none, none, none, none, none] ∧
    ([0x10220C3E, 0x10220C00, 0xDA000041] : List IWord).map readsMicro = [none, none, none] := by decide +kernel


/-! ### Selected encodings of the spec's programs -/

theorem test_decode_program_words : ([(0xB0C00000, 0), (0x81821FFF, 0x40D3C000), (0xB5100000, 0), (0x8880FFF3, 0x48001400), (0xB4075C02, 0),
    (0xB6810004, 0), (0x8183FFFF, 0xA4AAEC00), (0xB4010003, 0), (0xB407C001, 0)] : List (IWord × IWord)).map reads =
    [some (.claim 12), some (.cps 0x1FFF 16 13 15 0 0), some (.abank 17), some (.mgo 0xFFF3 18 20 0), some (.aband 29 28), some (.abst 40 4),
     some (.adrain 0xFFFF 41 10 43 44 0), some (.arelb 4), some (.afree 31)] ∧
    ([(0x9282FFFF, 0x44000000), (0x92802FFF, 0x48001500), (0x8D005FF5, 0), (0x8D02FFFF, 0x2D000000), (0x4426C101, 0), (0x11D04008, 0)]
      : List (IWord × IWord)).map reads =
    [some (.ocal 0xFFFF 17 0 0 0 0), some (.oshot 0x2FFF 18 0 0 21 0), some (.vrun 0x5FF5 0 0 0 0 0), some (.vbase 0xFFFF 11 16 0 0 0),
     some (.cmpi 1 0 27 1 0 1), some (.ptos 29 1)] ∧
    ([(0x0C718001, 0), (0x05450A0D, 0), (0x40459450, 0), (0x75855709, 0), (0xA4066F03, 0), (0xA40BC004, 0), (0x8187FFFF, 0xB0003000),
      (0xA40AEA01, 0), (0xA40AEC00, 0), (0xAC720000, 0), (0xD0000003, 0), (0xD0000001, 0)] : List (IWord × IWord)).map reads =
    [some (.ctz 7 6), some (.maxu 20 20 10), some (.cmp 2 0 22 20 5 0), some (.acas 24 21 23 0), some (.clink 25 47), some (.ckick 47),
     some (.cwait 0xFFFF 44 0 0 48 0), some (.scwait 43 42), some (.scpost 43 44), some (.wset 7 8), some .hbeat, some .yield] ∧
    ([(0x7040C903, 0), (0x64708003, 0), (0x8180FFFF, 0x14219400), (0x74D30881, 0), (0x00F00001, 0), (0x40240E50, 0), (0x50200004, 0),
      (0x504FFFFB, 0), (0x0524930C, 0), (0x5C14800A, 0), (0x5C064004, 0)] : List (IWord × IWord)).map reads =
    [some (.vldd 4 3 9), some (.std 7 2 3), some (.cpy 0xFFFF 5 2 6 20 0), some (.aadd 13 12 8 1), some (.rdstr 15), some (.cmp 1 0 16 14 5 0),
     some (.br 1 0 4), some (.br 2 0 0xFFFFB), some (.minu 18 18 19), some (.loop 1 18 10), some (.loop 0 25 4)] := by decide +kernel

/-! ### Single steps: results worked out by hand from the tables of R153 to R158 -/

/-- s3 after an instruction with s1 = `a` and s2 = `b`. -/
def result (i : Instr) (a b : Word) : Option Word :=
  match exec i (setRegs r0 [(1, a), (2, b)]) with | .next t => some ((t.cx 0).reg 3) | _ => none

theorem test_add_wraps : result (.add 3 1 2) (-1) 2 = some 1 ∧ result (.sub 3 1 2) 0 1 = some (-1) := by decide +kernel
theorem test_logic : result (.and 3 1 2) 12 10 = some 8 ∧ result (.or 3 1 2) 12 10 = some 14 ∧ result (.xor 3 1 2) 12 10 = some 6 ∧
    result (.andn 3 1 2) 12 10 = some 4 := by decide +kernel
theorem test_shifts_by_the_low_six_bits : result (.sll 3 1 2) 1 65 = some 2 ∧ result (.srl 3 1 2) (-1) 127 = some 1 ∧
    result (.sra 3 1 2) 0x8000000000000000 63 = some (-1) ∧ result (.ror 3 1 2) 1 1 = some 0x8000000000000000 := by decide +kernel
theorem test_minima_and_maxima : result (.min 3 1 2) (-1) 1 = some (-1) ∧ result (.max 3 1 2) (-1) 1 = some 1 ∧
    result (.minu 3 1 2) (-1) 1 = some 1 ∧ result (.maxu 3 1 2) (-1) 1 = some (-1) := by decide +kernel
theorem test_words_and_saturation : result (.addw 3 1 2) 0x7FFFFFFF 1 = some 0xFFFFFFFF80000000 ∧
    result (.subw 3 1 2) 0x80000000 1 = some 0x7FFFFFFF ∧ result (.adds 3 1 2) 0x7FFFFFFFFFFFFFFF 1 = some 0x7FFFFFFFFFFFFFFF ∧
    result (.subs 3 1 2) 0x8000000000000000 1 = some 0x8000000000000000 := by decide +kernel
theorem test_products : result (.mul 3 1 2) 0x8000000000000000 3 = some 0x8000000000000000 ∧ result (.mulh 3 1 2) (-1) (-1) = some 0 ∧
    result (.mulhu 3 1 2) (-1) (-1) = some (-2) ∧ result (.mulhsu 3 1 2) (-1) (-1) = some (-1) := by decide +kernel
theorem test_quotients : result (.div 3 1 2) (-7) 2 = some (-3) ∧ result (.rem 3 1 2) (-7) 2 = some (-1) ∧
    result (.divu 3 1 2) (-1) 2 = some 0x7FFFFFFFFFFFFFFF ∧ result (.remu 3 1 2) 7 4 = some 3 ∧ result (.div 3 1 2) 5 0 = some (-1) := by
  decide +kernel
theorem test_counts : result (.clz 3 1) 1 0 = some 63 ∧ result (.clz 3 1) 0 0 = some 64 ∧ result (.ctz 3 1) 8 0 = some 3 ∧
    result (.ctz 3 1) 0 0 = some 64 ∧ result (.popc 3 1) 0x8000000000000101 0 = some 3 := by decide +kernel
theorem test_extensions : result (.sextb 3 1) 0x180 0 = some (-128) ∧ result (.sexth 3 1) 0x8000 0 = some (-32768) ∧
    result (.sextw 3 1) 0x80000000 0 = some 0xFFFFFFFF80000000 ∧ result (.zextw 3 1) (-1) 0 = some 0xFFFFFFFF ∧
    result (.bswap 3 1) 0x0102030405060708 0 = some 0x0807060504030201 := by decide +kernel
theorem test_immediates : result (.addi 3 1 (-1)) 0 0 = some (-1) ∧ result (.andi 3 1 (-16)) 0x1FF 0 = some 0x1F0 ∧
    result (.ori 3 1 8191) 0 0 = some 0x1FFF ∧ result (.xori 3 1 (-1)) 5 0 = some (-6) ∧ result (.muli 3 1 (-2)) 3 0 = some (-6) ∧
    result (.slli 3 1 63) 3 0 = some 0x8000000000000000 ∧ result (.srli 3 1 63) (-1) 0 = some 1 ∧ result (.srai 3 1 4) (-16) 0 = some (-1) := by
  decide +kernel
theorem test_long_immediates : result (.li 3 (-1)) 0 0 = some (-1) ∧ result (.addli 3 1 0x1FFFFFFFFFF) 1 0 = some 0x20000000000 ∧
    result (.liu 3 1 1) (-1) 0 = some 0x7FFFFFFFFFF := by decide +kernel
theorem test_select_and_predicates_to_scalar : result (.sel 3 1 2 0) 5 6 = some 5 ∧ result (.sel 3 1 2 1) 5 6 = some 6 ∧
    result (.ptos 3 0) 0 0 = some 1 ∧ result (.prd 3) 0 0 = some 1 := by decide +kernel

/-- p2 after an instruction with p2 = `o`, s1 = `a`, s2 = `b`. -/
def truth (i : Instr) (o : Bool) (a b : Word) : Option Bool :=
  match exec i ((setRegs r0 [(1, a), (2, b)]).modCx 0 fun c => c.setPred 2 o) with | .next t => some ((t.cx 0).pred 2) | _ => none

theorem test_compares : truth (.cmp 2 0 1 2 2 0) false (-1) 0 = some true ∧ truth (.cmp 2 0 1 2 4 0) false (-1) 0 = some false ∧
    truth (.cmp 2 1 1 2 0 0) false 4 4 = some false ∧ truth (.cmpi 2 0 1 63 0 1) true (-1) 0 = some true ∧
    truth (.cmpw 2 0 1 2 0 0) false 0x100000005 5 = some true ∧ truth (.cmpwi 2 0 1 1 0 3) true 0x200000001 0 = some false := by decide +kernel
theorem test_predicate_logic : truth (.pand 2 0 1) true 0 0 = some false ∧ truth (.por 2 0 1) false 0 0 = some true ∧
    truth (.pxor 2 0 2) true 0 0 = some false ∧ truth (.pandn 2 0 1) false 0 0 = some true ∧ truth (.stop 2 1) false 2 0 = some true ∧
    truth (.pwr 1) false 4 0 = some true := by decide +kernel

/-! ### Single micro-orders: lane 0 of v6 with v4 = `a`, v5 = `b` -/

/-- Lane 0 of v6 after a micro-order, with lane 0 of v4, v5 and v6 `a`, `b`, `d` in format `f`. -/
noncomputable def lane (i : Instr) (f : BitVec 16) (a b d : BitVec 32) : Option (BitVec 32) :=
  let v := fun (x : BitVec 32) => { VReg.reset with data := x.setWidth 2048, tag := f }
  match exec i (ctx0 (r0.placeMicro 0) fun c => ((c.setVreg 4 (v a)).setVreg 5 (v b)).setVreg 6 (v d)) with
  | .next t => some (((t.cx 0).vreg 6).data.setWidth 32)
  | _ => none

theorem test_real_arithmetic : lane (.vadd 6 4 5 0 1 0 0) 1 0x3F800000 0x40000000 0 = some 0x40400000 ∧
    lane (.vsub 6 4 5 0 1 0 0) 1 0x3F800000 0x40000000 0 = some 0xBF800000 ∧ lane (.vmul 6 4 5 0 1 0 0) 1 0x40000000 0xC0000000 0 = some 0xC0800000 ∧
    lane (.vdiv 6 4 5 0 1 0 0) 1 0x3F800000 0x40400000 0 = some 0x3EAAAAAB ∧ lane (.vdiv 6 4 5 0 1 2 0) 1 0x3F800000 0x40400000 0 = some 0x3EAAAAAA ∧
    lane (.vfma 6 4 5 0 1 0 0) 1 0x40000000 0x40400000 0x3F800000 = some 0x40E00000 ∧
    lane (.vfnma 6 4 5 0 1 0 0) 1 0x40000000 0x40400000 0x3F800000 = some 0xC0A00000 := by decide +kernel
theorem test_real_unary : lane (.vsqrt 6 4 0 1 0 0) 1 0x40800000 0 0 = some 0x40000000 ∧ lane (.vabs 6 4 0 1) 1 0xBF800000 0 0 = some 0x3F800000 ∧
    lane (.vneg 6 4 0 1) 1 0x3F800000 0 0 = some 0xBF800000 ∧ lane (.vrint 6 4 0 1 0) 1 0x40200000 0 0 = some 0x40000000 ∧
    lane (.vfloor 6 4 0 1) 1 0xBF000000 0 0 = some 0xBF800000 ∧ lane (.vrelu 6 4 0 1) 1 0xC0000000 0 0 = some 0 ∧
    lane (.vrcp 6 4 0 1 0 0) 1 0x40000000 0 0 = some 0x3F000000 ∧ lane (.vrsq 6 4 0 1 0 0) 1 0x40800000 0 0 = some 0x3F000000 ∧
    lane (.vexp2 6 4 0 1 0 0) 1 0x40400000 0 0 = some 0x41000000 ∧ lane (.vlog2 6 4 0 1 0 0) 1 0x41000000 0 0 = some 0x40400000 := by
  decide +kernel
theorem test_real_extrema : lane (.vmin 6 4 5 0 1 0) 1 0x3F800000 0xC0000000 0 = some 0xC0000000 ∧
    lane (.vmax 6 4 5 0 1 0) 1 0x3F800000 0xC0000000 0 = some 0x3F800000 := by decide +kernel
theorem test_integers : lane (.viadd 6 4 5 0 11 0) 11 0xFFFFFFFF 2 0 = some 1 ∧ lane (.viadd 6 4 5 0 11 1) 11 0x7FFFFFFF 1 0 = some 0x7FFFFFFF ∧
    lane (.visub 6 4 5 0 11 0) 11 0 1 0 = some 0xFFFFFFFF ∧ lane (.vimul 6 4 5 0 11 0) 11 3 0xFFFFFFFE 0 = some 0xFFFFFFFA ∧
    lane (.vimin 6 4 5 0 11) 11 0xFFFFFFFF 1 0 = some 0xFFFFFFFF ∧ lane (.vimax 6 4 5 0 11) 11 0xFFFFFFFF 1 0 = some 1 ∧
    lane (.viand 6 4 5 0 11) 11 12 10 0 = some 8 ∧ lane (.vior 6 4 5 0 11) 11 12 10 0 = some 14 ∧ lane (.vixor 6 4 5 0 11) 11 12 10 0 = some 6 ∧
    lane (.visll 6 4 5 0 11) 11 1 4 0 = some 16 ∧ lane (.visrl 6 4 5 0 11) 11 0x80000000 31 0 = some 1 ∧
    lane (.visra 6 4 5 0 11) 11 0x80000000 31 0 = some 0xFFFFFFFF := by decide +kernel
theorem test_complex_and_conversions : lane (.vcmul 6 4 5 0 13 0 0) 13 0x3F803F80 0x3F803F80 0 = some 0x40000000 ∧
    lane (.vconj 6 4 0 13) 13 0x3F803F80 0 0 = some 0xBF803F80 ∧ lane (.vcadd 6 4 5 0 13 0 0) 13 0x3F803F80 0x3F803F80 0 = some 0x40004000 ∧
    lane (.vcvt 6 4 0 0 11 0 0) 1 0xC0200000 0 0 = some 0xFFFFFFFE := by decide +kernel

end Sys2Proof.Tests
end

/-! ### The hardwired registers and masks (R5) -/
namespace Sys2Proof.Machine

/-- m0 is all-true (R5). -/
@[simp] theorem Ctx.mask_zero (c : Ctx) : c.mask 0 = BitVec.allOnes 64 := rfl

/-- A write of m0 is discarded (R5). -/
@[simp] theorem Ctx.putMask_zero (c : Ctx) (k : BitVec 3) (v : BitVec 64) : c.putMask 0 k v = c := rfl

/-- A write of s0 is discarded (R5). -/
@[simp] theorem Ctx.setReg_zero (c : Ctx) (v : Word) : c.setReg 0 v = c := rfl

/-- A write of p0 is discarded (R5). -/
@[simp] theorem Ctx.setPred_zero (c : Ctx) (b : Bool) : c.setPred 0 b = c := rfl

/-- A mask other than m0 is stored. -/
theorem Ctx.mask_of_ne_zero {c : Ctx} {m : BitVec 3} (h : m ≠ 0) : c.mask m = c.v.masks[m.toNat]'m.isLt :=
  if_neg (c := m = 0) h

/-- A write of a mask other than m0 reaches the masks where the governing mask is true (R232). -/
theorem Ctx.putMask_masks {c : Ctx} {m : BitVec 3} (k : BitVec 3) (v : BitVec 64) (h : m ≠ 0) : (c.putMask m k v).v.masks =
    c.v.masks.set m.toNat ((c.mask m &&& ~~~(c.mask k)) ||| (v &&& c.mask k)) m.isLt := by
  rw [Ctx.putMask, if_neg (c := m = 0) h]

/-- A mask that was written is the new value in the lanes that the governing mask names, and its old value elsewhere (R232). -/
theorem Ctx.mask_putMask {c : Ctx} {m : BitVec 3} (k : BitVec 3) (v : BitVec 64) (h : m ≠ 0) :
    (c.putMask m k v).mask m = (c.mask m &&& ~~~(c.mask k)) ||| (v &&& c.mask k) := by
  simp only [Ctx.mask_of_ne_zero (c := c.putMask m k v) h, Ctx.putMask_masks k v h, Vector.getElem_set_self]

/-- Another mask is as it was. -/
theorem Ctx.mask_putMask_ne {c : Ctx} {m q : BitVec 3} (k : BitVec 3) (v : BitVec 64) (h : q ≠ m) :
    (c.putMask m k v).mask q = c.mask q := by
  by_cases hm : m = 0
  · rw [hm, Ctx.putMask_zero]
  by_cases hq : q = 0
  · rw [hq, Ctx.mask_zero, Ctx.mask_zero]
  have hne : m.toNat ≠ q.toNat := fun e => h (BitVec.eq_of_toNat_eq e.symm)
  simp only [Ctx.mask_of_ne_zero hq, Ctx.putMask_masks k v hm]
  exact Vector.getElem_set_ne m.isLt q.isLt hne

/-- Lane `l` of a mask that was written (R232). -/
theorem Ctx.getLsbD_mask_putMask {c : Ctx} {m : BitVec 3} (k : BitVec 3) (v : BitVec 64) (h : m ≠ 0) {l : Nat} (hl : l < 64) :
    ((c.putMask m k v).mask m).getLsbD l = if (c.mask k).getLsbD l then v.getLsbD l else (c.mask m).getLsbD l := by
  rw [Ctx.mask_putMask k v h, BitVec.getLsbD_or, BitVec.getLsbD_and, BitVec.getLsbD_and, BitVec.getLsbD_not]
  cases (c.mask k).getLsbD l <;> simp [hl]

/-- A scalar register of the issuing context reads as it was written, unless it is s0 (R5). -/
theorem State.reg_setReg {s : State} {r : BitVec 6} (v : Word) (h : r ≠ 0) : (s.setReg r v).reg r = v := by
  simp [State.reg, State.setReg, Ctx.reg_setReg _ _ _ h]

/-- Another scalar register is as it was. -/
theorem State.reg_setReg_ne {s : State} {r q : BitVec 6} (v : Word) (h : q ≠ r) : (s.setReg r v).reg q = s.reg q := by
  simp [State.reg, State.setReg, Ctx.reg_setReg_ne _ _ _ h]

/-- A predicate of the issuing context reads as it was written, unless it is p0 (R5). -/
theorem State.pred_setPred {s : State} {p : BitVec 5} (b : Bool) (h : p ≠ 0) : (s.setPred p b).pred p = b := by
  simp [State.pred, State.setPred, Ctx.pred_setPred _ _ _ h]

/-- Another predicate is as it was. -/
theorem State.pred_setPred_ne {s : State} {p q : BitVec 5} (b : Bool) (h : q ≠ p) : (s.setPred p b).pred q = s.pred q := by
  simp [State.pred, State.setPred, Ctx.pred_setPred_ne _ _ _ h]

end Sys2Proof.Machine

namespace Sys2Proof
open Machine

/-- Settles O5: the read of index 0 is fixed and its write discarded; any other index is a read after a write. -/
theorem hardwiredRegisters : Obligations.HardwiredRegisters := by
  intro s r p m k v b
  have hs : (s.setReg 0 v).cx s.core.cur = issuer s := State.cx_modCx s s.core.cur (·.setReg 0 v)
  have hp : (s.setPred 0 b).cx s.core.cur = issuer s := State.cx_modCx s s.core.cur (·.setPred 0 b)
  refine ⟨Ctx.reg_zero _, Ctx.pred_zero _, Ctx.mask_zero _, hs, hp, Ctx.putMask_zero .., fun hr => ?_, fun hp0 => ?_, fun hm => ?_⟩
  · exact ⟨State.reg_setReg v hr, fun _ hq => State.reg_setReg_ne v hq⟩
  · exact ⟨State.pred_setPred b hp0, fun _ hq => State.pred_setPred_ne b hq⟩
  · exact ⟨fun _ hl => Ctx.getLsbD_mask_putMask k v hm hl, fun _ hq => Ctx.mask_putMask_ne k v hq⟩

end Sys2Proof

/-! ### Control registers: which are listed, which may be written, what a write sets (R7, R171, R205, R222, R356, R374) -/
namespace Sys2Proof.Machine

open Bits

/-- A first test that answers some value leads to none only when it fails. -/
theorem ite_some_eq_none {α : Type} {p : Prop} [Decidable p] {a : α} {o : Option α} :
    (if p then some a else o) = none ↔ ¬ p ∧ o = none := by
  split <;> simp [*]

/-- The registers that a read gives are those listed (R171, R205, R356). -/
theorem crRead_eq_none_iff (s : State) (x : CtxId) (n : Nat) : crRead s x n = none ↔ ¬ CrListed n := by
  simp only [crRead, ite_some_eq_none, CrListed, and_true]
  omega

/-- The model's test for a register of RO fields is the claims' (R374). -/
theorem crReadOnly_iff (n : Nat) : crReadOnly n = true ↔ CrReadOnly n := by
  simp only [crReadOnly, CrReadOnly, Bool.or_eq_true, Bool.and_eq_true, decide_eq_true_eq, beq_iff_eq]
  omega

/-- A listed number is one that CRW can name. -/
theorem crNum_of_listed {v : Word} (h : CrListed v.toNat) : crNum v = some v.toNat := by
  unfold CrListed at h
  exact if_pos (by omega)

/-- An instruction of one word as TVAL gives it (R370). -/
theorem wordsVal_zero (w : IWord) : wordsVal w 0 = w.setWidth 64 := by
  refine BitVec.eq_of_getLsbD_eq fun i hi => ?_
  show (0#32 ++ w : BitVec (32 + 32)).getLsbD i = _
  rw [BitVec.getLsbD_append, BitVec.getLsbD_setWidth]
  by_cases h : i < 32
  · simp [h, hi]
  · simp [h, BitVec.getLsbD_of_ge w i (by omega)]

/-- CRW of a number that no register has, or of a register of RO fields, is ILLEGAL (R374). -/
theorem exec_crw_illegal {s : State} {a b : BitVec 6} (hz : hazard s [a, b] [] = false)
    (hn : CrReadOnly (s.reg a).toNat ∨ ¬ CrListed (s.reg a).toNat) :
    exec (.crw a b) s = .next (raised s 1 0x01 ((mkR 0x38 0 a b 1).setWidth 64)) := by
  show execCrw a b s = _
  have hf : illegalR 0x38 0 a b 1 = ⟨0x01, (mkR 0x38 0 a b 1).setWidth 64⟩ := by rw [illegalR, wordsVal_zero]
  simp only [execCrw, hz, Bool.false_eq_true, if_false, hf]
  by_cases hl : CrListed (s.reg a).toNat
  · have hro : crReadOnly (s.reg a).toNat = true := (crReadOnly_iff _).mpr (hn.resolve_right (not_not_intro hl))
    simp [crNum_of_listed hl, hro]
  · unfold crNum
    split
    · exact retire_fault ..
    · rename_i n heq
      obtain ⟨-, rfl⟩ : _ ∧ (s.reg a).toNat = n := by simpa using heq
      simp [(crRead_eq_none_iff s s.core.cur _).mpr hl]

/-- CRW of a listed register with a field to write: QBASE, NDMAN and TVEC have effects of their own, any other write sets fields. -/
theorem exec_crw_listed {s : State} {a b : BitVec 6} (hz : hazard s [a, b] [] = false)
    (hl : CrListed (s.reg a).toNat) (hro : ¬ CrReadOnly (s.reg a).toNat) :
    exec (.crw a b) s = retire s 1 (
      let n := (s.reg a).toNat
      let v := s.reg b
      if 0x011 ≤ n ∧ n ≤ 0x016 then qbaseRes s (engAt (n - 0x010)) v
      else if n = 0x002 then ndmanRes s v
      else if n = 0x041 then .done (tvecSet s s.core.cur v)
      else if 0x100 ≤ n then .done (coreSet s n v (issuer s).world)
      else .done (s.modCx s.core.cur (·.crSet n v))) := by
  show execCrw a b s = _
  have hsome : (crRead s s.core.cur (s.reg a).toNat).isNone = false := by
    simpa [Bool.eq_false_iff, crRead_eq_none_iff] using hl
  have hw : crReadOnly (s.reg a).toNat = false := by simpa [Bool.eq_false_iff, crReadOnly_iff] using hro
  simp only [execCrw, hz, crNum_of_listed hl, hsome, hw, Bool.or_self, Bool.false_eq_true, if_false, issuer]

/-! ### The fields that a write sets -/

/-- The numbers whose write only sets fields of the context, those of the hardware loops apart. -/
abbrev CrPlain (n : Nat) : Prop :=
  n ≤ 0x001 ∨ n = 0x003 ∨ n = 0x040 ∨ (0x042 ≤ n ∧ n ≤ 0x045) ∨ (0x048 ≤ n ∧ n ≤ 0x04C) ∨ (0x080 ≤ n ∧ n ≤ 0x087) ∨
    n = 0x090 ∨ (0x0C0 ≤ n ∧ n ≤ 0x0C9) ∨ (0x0CB ≤ n ∧ n ≤ 0x0D7)

/-- The numbers of the hardware-loop registers (R163). -/
abbrev CrLoop (n : Nat) : Prop := 0x004 ≤ n ∧ n ≤ 0x009

/-- CRW of a context register without effects of its own. -/
theorem exec_crw_crSet {s : State} {a b : BitVec 6} (hz : hazard s [a, b] [] = false)
    (hn : CrPlain (s.reg a).toNat ∨ CrLoop (s.reg a).toNat) :
    exec (.crw a b) s = retire s 1 (.done (s.modCx s.core.cur (·.crSet (s.reg a).toNat (s.reg b)))) := by
  have hl : CrListed (s.reg a).toNat := by unfold CrListed; omega
  have hro : ¬ CrReadOnly (s.reg a).toNat := by unfold CrReadOnly; omega
  rw [exec_crw_listed hz hl hro]
  dsimp only
  rw [if_neg (by omega), if_neg (by omega), if_neg (by omega), if_neg (by omega)]

/-- CRW of number `m`, whose write changes the context by `f`, which keeps the hardware loops (R7). -/
theorem exec_crw_plain {s : State} {a b : BitVec 6} {m : Nat} {f : Ctx → Ctx} (hz : hazard s [a, b] [] = false)
    (he : endFault s 1 = none) (hm : (s.reg a).toNat = m) (hp : CrPlain m) (hf : (issuer s).crSet m (s.reg b) = f (issuer s))
    (hloops : (f (issuer s)).loops = (issuer s).loops) :
    exec (.crw a b) s = .next (ended s 1 (s.modCx s.core.cur f)) := by
  have hset : s.modCx s.core.cur (·.crSet m (s.reg b)) = s.modCx s.core.cur f := congrArg (s.setCx s.core.cur) hf
  rw [exec_crw_crSet hz (.inl (hm ▸ hp)), hm, hset]
  exact retire_done he (by rwa [State.cx_modCx])

/-- An effect whose end step is no end of a loop (R162): the context goes on at the next instruction. -/
theorem retire_done_of_endStep {s t : State} {w : Nat} {c : Ctx} (ht : t.cx s.core.cur = c)
    (he : endStep c (curPc s) (slotAdd (curPc s) w) = (c, slotAdd (curPc s) w, false)) :
    retire s w (.done t) = .next ((t.setCx s.core.cur c).issued (slotAdd (curPc s) w)) := by
  unfold curPc at he
  simp [retire, finish, ht, he, curPc]

/-- CRW of a hardware-loop register that leaves the context as `c`, in which the instruction ends no loop (R162, R163). -/
theorem exec_crw_loop {s : State} {a b : BitVec 6} {m : Nat} {c : Ctx} (hz : hazard s [a, b] [] = false)
    (hm : (s.reg a).toNat = m) (hp : CrLoop m) (hf : (issuer s).crSet m (s.reg b) = c)
    (he : endStep c (curPc s) (slotAdd (curPc s) 1) = (c, slotAdd (curPc s) 1, false)) :
    exec (.crw a b) s = .next ((s.setCx s.core.cur c).issued (slotAdd (curPc s) 1)) := by
  have hset : s.modCx s.core.cur (·.crSet m (s.reg b)) = s.setCx s.core.cur c := congrArg (s.setCx s.core.cur) hf
  have hr := retire_done_of_endStep (t := s.setCx s.core.cur c) (w := 1) (State.cx_setCx ..) he
  rw [exec_crw_crSet hz (.inr (hm ▸ hp)), hm, hset, hr, State.setCx_setCx]
  rfl

/-! ### The fields of each context register -/

/-- A write inside the bounds. -/
theorem setIfInBounds_eq_set {α : Type} {n i : Nat} (l : Vector α n) (a : α) (h : i < n) : l.setIfInBounds i a = l.set i a h :=
  Vector.ext fun j hj => by simp only [Vector.getElem_setIfInBounds, Vector.getElem_set]

/-- A field at bit 0 is the low end of the word. -/
theorem fld_zero {n len : Nat} (w : BitVec n) (h : len ≤ n) : fld w 0 len = w.setWidth len :=
  (BitVec.setWidth_eq_extractLsb' h).symm

/-- A written address keeps bits 55 to 2 of the word (R163, R356). -/
theorem addr2_eq (v : Word) : addr2 v = (v &&& 0xFFFFFFFFFFFFFC).setWidth 56 := by
  have hmask : (0xFFFFFFFFFFFFFC : Word) = (BitVec.allOnes 54).setWidth 64 <<< 2 := by decide
  refine BitVec.eq_of_getLsbD_eq fun i hi => ?_
  show (v.extractLsb' 2 54 ++ 0#2 : BitVec (54 + 2)).getLsbD i = _
  simp only [hmask, BitVec.getLsbD_append, BitVec.getLsbD_extractLsb', BitVec.getLsbD_setWidth, BitVec.getLsbD_and,
    BitVec.getLsbD_shiftLeft, BitVec.getLsbD_allOnes, BitVec.getLsbD_zero]
  by_cases h2 : i < 2
  · simp [h2]
  · have h56 : i < 64 ∧ i - 2 < 54 ∧ i - 2 < 64 ∧ 2 + (i - 2) = i := by omega
    simp [h2, hi, h56]

section ContextFields

variable (c : Ctx) (v : Word)

theorem Ctx.crSet_efl : c.crSet 0x000 v = { c with efl := v &&& 0x3F3F3F3F } := rfl
theorem Ctx.crSet_troot : c.crSet 0x001 v = { c with troot := v &&& 0xFFFFFFFFFFFF0001 } := rfl
theorem Ctx.crSet_fmtst : c.crSet 0x003 v = { c with fmtst := c.fmtst &&& ~~~(v.setWidth 3) } := by
  rw [← fld_zero v (by decide)]; rfl
theorem Ctx.crSet_tctl : c.crSet 0x040 v = { c with tctl := v &&& 7 } := rfl
theorem Ctx.crSet_thcode : c.crSet 0x042 v = { c with thcode := v &&& 0xFFFFFFFFFFC07F } := rfl
theorem Ctx.crSet_thdata : c.crSet 0x043 v = { c with thdata := v &&& 0xFFFFFFFFFFC07F } := rfl
theorem Ctx.crSet_trec : c.crSet 0x044 v = { c with trec := v &&& 0xFFFFFFFFFFFE00 } := rfl
theorem Ctx.crSet_tpc : c.crSet 0x045 v = { c with tpc := (v &&& 0xFFFFFFFFFFFFFC).setWidth 56 } := by
  rw [← addr2_eq]; rfl
theorem Ctx.crSet_tstat : c.crSet 0x04C v = { c with tstat := c.tstat &&& ~~~(v &&& 0x14) } := rfl
theorem Ctx.crSet_kick : c.crSet 0x090 v = { c with kick := v.setWidth 16 } := by
  rw [← fld_zero v (by decide)]; rfl
theorem Ctx.crSet_accf : c.crSet 0x0CB v = { c with accf := c.accf &&& ~~~(v.setWidth 2) } := by
  rw [← fld_zero v (by decide)]; rfl

/-- The four scratch registers of the trap handler hold whole words (R356). -/
theorem Ctx.crSet_tscr (i : Fin 4) : c.crSet (0x048 + i.val) v = { c with tscr := c.tscr.set i.val v } := by
  have hi := i.isLt
  simp (disch := omega) only [Ctx.crSet, if_neg, if_pos, Nat.add_sub_cancel_left, setIfInBounds_eq_set]

/-- A write of 1 to ARMED disarms the watermark; any other write changes nothing (R205). -/
theorem Ctx.crSet_wm (i : Fin 8) : c.crSet (0x080 + i.val) v = if v.getLsbD 63 then c.disarm i.val else c := by
  have hi := i.isLt
  simp (disch := omega) only [Ctx.crSet, if_neg, if_pos, Nat.add_sub_cancel_left, bit]

/-- The RW bits of the matrix configuration registers (R145, R222). -/
theorem mxcMask_eq : ∀ i : Fin 10, mxcMask i.val =
    [0x7FFFFFFFFFF, 0x7FFFFFFFFFF, 0x7FFFFFFFFFF, 0x7FFFFFFFFFF, 0x7FFFFFFFFFF, 0x7FFFFFFFFFF, 0x1F3F3F, 0x7F1F, 0x73F3F3F,
      0x1F07].getD i.val 0 := by
  decide

/-- A matrix configuration register keeps its RW bits (R222). -/
theorem Ctx.crSet_mxc (i : Fin 10) : c.crSet (0x0C0 + i.val) v = { c with mxc := c.mxc.set i.val (v &&& mxcMask i.val) } := by
  have hi := i.isLt
  simp (disch := omega) only [Ctx.crSet, if_neg, if_pos, Nat.add_sub_cancel_left, setIfInBounds_eq_set]

/-- The registers after MXC11 hold no field (R222). -/
theorem Ctx.crSet_reserved {n : Nat} (h : 0x0CC ≤ n) : c.crSet n v = c := by
  simp (disch := omega) only [Ctx.crSet, if_neg]

/-- HLCNT of a level is its ACT and its count (R163). -/
theorem Ctx.crSet_hlcnt (l : Fin 2) : c.crSet (0x004 + l.val) v =
    { c with loops := c.loops.set l.val { c.loops.get l with act := v.getLsbD 32, count := v.setWidth 32 } } := by
  rw [← fld_zero v (by decide)]
  match l with | 0 | 1 => rfl

/-- HLSTART of a level is an instruction address (R163). -/
theorem Ctx.crSet_hlstart (l : Fin 2) : c.crSet (0x006 + l.val) v =
    { c with loops := c.loops.set l.val { c.loops.get l with start := (v &&& 0xFFFFFFFFFFFFFC).setWidth 56 } } := by
  rw [← addr2_eq]
  match l with | 0 | 1 => rfl

/-- HLFIN of a level is an instruction address (R163). -/
theorem Ctx.crSet_hlfin (l : Fin 2) : c.crSet (0x008 + l.val) v =
    { c with loops := c.loops.set l.val { c.loops.get l with fin := (v &&& 0xFFFFFFFFFFFFFC).setWidth 56 } } := by
  rw [← addr2_eq]
  match l with | 0 | 1 => rfl

end ContextFields

/-! ### Core registers (R73, R176) -/

/-- A core register write changes no context. -/
@[simp] theorem coreSet_cx (s : State) (n : Nat) (v : Word) (w : Bool) (x : CtxId) : (coreSet s n v w).cx x = s.cx x := by
  unfold coreSet
  split
  · rfl
  · split <;> rfl

/-- CRW of a core register with fields to write. -/
theorem exec_crw_core {s t : State} {a b : BitVec 6} {m : Nat} (hz : hazard s [a, b] [] = false) (he : endFault s 1 = none)
    (hm : (s.reg a).toNat = m) (hp : m = 0x100 ∨ m = 0x101) (ht : coreSet s m (s.reg b) (issuer s).world = t) :
    exec (.crw a b) s = .next (ended s 1 t) := by
  have hl : CrListed (s.reg a).toNat := by unfold CrListed; omega
  have hro : ¬ CrReadOnly (s.reg a).toNat := by unfold CrReadOnly; omega
  rw [exec_crw_listed hz hl hro]
  dsimp only
  rw [if_neg (by omega), if_neg (by omega), if_neg (by omega), if_pos (by omega), hm, ← ht]
  exact retire_done he (by rw [coreSet_cx])

/-- Only a secure context sets the seed (R73). -/
theorem coreSet_srseed (s : State) (v : Word) (w : Bool) : coreSet s 0x100 v w =
    { s with core := if w then { s.core with srseed := v &&& 0xFFFFFFFF } else s.core } := by
  cases w <;> rfl

/-- The self-test status keeps its writable fields (R176). -/
theorem coreSet_bistst (s : State) (v : Word) (w : Bool) : coreSet s 0x101 v w =
    { s with core := { s.core with bistst := v &&& 0xFFFFFFFF00000007 } } := rfl

/-! ### NDMAN (R98, R393) -/

/-- CRW of NDMAN. -/
theorem exec_crw_ndman {s : State} {a b : BitVec 6} (hz : hazard s [a, b] [] = false) (hn : (s.reg a).toNat = 0x002) :
    exec (.crw a b) s = retire s 1 (ndmanRes s (s.reg b)) := by
  have hl : CrListed (s.reg a).toNat := by unfold CrListed; omega
  have hro : ¬ CrReadOnly (s.reg a).toNat := by unfold CrReadOnly; omega
  rw [exec_crw_listed hz hl hro]
  dsimp only
  rw [if_neg (by omega), if_pos hn]

/-- A near-DRAM bank after a write of NDMAN by context `x` at stroke value `t`: its bit was `old` and is `new` (R98). -/
def NdBank.handed (b : NdBank) (x : CtxId) (t : Word) (old new : Bool) : NdBank :=
  if new && !old then { b.precharged t with holder := some x, refAt := t }
  else if !new && old then { b.precharged t with holder := none } else b

/-- `s` with the near-DRAM banks of the quarter `nd`. -/
def State.withNd (s : State) (nd : Vector NdBank 4) : State := { s with core := { s.core with nd := nd } }

/-- Replacing one bank leaves the others in place. -/
theorem setNd_eq_withNd (s : State) (i : Nat) (b : NdBank) : setNd s i b = s.withNd (s.core.nd.setIfInBounds i b) := rfl

theorem ndBank_eq_getElem (s : State) {i : Nat} (h : i < 4) : ndBank s i = s.core.nd[i] := by
  simp [ndBank, List.getD_eq_getElem?_getD, h]

/-- Replacing a bank by itself changes nothing. -/
theorem setNd_ndBank (s : State) (i : Nat) : setNd s i (ndBank s i) = s := by
  rw [setNd_eq_withNd]
  refine congrArg s.withNd (Vector.ext fun j hj => ?_)
  by_cases h : i = j
  · subst h
    rw [Vector.getElem_setIfInBounds_self, ndBank_eq_getElem s hj]
  · exact Vector.getElem_setIfInBounds_ne hj h

/-- The banks below `n`, replaced in their order, each by what `g` makes of it. -/
theorem foldl_setNd (s : State) (g : Nat → Word → NdBank → NdBank) (n : Nat) :
    (List.range n).foldl (fun u i => setNd u i (g i (now u) (ndBank u i))) s =
      s.withNd (s.core.nd.mapIdx fun i b => if i < n then g i (now s) b else b) := by
  induction n with
  | zero => exact (congrArg s.withNd (Vector.ext fun j hj => by simp)).symm
  | succ n ih =>
    rw [List.range_succ, List.foldl_append, ih]
    rw [List.foldl_cons, List.foldl_nil, setNd_eq_withNd]
    refine congrArg s.withNd (Vector.ext fun j hj => ?_)
    by_cases h : n = j
    · subst h
      rw [Vector.getElem_setIfInBounds_self, ndBank_eq_getElem _ hj]
      simp only [State.withNd, now, Vector.getElem_mapIdx, if_neg (Nat.lt_irrefl n), if_pos (Nat.lt_succ_self n)]
    · have hlt : j < n + 1 ↔ j < n := by omega
      rw [Vector.getElem_setIfInBounds_ne hj h]
      simp only [State.withNd, Vector.getElem_mapIdx, hlt]

/-- A write of NDMAN changes each bank by its own bit, and the register (R98). -/
theorem ndmanSet_eq (s : State) (x : CtxId) (v : BitVec 4) : ndmanSet s x v =
    (s.withNd (s.core.nd.mapIdx fun i b => b.handed x (now s) (bit (s.cx x).ndman i) (bit v i))).modCx x ({ · with ndman := v }) := by
  have hfold := foldl_setNd s (fun i t b => b.handed x t (bit (s.cx x).ndman i) (bit v i)) 4
  have hall : (s.core.nd.mapIdx fun i b => if i < 4 then b.handed x (now s) (bit (s.cx x).ndman i) (bit v i) else b) =
      s.core.nd.mapIdx fun i b => b.handed x (now s) (bit (s.cx x).ndman i) (bit v i) :=
    Vector.ext fun j hj => by simp [hj]
  rw [← hall, ← hfold]
  refine congrArg (fun f => ((List.range 4).foldl f s).modCx x ({ · with ndman := v })) (funext fun u => funext fun i => ?_)
  dsimp only
  cases bit v i <;> cases bit (s.cx x).ndman i
  case false.true | true.false => rfl
  case false.false | true.true => exact (setNd_ndBank u i).symm

/-- A bank after a write of NDMAN. -/
theorem ndBank_ndmanSet (s : State) (x : CtxId) (v : BitVec 4) {i : Nat} (h : i < 4) :
    ndBank (ndmanSet s x v) i = (ndBank s i).handed x (now s) (bit (s.cx x).ndman i) (bit v i) := by
  rw [ndBank_eq_getElem _ h, ndBank_eq_getElem _ h, ndmanSet_eq]
  exact Vector.getElem_mapIdx ..

/-- The context that writes NDMAN holds what it wrote. -/
theorem cx_ndmanSet (s : State) (x : CtxId) (v : BitVec 4) : (ndmanSet s x v).cx x = { s.cx x with ndman := v } := by
  rw [ndmanSet_eq, State.cx_modCx]
  rfl

/-- Another context is as it was. -/
theorem cx_ndmanSet_ne (s : State) {x y : CtxId} (v : BitVec 4) (h : y ≠ x) : (ndmanSet s x v).cx y = s.cx y := by
  rw [ndmanSet_eq, State.cx_modCx_ne (h := h)]
  rfl

/-- A bank is manual for another context than `x`. -/
theorem any_holder_ne_iff {b : NdBank} {x : CtxId} : b.holder.any (· != x) = true ↔ ∃ y, y ≠ x ∧ b.holder = some y := by
  cases b.holder <;> simp

/-- No bank that the write sets is manual for another context. -/
theorem ndmanClash_eq_none {s : State} {x : CtxId} {v : BitVec 4}
    (h : ∀ i : Fin 4, v.getLsbD i.val = true → ∀ y, (ndBank s i.val).holder = some y → y = x) : ndmanClash s x v = none := by
  refine List.find?_range_eq_none.mpr fun i hi => ?_
  rw [Bool.not_eq_true', Bool.and_eq_false_imp, Bool.eq_false_iff, Ne, any_holder_ne_iff]
  rintro hv ⟨y, hy, hold⟩
  exact hy (h ⟨i, hi⟩ hv y hold)

/-- The lowest bank that the write sets and that is manual for another context (R393). -/
theorem ndmanClash_eq_some {s : State} {x : CtxId} {v : BitVec 4} {i : Fin 4} (hv : v.getLsbD i.val = true)
    (hi : ∃ y, y ≠ x ∧ (ndBank s i.val).holder = some y)
    (h : ∀ j, j < i → v.getLsbD j.val = true → ∀ y, (ndBank s j.val).holder = some y → y = x) :
    ndmanClash s x v = some i.val := by
  refine List.find?_range_eq_some.mpr ⟨?_, List.mem_range.mpr i.isLt, fun j hj => ?_⟩
  · exact Bool.and_eq_true_iff.mpr ⟨hv, any_holder_ne_iff.mpr hi⟩
  · rw [Bool.not_eq_true', Bool.and_eq_false_imp, Bool.eq_false_iff, Ne, any_holder_ne_iff]
    rintro hvj ⟨y, hy, hold⟩
    exact hy (h ⟨j, Nat.lt_trans hj i.isLt⟩ hj hvj y hold)

/-- The low four bits of a word. -/
theorem getLsbD_setWidth_four (v : Word) (i : Fin 4) : (v.setWidth 4).getLsbD i.val = v.getLsbD i.val := by
  simp

/-- A write of NDMAN whose banks are free, or the context's own, and can be handed over (R98). -/
theorem exec_crw_ndman_done {s : State} {a b : BitVec 6} (hz : hazard s [a, b] [] = false) (hn : (s.reg a).toNat = 0x002)
    (hfree : ∀ i : Fin 4, (s.reg b).getLsbD i.val = true → ∀ y, (ndBank s i.val).holder = some y → y = s.core.cur)
    (he : endFault s 1 = none) (hw : ndmanWaits s s.core.cur ((s.reg b).setWidth 4) = false) :
    exec (.crw a b) s = .next (ended s 1 (ndmanSet s s.core.cur ((s.reg b).setWidth 4))) := by
  have hclash : ndmanClash s s.core.cur ((s.reg b).setWidth 4) = none :=
    ndmanClash_eq_none fun i hi => hfree i (getLsbD_setWidth_four _ i ▸ hi)
  have hres : ndmanRes s (s.reg b) = .done (ndmanSet s s.core.cur ((s.reg b).setWidth 4)) := by
    simp only [ndmanRes, fld_zero _ (show 4 ≤ 64 by decide), hclash, hw, Bool.false_eq_true, if_false]
  rw [exec_crw_ndman hz hn, hres]
  exact retire_done he (by rw [cx_ndmanSet])

/-- A write of NDMAN that sets a bank that is manual for another context is NDRAM with subcode 5, for the lowest one (R393). -/
theorem exec_crw_ndman_clash {s : State} {a b : BitVec 6} (hz : hazard s [a, b] [] = false) (hn : (s.reg a).toNat = 0x002)
    {i : Fin 4} (hi : (s.reg b).getLsbD i.val = true) (hold : ∃ y, y ≠ s.core.cur ∧ (ndBank s i.val).holder = some y)
    (hlow : ∀ j, j < i → (s.reg b).getLsbD j.val = true → ∀ y, (ndBank s j.val).holder = some y → y = s.core.cur) :
    exec (.crw a b) s = .next (raised s 1 0x15 (BitVec.ofNat 64 (5 + i.val * 2 ^ 8))) := by
  have hclash : ndmanClash s s.core.cur ((s.reg b).setWidth 4) = some i.val :=
    ndmanClash_eq_some ((getLsbD_setWidth_four _ i).trans hi) hold fun j hj hv => hlow j hj (getLsbD_setWidth_four _ j ▸ hv)
  have hval : ∀ j : Fin 4, ndVal 5 j.val 0 0 = BitVec.ofNat 64 (5 + j.val * 2 ^ 8) := by decide
  have hres : ndmanRes s (s.reg b) = .fault ⟨0x15, BitVec.ofNat 64 (5 + i.val * 2 ^ 8)⟩ := by
    simp only [ndmanRes, fld_zero _ (show 4 ≤ 64 by decide), hclash, hval]
  rw [exec_crw_ndman hz hn, hres, retire_fault]

end Sys2Proof.Machine

namespace Sys2Proof
open Machine Bits

/-- Settles O32: each number is plain, of a hardware loop, of the core, NDMAN or illegal, and the lemma of its class gives the end of
the instruction from what the write makes of the context, the core or the banks. -/
theorem controlRegisterWrites : Obligations.ControlRegisterWrites := by
  intro s a b hz x n v at4 sets setsCore loop
  refine ⟨fun he => ⟨?_, ?_, ?_, ?_, ?_, ?_, ?_, ?_, ?_, ?_, ?_, ?_, ?_, ?_, ?_, ?_, ?_⟩, ?_, ?_, ?_⟩
  · exact fun hn => exec_crw_plain hz he hn (by decide) (Ctx.crSet_efl ..) rfl
  · exact fun hn => exec_crw_plain hz he hn (by decide) (Ctx.crSet_troot ..) rfl
  · exact fun hn => exec_crw_plain hz he hn (by decide) (Ctx.crSet_fmtst ..) rfl
  · exact fun hn => exec_crw_plain hz he hn (by decide) (Ctx.crSet_tctl ..) rfl
  · exact fun hn => exec_crw_plain hz he hn (by decide) (Ctx.crSet_thcode ..) rfl
  · exact fun hn => exec_crw_plain hz he hn (by decide) (Ctx.crSet_thdata ..) rfl
  · exact fun hn => exec_crw_plain hz he hn (by decide) (Ctx.crSet_trec ..) rfl
  · exact fun hn => exec_crw_plain hz he hn (by decide) (Ctx.crSet_tpc ..) rfl
  · exact fun i hn => exec_crw_plain hz he hn (by omega) (Ctx.crSet_tscr ..) rfl
  · exact fun hn => exec_crw_plain hz he hn (by decide) (Ctx.crSet_tstat ..) rfl
  · exact fun i hn => exec_crw_plain hz he hn (by omega) (Ctx.crSet_wm ..) (by split <;> rfl)
  · exact fun hn => exec_crw_plain hz he hn (by decide) (Ctx.crSet_kick ..) rfl
  · intro i hn
    rw [← mxcMask_eq i]
    exact exec_crw_plain hz he hn (by omega) (Ctx.crSet_mxc ..) rfl
  · exact fun hn => exec_crw_plain hz he hn (by decide) (Ctx.crSet_accf ..) rfl
  · exact fun h1 h2 => exec_crw_plain hz he rfl (by omega) (Ctx.crSet_reserved _ _ h1) rfl
  · exact fun hn => exec_crw_core hz he hn (.inl rfl) (coreSet_srseed ..)
  · exact fun hn => exec_crw_core hz he hn (.inr rfl) (coreSet_bistst ..)
  · intro l e he hn hend
    simp only [List.mem_cons, List.not_mem_nil, or_false] at he
    obtain rfl | rfl | rfl := he
    · exact exec_crw_loop hz hn (by omega) (Ctx.crSet_hlcnt ..) hend
    · exact exec_crw_loop hz hn (by omega) (Ctx.crSet_hlstart ..) hend
    · exact exec_crw_loop hz hn (by omega) (Ctx.crSet_hlfin ..) hend
  · refine fun hn => ⟨fun hfree he hw => ?_, fun i hi hold hlow => exec_crw_ndman_clash hz hn hi hold hlow⟩
    refine ⟨_, exec_crw_ndman_done hz hn hfree he hw, cx_ndmanSet .., fun y hy => cx_ndmanSet_ne _ _ hy, ?_, ?_, fun i => ?_⟩
    · rw [ndmanSet_eq]; rfl
    · rw [ndmanSet_eq]; rfl
    · rw [ndBank_ndmanSet _ _ _ i.isLt, bit, bit, getLsbD_setWidth_four]; rfl
  · exact fun hn => exec_crw_illegal hz hn

end Sys2Proof
